-- ==== Sys2Proof/Word.lean ====
section
/-! DEFINITION. The word types of the package and the sparse map that every store of the model is kept in. -/

namespace Sys2Proof

/-- A byte of memory, of the Canvas, of block-shared memory or of a slot. -/
abbrev Byte := BitVec 8
/-- A scalar register, a control register, a hub register, an instruction word (R39, R247). -/
abbrev Word := BitVec 64
/-- One lane register of one thread (R58). -/
abbrev W32 := BitVec 32
/-- A 512-bit record, packet or completion element (R172, R173, R310). -/
abbrev Rec512 := BitVec 512
/-- A bitmap over the package's 384 cores (R198). -/
abbrev CoreMap := BitVec 384

/-- A map from numbers to values that differs from a background `d` in finitely many places: the pairs stand in
strictly rising key order and no pair holds the background value of its key (`Sparse.wf`). -/
abbrev Sparse (α : Type) := List (Nat × α)

namespace Sparse
variable {α : Type}

/-- The value at `k`: the listed one, else the background's. -/
def get (d : Nat → α) : Sparse α → Nat → α
  | [], k => d k
  | (a, v) :: r, k => if a = k then v else get d r k

/-- Removes every pair of key `k`. -/
def erase : Sparse α → Nat → Sparse α
  | [], _ => []
  | (a, v) :: r, k => if a = k then erase r k else (a, v) :: erase r k

/-- Puts a pair before the first larger key. -/
def ins : Sparse α → Nat → α → Sparse α
  | [], k, v => [(k, v)]
  | (a, w) :: r, k, v => if k < a then (k, v) :: (a, w) :: r else (a, w) :: ins r k v

/-- Writes `v` at `k`; writing the background value removes the entry. -/
def put [DecidableEq α] (d : Nat → α) (m : Sparse α) (k : Nat) (v : α) : Sparse α :=
  if v = d k then erase m k else ins (erase m k) k v

/-- Writes `v` at `k` without comparing it with the background: for stores keyed by a number that are only ever looked up. -/
def set (m : Sparse α) (k : Nat) (v : α) : Sparse α := ins (erase m k) k v

/-- Keys strictly rise from above `lo`. -/
def rising : Nat → Sparse α → Bool
  | _, [] => true
  | lo, (a, _) :: r => decide (lo ≤ a) && rising (a + 1) r

/-- The canonical form: keys strictly rising, no entry equal to the background. -/
def wf [DecidableEq α] (d : Nat → α) (m : Sparse α) : Bool :=
  rising 0 m && m.all (fun p => decide (p.2 ≠ d p.1))

end Sparse

/-- The number with bits `[lo + n - 1 : lo]` of `x`. -/
def field {w : Nat} (x : BitVec w) (lo n : Nat) : BitVec n := x.extractLsb' lo n

/-- The same bits as a number. -/
def fieldNat {w : Nat} (x : BitVec w) (lo n : Nat) : Nat := (x.extractLsb' lo n).toNat

/-- Bit `i` as a Bool. -/
abbrev bitAt {w : Nat} (x : BitVec w) (i : Nat) : Bool := x.getLsbD i

/-- `x` with bits `[lo + n - 1 : lo]` replaced by `v`. -/
def setField {w : Nat} (x : BitVec w) (lo n : Nat) (v : Nat) : BitVec w :=
  (x &&& ~~~ (BitVec.ofNat w ((2 ^ n - 1) * 2 ^ lo))) ||| BitVec.ofNat w ((v % 2 ^ n) * 2 ^ lo)

/-- Ceiling division. -/
def ceilDiv (a b : Nat) : Nat := (a + b - 1) / b

/-- The bytes of `x`, least significant first, `n` of them (R14). -/
def toBytes {w : Nat} (x : BitVec w) : Nat → List Byte
  | 0 => []
  | n + 1 => x.extractLsb' 0 8 :: toBytes (x >>> 8) n

/-- The number whose little-endian bytes are `l`. -/
def ofBytesNat : List Byte → Nat
  | [] => 0
  | b :: r => b.toNat + 256 * ofBytesNat r

/-- The word whose little-endian bytes are `l`. -/
def ofBytes (w : Nat) (l : List Byte) : BitVec w := BitVec.ofNat w (ofBytesNat l)

/-- `[a, a + 1, …]`, `n` numbers. -/
def rangeFrom (a : Nat) : Nat → List Nat
  | 0 => []
  | n + 1 => a :: rangeFrom (a + 1) n

/-- Replaces entry `i` of a list. -/
def setNth {α : Type} : List α → Nat → α → List α
  | [], _, _ => []
  | _ :: r, 0, v => v :: r
  | x :: r, n + 1, v => x :: setNth r n v

end Sys2Proof
end

