-- ==== Sys2Proof/Syntax.lean ====
section
/-! DEFINITION. The syntax: operand codes, engine records, packets, ring commands and the one inductive `Instr`, one constructor
per row of the opcode table. -/

namespace Sys2Proof

/-- A scalar register number (R61). -/
abbrev SReg := BitVec 6
/-- A lane register number (R61). -/
abbrev LReg := BitVec 9

/-- The type codes of R47, in code order. -/
inductive ETy where
  | i32 | n32 | i64 | n64 | f32 | f64 | f16 | bf16 | i16 | n16 | i8 | n8 | b8
  deriving DecidableEq, Repr

/-- The rounding modes of R125, in code order. -/
inductive Rnd where
  | rne | rtz | rup | rdn | rna
  deriving DecidableEq, Repr

/-- The condition codes of R45, in code order. -/
inductive Cond where
  | eq | ne | lt | le | gt | ge | un | or
  deriving DecidableEq, Repr

/-- The memory orders of R45, in code order. -/
inductive MOrd where
  | relaxed | acquire | release | acqRel
  deriving DecidableEq, Repr

/-- The atomic operations of R45, in code order. -/
inductive AOp where
  | add | and | or | xor | min | max | minu | maxu | swap | fadd
  deriving DecidableEq, Repr

/-- Access sizes: 1, 2, 4 and 8 bytes, in code order (R44). -/
inductive Sz where
  | b1 | b2 | b4 | b8
  deriving DecidableEq, Repr

/-- The fence kinds of R227, in code order. -/
inductive FenceKind where
  | acqRel | acq | rel | seq
  deriving DecidableEq, Repr

/-- The reduction operations: 0 add, 1 min, 2 max (R158, R277). -/
inductive ROp where
  | add | min | max
  deriving DecidableEq, Repr

/-- The formats of a reduction range, in code order (R158). -/
inductive RFmt where
  | f32 | bf16 | f64 | i32wrap | i32sat
  deriving DecidableEq, Repr

/-- The prefetch levels of R226, in code order. -/
inductive PrefLevel where
  | core | l2 | msc
  deriving DecidableEq, Repr

/-- The engine queues of R50, in code order. -/
inductive EQueue where
  | lq | sq | mq | vq | oq
  deriving DecidableEq, Repr

/-- A binary8 format with its saturating bit, as the `vc` field carries it (R47). -/
structure B8Fmt where
  p : BitVec 3
  signed : Bool
  inf : Bool
  sat : Bool
  deriving DecidableEq, Repr

/-! Engine records: every bit of the 512 stands in a field, the must-be-zero ones too, because a record with one of them set is
accepted by the push and refused at record start (R174, R180, R287). -/

/-- Bits [63:8] of every record (R172). -/
structure RecHead where
  notify : Bool
  flags : BitVec 7
  waitsel : BitVec 3
  res : BitVec 5
  tag : BitVec 8
  waitval : BitVec 32
  deriving DecidableEq, Repr

/-- A copy record (R179). -/
structure CopyRec where
  head : RecHead
  gva : BitVec 64
  canvas : BitVec 32
  tbar : BitVec 32
  n0 : BitVec 16
  n1 : BitVec 16
  n2 : BitVec 16
  n3 : BitVec 16
  g0 : BitVec 32
  g1 : BitVec 32
  g2 : BitVec 32
  g3 : BitVec 32
  order : BitVec 8
  rows1 : BitVec 8
  cols1 : BitVec 8
  es : BitVec 2
  resA : BitVec 14
  swzMode : BitVec 2
  swzMask : BitVec 3
  resB : BitVec 3
  desc : BitVec 2
  resC : BitVec 14
  dval : BitVec 16
  resD : BitVec 48
  deriving DecidableEq, Repr

/-- A matrix record (R283). -/
structure MatRec where
  head : RecHead
  fa : BitVec 8
  fb : BitVec 8
  acc : BitVec 2
  mt : BitVec 2
  nt : BitVec 2
  kg : BitVec 2
  resA : BitVec 8
  a : BitVec 19
  aswzMode : BitVec 2
  aswzMask : BitVec 3
  b : BitVec 19
  bswzMode : BitVec 2
  bswzMask : BitVec 3
  c : BitVec 11
  resB : BitVec 5
  n0 : BitVec 16
  n1 : BitVec 16
  n2 : BitVec 16
  n3 : BitVec 16
  ai0 : BitVec 24
  ai1 : BitVec 24
  ai2 : BitVec 24
  ai3 : BitVec 24
  bi0 : BitVec 24
  bi1 : BitVec 24
  bi2 : BitVec 24
  bi3 : BitVec 24
  ci0 : BitVec 12
  ci1 : BitVec 12
  ci2 : BitVec 12
  ci3 : BitVec 12
  bitmap : BitVec 19
  resC : BitVec 29
  deriving DecidableEq, Repr

/-- A slot record: MZERO, MLDC or MRET (R289). -/
structure SlotRec where
  head : RecHead
  gva : BitVec 64
  fmt : BitVec 8
  scale : BitVec 8
  rnd : BitVec 3
  acc : BitVec 2
  resA : BitVec 11
  c : BitVec 11
  resB : BitVec 21
  n0 : BitVec 16
  n1 : BitVec 16
  n2 : BitVec 16
  n3 : BitVec 16
  rs : BitVec 32
  gi0 : BitVec 32
  gi1 : BitVec 32
  gi2 : BitVec 32
  gi3 : BitVec 32
  ci0 : BitVec 12
  ci1 : BitVec 12
  ci2 : BitVec 12
  ci3 : BitVec 12
  resC : BitVec 48
  deriving DecidableEq, Repr

/-- A vector record (R300). -/
structure VecRec where
  head : RecHead
  fx : BitVec 8
  fy : BitVec 8
  fw : BitVec 8
  fz : BitVec 8
  rnd : BitVec 3
  misc : BitVec 4
  resA : BitVec 1
  locx : BitVec 2
  locz : BitVec 2
  locy : BitVec 1
  locw : BitVec 1
  resB : BitVec 2
  e : BitVec 8
  resC : BitVec 8
  x : BitVec 64
  z : BitVec 64
  y : BitVec 32
  w : BitVec 32
  n0 : BitVec 16
  n1 : BitVec 16
  sx : BitVec 32
  sy : BitVec 32
  sw : BitVec 32
  sz : BitVec 32
  resD : BitVec 32
  deriving DecidableEq, Repr

/-- Who writes a hub or chiplet-window register (R19, R381). -/
inductive Writer where
  | firmware               -- hub firmware
  | host (mode : BitVec 2) -- a host core in that mode
  | other                  -- any other core
  deriving DecidableEq, Repr

/-- A request of a client host, translated by the IOMMU (R109). -/
inductive ClientReq where
  | read (va : Word) (n : Nat)
  | write (va : Word) (data : List Byte)
  deriving DecidableEq, Repr

/-- Where a reduction from outside the package comes from (R161): a peer, by its DEVNUM, the partition its request carries and the physical
address it names, or a client host of a partition, by the address the IOMMU translates (R109). -/
inductive RedSource where
  | peer (dev : Nat) (part : Option Nat) (pa : Nat)
  | client (part : Nat) (va : Word)
  deriving DecidableEq, Repr

/-- What ECC finds on a line (R76). -/
inductive EccOutcome where
  | clean | corrected | uncorrectable
  deriving DecidableEq, Repr

/-- Where in the systolic part an engine step acts: core, control context, queue. -/
structure EngineRef where
  core : Nat
  ctx : Nat
  queue : EQueue
  deriving DecidableEq, Repr

/-- The operations and events of the package, one constructor per row of the opcode table. Scalar and lane instructions carry the
operands their words name; engine records carry the record; packets and ring commands carry their 512-bit packet or the
physical address of their ring entry; events carry what the outside or the clock supplies. -/
inductive Instr where
  -- scalar arithmetic
  | add (w : Bool) (sd sa sb : SReg)
  | addImm (w : Bool) (sd sa : SReg) (imm : BitVec 40)
  | sub (w : Bool) (sd sa sb : SReg)
  | subImm (w : Bool) (sd sa : SReg) (imm : BitVec 40)
  | mul (w : Bool) (sd sa sb : SReg)
  | mulImm (w : Bool) (sd sa : SReg) (imm : BitVec 40)
  | mulh (w : Bool) (sd sa sb : SReg)
  | mulhImm (w : Bool) (sd sa : SReg) (imm : BitVec 40)
  | mulhu (w : Bool) (sd sa sb : SReg)
  | mulhuImm (w : Bool) (sd sa : SReg) (imm : BitVec 40)
  | div (w : Bool) (sd sa sb : SReg)
  | divImm (w : Bool) (sd sa : SReg) (imm : BitVec 40)
  | divu (w : Bool) (sd sa sb : SReg)
  | divuImm (w : Bool) (sd sa : SReg) (imm : BitVec 40)
  | rem (w : Bool) (sd sa sb : SReg)
  | remImm (w : Bool) (sd sa : SReg) (imm : BitVec 40)
  | remu (w : Bool) (sd sa sb : SReg)
  | remuImm (w : Bool) (sd sa : SReg) (imm : BitVec 40)
  | and (w : Bool) (sd sa sb : SReg)
  | andImm (w : Bool) (sd sa : SReg) (imm : BitVec 40)
  | or (w : Bool) (sd sa sb : SReg)
  | orImm (w : Bool) (sd sa : SReg) (imm : BitVec 40)
  | xor (w : Bool) (sd sa sb : SReg)
  | xorImm (w : Bool) (sd sa : SReg) (imm : BitVec 40)
  | andn (w : Bool) (sd sa sb : SReg)
  | andnImm (w : Bool) (sd sa : SReg) (imm : BitVec 40)
  | orn (w : Bool) (sd sa sb : SReg)
  | ornImm (w : Bool) (sd sa : SReg) (imm : BitVec 40)
  | xnor (w : Bool) (sd sa sb : SReg)
  | xnorImm (w : Bool) (sd sa : SReg) (imm : BitVec 40)
  | shl (w : Bool) (sd sa sb : SReg)
  | shlImm (w : Bool) (sd sa : SReg) (amt : BitVec 6)
  | shr (w : Bool) (sd sa sb : SReg)
  | shrImm (w : Bool) (sd sa : SReg) (amt : BitVec 6)
  | sar (w : Bool) (sd sa sb : SReg)
  | sarImm (w : Bool) (sd sa : SReg) (amt : BitVec 6)
  | rol (w : Bool) (sd sa sb : SReg)
  | rolImm (w : Bool) (sd sa : SReg) (amt : BitVec 6)
  | ror (w : Bool) (sd sa sb : SReg)
  | rorImm (w : Bool) (sd sa : SReg) (amt : BitVec 6)
  | min (w : Bool) (sd sa sb : SReg)
  | minImm (w : Bool) (sd sa : SReg) (imm : BitVec 40)
  | max (w : Bool) (sd sa sb : SReg)
  | maxImm (w : Bool) (sd sa : SReg) (imm : BitVec 40)
  | minu (w : Bool) (sd sa sb : SReg)
  | minuImm (w : Bool) (sd sa : SReg) (imm : BitVec 40)
  | maxu (w : Bool) (sd sa sb : SReg)
  | maxuImm (w : Bool) (sd sa : SReg) (imm : BitVec 40)
  | seq (w : Bool) (sd sa sb : SReg)
  | seqImm (w : Bool) (sd sa : SReg) (imm : BitVec 40)
  | sne (w : Bool) (sd sa sb : SReg)
  | sneImm (w : Bool) (sd sa : SReg) (imm : BitVec 40)
  | slt (w : Bool) (sd sa sb : SReg)
  | sltImm (w : Bool) (sd sa : SReg) (imm : BitVec 40)
  | sltu (w : Bool) (sd sa sb : SReg)
  | sltuImm (w : Bool) (sd sa : SReg) (imm : BitVec 40)
  | sle (w : Bool) (sd sa sb : SReg)
  | sleImm (w : Bool) (sd sa : SReg) (imm : BitVec 40)
  | sleu (w : Bool) (sd sa sb : SReg)
  | sleuImm (w : Bool) (sd sa : SReg) (imm : BitVec 40)
  | sel (sd sa sb sc : SReg)
  | madd (w : Bool) (sd sa sb sc : SReg)
  | addsh (w : Bool) (sd sa sb : SReg) (k : BitVec 6)
  | popc (w : Bool) (sd sa : SReg)
  | clz (w : Bool) (sd sa : SReg)
  | ctz (w : Bool) (sd sa : SReg)
  | brev (w : Bool) (sd sa : SReg)
  | bfx (sd sa sb sc : SReg)
  | bfxImm (sd sa : SReg) (lo : BitVec 6) (wd : BitVec 7)
  | bfxu (sd sa sb sc : SReg)
  | bfxuImm (sd sa : SReg) (lo : BitVec 6) (wd : BitVec 7)
  | bfi (sd sa sb sc : SReg)
  | bfiImm (sd sa : SReg) (lo : BitVec 6) (wd : BitVec 7)
  | mlow (sd sa sb : SReg)
  | mlowImm (sd sa : SReg) (n : BitVec 7)
  | mclr (sd sa sb : SReg)
  | mclrImm (sd sa : SReg) (n : BitVec 7)
  | movi (sd : SReg) (imm : BitVec 32)
  | moviN32 (sd : SReg) (imm : BitVec 32)
  | moviHi (sd : SReg) (imm : BitVec 32)
  | movi64 (sd : SReg) (imm : BitVec 64)
  -- control flow
  | br (disp : BitVec 40)
  | beq (sa sb : SReg) (disp : BitVec 34)
  | bne (sa sb : SReg) (disp : BitVec 34)
  | blt (sa sb : SReg) (disp : BitVec 34)
  | bge (sa sb : SReg) (disp : BitVec 34)
  | bltu (sa sb : SReg) (disp : BitVec 34)
  | bgeu (sa sb : SReg) (disp : BitVec 34)
  | bz (sa : SReg) (disp : BitVec 34)
  | bnz (sa : SReg) (disp : BitVec 34)
  | loop (sa : SReg) (disp : BitVec 34)
  | call (disp : BitVec 40)
  | callr (sa : SReg)
  | jr (sa : SReg)
  -- scalar memory
  | ld (sz : Sz) (sx : Bool) (k : BitVec 2) (sd sa sb : SReg)
  | ldImm (sz : Sz) (sx : Bool) (sd sa : SReg) (imm : BitVec 32)
  | st (sz : Sz) (k : BitVec 2) (sd sa sb : SReg)
  | stImm (sz : Sz) (sd sa : SReg) (imm : BitVec 32)
  | ldo (sz : Sz) (sx : Bool) (scope : BitVec 5) (sd sa : SReg) (imm : BitVec 32)
  | sto (sz : Sz) (scope : BitVec 5) (sd sa : SReg) (imm : BitVec 32)
  | atom (sz : Sz) (op : AOp) (ord : MOrd) (scope : BitVec 5) (sd sa sb : SReg)
  | cas (sz : Sz) (ord : MOrd) (scope : BitVec 5) (sd sa sb sc : SReg)
  | pref (lvl : PrefLevel) (wr : Bool) (sa : SReg) (imm : BitVec 32)
  | fence (kind : FenceKind) (scope : BitVec 5)
  | reds (sz : Sz) (sa sb : SReg)
  -- execution
  | bar (b : BitVec 4)
  | bararr (b : BitVec 4)
  | barwt (b : BitVec 4)
  | attach (sa : SReg) (disp : BitVec 34)
  | nap (sa : SReg)
  | napImm (n : BitVec 16)
  | tbinit (sa sb : SReg)
  | tbarr (sa sb : SReg)
  | tbwait (sd sa sb : SReg)
  | cwb (sa sb : SReg)
  | cinv (sa sb : SReg)
  | cwbi (sa sb : SReg)
  | rrdef (fmt : RFmt) (op : ROp) (sa sb : SReg)
  | rrdrop (sa : SReg)
  | dset (sa sb sc : SReg)
  | dget (sd sa : SReg)
  -- system
  | movc (sd : SReg) (n : BitVec 10)
  | mtc (n : BitVec 10) (sa : SReg)
  | trap (n : BitVec 16)
  | time (sd : SReg)
  | ppoint (k : BitVec 16)
  | tlbiPage (sa : SReg)
  | acwait (t : BitVec 3)
  | launch (sa sb : SReg)
  -- lane integer
  | iadd (t : ETy) (sat : Bool) (sm : SReg) (vd va vb : LReg)
  | iaddImm (t : ETy) (sat : Bool) (sm : SReg) (vd va : LReg) (imm : BitVec 18)
  | isub (t : ETy) (sat : Bool) (sm : SReg) (vd va vb : LReg)
  | isubImm (t : ETy) (sat : Bool) (sm : SReg) (vd va : LReg) (imm : BitVec 18)
  | imul (t : ETy) (sm : SReg) (vd va vb : LReg)
  | imulImm (t : ETy) (sm : SReg) (vd va : LReg) (imm : BitVec 18)
  | imulh (t : ETy) (sm : SReg) (vd va vb : LReg)
  | imulhImm (t : ETy) (sm : SReg) (vd va : LReg) (imm : BitVec 18)
  | imad (t : ETy) (sm : SReg) (vd va vb vc : LReg)
  | iand (t : ETy) (sm : SReg) (vd va vb : LReg)
  | iandImm (t : ETy) (sm : SReg) (vd va : LReg) (imm : BitVec 18)
  | ior (t : ETy) (sm : SReg) (vd va vb : LReg)
  | iorImm (t : ETy) (sm : SReg) (vd va : LReg) (imm : BitVec 18)
  | ixor (t : ETy) (sm : SReg) (vd va vb : LReg)
  | ixorImm (t : ETy) (sm : SReg) (vd va : LReg) (imm : BitVec 18)
  | ishl (t : ETy) (sm : SReg) (vd va vb : LReg)
  | ishlImm (t : ETy) (sm : SReg) (vd va : LReg) (amt : BitVec 6)
  | ishr (t : ETy) (sm : SReg) (vd va vb : LReg)
  | ishrImm (t : ETy) (sm : SReg) (vd va : LReg) (amt : BitVec 6)
  | isar (t : ETy) (sm : SReg) (vd va vb : LReg)
  | isarImm (t : ETy) (sm : SReg) (vd va : LReg) (amt : BitVec 6)
  | imin (t : ETy) (sm : SReg) (vd va vb : LReg)
  | iminImm (t : ETy) (sm : SReg) (vd va : LReg) (imm : BitVec 18)
  | imax (t : ETy) (sm : SReg) (vd va vb : LReg)
  | imaxImm (t : ETy) (sm : SReg) (vd va : LReg) (imm : BitVec 18)
  | iabs (t : ETy) (sm : SReg) (vd va : LReg)
  | ipopc (t : ETy) (sm : SReg) (vd va : LReg)
  | iclz (t : ETy) (sm : SReg) (vd va : LReg)
  | ibfx (t : ETy) (sm : SReg) (vd va vb vc : LReg)
  | ibfxImm (t : ETy) (sm : SReg) (vd va : LReg) (lo : BitVec 6) (wd : BitVec 7)
  | isel (t : ETy) (sm : SReg) (vd va vb vc : LReg)
  | icmp (t : ETy) (c : Cond) (sm : SReg) (sd : SReg) (va vb : LReg)
  | icmpImm (t : ETy) (c : Cond) (sm : SReg) (sd : SReg) (va : LReg) (imm : BitVec 18)
  | idiv (t : ETy) (sm : SReg) (vd va vb : LReg)
  | idivImm (t : ETy) (sm : SReg) (vd va : LReg) (imm : BitVec 18)
  -- lane floating point
  | fadd (t : ETy) (r : Rnd) (sm : SReg) (vd va vb : LReg)
  | fsub (t : ETy) (r : Rnd) (sm : SReg) (vd va vb : LReg)
  | fmul (t : ETy) (r : Rnd) (sm : SReg) (vd va vb : LReg)
  | ffma (t : ETy) (r : Rnd) (sm : SReg) (vd va vb vc : LReg)
  | fmin (t : ETy) (sm : SReg) (vd va vb : LReg)
  | fmax (t : ETy) (sm : SReg) (vd va vb : LReg)
  | fdiv (t : ETy) (r : Rnd) (sm : SReg) (vd va vb : LReg)
  | fsqrt (t : ETy) (r : Rnd) (sm : SReg) (vd va : LReg)
  | frcp (t : ETy) (sm : SReg) (vd va : LReg)
  | frsq (t : ETy) (sm : SReg) (vd va : LReg)
  | fex2 (t : ETy) (sm : SReg) (vd va : LReg)
  | flg2 (t : ETy) (sm : SReg) (vd va : LReg)
  | fsin (t : ETy) (sm : SReg) (vd va : LReg)
  | fcos (t : ETy) (sm : SReg) (vd va : LReg)
  | fcmp (t : ETy) (c : Cond) (sm : SReg) (sd : SReg) (va vb : LReg)
  | fclass (t : ETy) (sm : SReg) (vd va : LReg)
  | cvt (d src : ETy) (r : Rnd) (f : B8Fmt) (sm : SReg) (vd va : LReg)
  | packb (src : ETy) (r : Rnd) (f : B8Fmt) (sm : SReg) (vd va vb : LReg)
  | unpkb (d : ETy) (k : BitVec 2) (f : B8Fmt) (sm : SReg) (vd va : LReg)
  -- cross-lane
  | shfl (t : ETy) (sm : SReg) (vd va vb : LReg)
  | shflImm (t : ETy) (sm : SReg) (vd va : LReg) (k : BitVec 6)
  | shflup (t : ETy) (sm : SReg) (vd va : LReg) (k : BitVec 6)
  | shfldn (t : ETy) (sm : SReg) (vd va : LReg) (k : BitVec 6)
  | shflx (t : ETy) (sm : SReg) (vd va : LReg) (k : BitVec 6)
  | ballot (t : ETy) (sm : SReg) (sd : SReg) (va : LReg)
  | laneid (sm : SReg) (vd : LReg)
  | redl (op : ROp) (t : ETy) (r : Rnd) (sm : SReg) (vd va : LReg)
  | scanl (op : ROp) (excl : Bool) (t : ETy) (r : Rnd) (sm : SReg) (vd va : LReg)
  | movl (t : ETy) (sm : SReg) (vd va : LReg)
  | movsl (t : ETy) (sm : SReg) (vd : LReg) (sa : SReg)
  | movls (t : ETy) (sm : SReg) (sd : SReg) (va : LReg) (k : BitVec 6)
  | pmma (t : ETy) (sm : SReg) (vd va vb vc : LReg)
  -- lane memory
  | ldl (t : ETy) (ord : MOrd) (scope : BitVec 4) (sm : SReg) (vd va vb : LReg)
  | ldlImm (t : ETy) (ord : MOrd) (scope : BitVec 4) (sm : SReg) (vd va : LReg) (imm : BitVec 18)
  | stl (t : ETy) (ord : MOrd) (scope : BitVec 4) (sm : SReg) (vd va vb : LReg)
  | stlImm (t : ETy) (ord : MOrd) (scope : BitVec 4) (sm : SReg) (vd va : LReg) (imm : BitVec 18)
  | ldsh (t : ETy) (sm : SReg) (vd va vb : LReg)
  | ldshImm (t : ETy) (sm : SReg) (vd va : LReg) (imm : BitVec 18)
  | stsh (t : ETy) (sm : SReg) (vd va vb : LReg)
  | stshImm (t : ETy) (sm : SReg) (vd va : LReg) (imm : BitVec 18)
  | atoml (op : AOp) (t : ETy) (ord : MOrd) (scope : BitVec 4) (sm : SReg) (vd va vb : LReg)
  | atomsh (op : AOp) (t : ETy) (ord : MOrd) (scope : BitVec 4) (sm : SReg) (vd va vb : LReg)
  | casl (t : ETy) (ord : MOrd) (scope : BitVec 4) (sm : SReg) (vd va vb vc : LReg)
  | redst (t : ETy) (sm : SReg) (vd va vb : LReg)
  | redstImm (t : ETy) (sm : SReg) (vd va : LReg) (imm : BitVec 18)
  | acpy (sz : BitVec 2) (tag : BitVec 3) (sm : SReg) (vd va vb : LReg)
  -- engine instructions
  | pushr (q : EQueue) (scope : BitVec 5) (sa : SReg)
  | pushm (q : EQueue) (scope : BitVec 5) (sd : SReg)
  | popq (scope : BitVec 5) (sa : SReg)
  | qwait (q : EQueue) (v : BitVec 37)
  | qwaitReg (q : EQueue) (sx : SReg)
  | qstat (sd : SReg) (q : EQueue)
  | leash (n : BitVec 37)
  | leashReg (sx : SReg)
  | aownr (sd : SReg) (slot : BitVec 11)
  | aownrReg (sd sx : SReg)
  | asave (sd : SReg) (slot : BitVec 11)
  | asaveReg (sd sx : SReg)
  | arest (sd : SReg) (slot : BitVec 11)
  | arestReg (sd sx : SReg)
  -- packets, ring commands, undecodable words, fetch faults, late faults
  | attestationReport (entry : Nat)
  | attestationKeyCertificate (entry : Nat)
  | deviceIdentityCertificate (entry : Nat)
  | copyAndForward (entry : Nat)
  | release (entry : Nat)
  | publish (entry : Nat)
  | query (entry : Nat)
  | zeroFill (entry : Nat)
  | zeroFillAndDeposit (entry : Nat)
  | lateFault (cause : BitVec 8) (addr lanes : Word) (isWrite : Bool)
  | dispatchPacket (q : Nat) (p : Rec512)
  | barrierAndPacket (q : Nat) (p : Rec512)
  | barrierOrPacket (q : Nat) (p : Rec512)
  | signalPacket (q : Nat) (p : Rec512)
  | rehang (entry : Nat)
  | unassignedOpcode (w : Word)
  | instructionFetchFault (cause sub : BitVec 8) (addr : Word)
  -- instructions without operands
  | nop
  | cohbar
  | detach
  | yield
  | eret
  | wfe
  | sev
  | halt
  | tlbiCtx
  | tlbiAll
  | lwait
  | qmark
  | unleash
  -- hub, sites, memory, translation events
  | packageResetRelease (fwOk : Bool) (fwMeas : BitVec 384) (policy : List (List Word))
  | linkTrained (site : Nat) (table : BitVec 2048) (sigOk : Bool) (digest : BitVec 384) (loaderOk : Bool)
  | chipletResetComplete (site : Nat)
  | siteLinkFailure (site : Nat)
  | siteDrainComplete (site : Nat)
  | siteDrainTimeout (site : Nat)
  | siteIso (site : Nat)
  | siteRst (site : Nat)
  | siteEnum (site : Nat)
  | featAccWrite (cls j : Nat) (v : Word)
  | registerWrite (pa : Nat) (v : Word) (w : Writer)
  | evringBaseWrite (ring : Nat) (v : Word) (w : Writer)
  | eventRingDrain (ring : Nat)
  | interleaveSetEnable (lp : Bool) (k : Nat) (v : Word) (w : Writer)
  | interleaveSetDisable (lp : Bool) (k : Nat) (v : Word) (w : Writer)
  | homeReadMiss (agent slice pa : Nat) (ecc : EccOutcome)
  | homeWrite (agent slice pa : Nat) (data : List Byte) (ecc : EccOutcome)
  | ncfWriteBack (site pa : Nat)
  | sliceEviction (agent slice pa : Nat)
  | remoteReduction (src : RedSource) (nb : Nat) (v : Word)
  | migctlEn (v : Word) (w : Writer)
  | counterEpoch
  | scrubPatrol (pa : Nat) (ecc : EccOutcome)
  | poolEn (v : Word) (w : Writer)
  | poolLoadLevel (core : Nat) (level : BitVec 4)
  | poolLevelTimeout (core : Nat)
  | poolHoldEnd (core : Nat)
  | poolLineLoss (base len : Nat)
  | poolMetadataLoss
  | peerAdmit (dev : Nat)
  | peerLinkFailure (dev : Nat)
  | regionInvalidation (dev region : Nat)
  | regionInvalidationTimeout (dev : Nat)
  | clientHostRequest (part : Nat) (req : ClientReq)
  | lmaxWrite (v : Word) (w : Writer)
  | lmaxPendEnd
  | streamTlbRenewal (core : Nat)
  | l2setWrite (site p : Nat) (v : Word) (w : Writer)
  | l2BucketPeriod (site slice : Nat)
  -- execution
  | attachGrant (block : Nat)
  | napEnd (u : Nat)
  -- system
  | lwaitExpiry (u : Nat)
  -- lane memory
  | acpyLaneLanded (u : Nat) (tag lane : Nat)
  -- engine records and engine events
  | cpld (r : CopyRec)
  | cpst (r : CopyRec)
  | cpcc (r : CopyRec)
  | cprd (r : CopyRec)
  | cpfill (r : CopyRec)
  | copyElementLanded (e : EngineRef) (ordinal : Nat)
  | mma (r : MatRec)
  | mmas (r : MatRec)
  | mzero (r : SlotRec)
  | mldc (r : SlotRec)
  | mret (r : SlotRec)
  | vadd (r : VecRec)
  | vsub (r : VecRec)
  | vmul (r : VecRec)
  | vfma (r : VecRec)
  | vmax (r : VecRec)
  | vmin (r : VecRec)
  | vexp (r : VecRec)
  | vrcp (r : VecRec)
  | vrsq (r : VecRec)
  | vcvt (r : VecRec)
  | vred (r : VecRec)
  | vscale (r : VecRec)
  | vcmp (r : VecRec)
  | vsel (r : VecRec)
  | engineLateError (e : EngineRef) (addr : Word)
  | retirementBoundary (core : Nat)
  -- the Shepherd
  | depSignalRead (q : Nat) (i : Nat)
  | memberPlacement (launch : Nat)
  | floorDeferTimeout (launch : Nat)
  | shepherdTick
  | saveDeadlineMiss (p : Nat)
  | unitSave (u : Nat)
  | taskDrain (u : Nat)
  | preemptTimeout (u : Nat)
  | unitRestore (id : Nat)
  | watchdog (p : Nat)
  | pctlRst (p : Nat)
  -- power, clocks
  | ringHubCycle (site : Nat)
  | refillPeriod
  | boostWindowEnd
  | coreHungry (core : Nat)
  | issueSelection (core quarter : Nat)
  | reservationRequest (u : Nat)
  | localityEpoch (core : Nat)
  | operatingPointRequest (core : Nat) (freq ratio : Nat)
  | voltageStep (core : Nat)
  | thermalSample (site : Nat) (temp : Nat) (sensors : List Nat)
  | wearUpdate (domain : Nat) (mv : Nat) (temp : Int)
  -- partitions
  | ownershipWrite (off : Nat) (v : Word) (w : Writer)
  | pstateEnWrite (p : Nat) (v : Word) (w : Writer)
  | pstateGuestWrite (p : Nat) (v : Word) (w : Writer)
  | pause (p : Nat)
  | pauseComplete (p : Nat)
  | resume (p : Nat)
  | migrate
  | rehash
  | commit
  -- fetch and late additions of the table
  | backInvalidation (region : Nat)
  | poolRangeRestore (base len : Nat)
  | poolPortTrained (sizeLog2 : Nat)
  | regionInvalidationAck (dev region : Nat)
  | poolTokenBucketRefill
  | engineRecordCompletion (e : EngineRef)
  deriving DecidableEq, Repr

end Sys2Proof
end

