-- ==== Sys2Proof/WellFormed.lean ====
section
/-! DEFINITION. Which terms of `Instr` an encoding can stand for: the reserved codes and immediate bits of R44, R47 to R51 and of
the chapters that own the instructions, as checks on the term. The decoder refuses what these checks refuse. -/

namespace Sys2Proof

namespace ETy

/-- 64-bit types, which occupy a pair of lane registers (R58, R259). -/
def is64 : ETy → Bool
  | i64 | n64 | f64 => true
  | _ => false

/-- Bits of a value of the type (R47); a binary8 code has 8. -/
def width : ETy → Nat
  | i64 | n64 | f64 => 64
  | i32 | n32 | f32 => 32
  | f16 | bf16 | i16 | n16 => 16
  | i8 | n8 | b8 => 8

/-- The i types. -/
def isSigned : ETy → Bool
  | i32 | i64 | i16 | i8 => true
  | _ => false

/-- The floating-point types of R265. -/
def isFloat : ETy → Bool
  | f64 | f32 | f16 | bf16 => true
  | _ => false

/-- i32, n32, i64, n64: the types of the integer operations (R262). -/
def isLaneInt : ETy → Bool
  | i32 | n32 | i64 | n64 => true
  | _ => false

/-- The 32-bit and 64-bit types: the types of the shuffles and of the lane atomics (R229, R274). -/
def isWide : ETy → Bool
  | i32 | n32 | f32 | i64 | n64 | f64 => true
  | _ => false

/-- n32 and n64: the types of BALLOT and the lane moves (R234, R276). -/
def isRaw : ETy → Bool
  | n32 | n64 => true
  | _ => false

end ETy

/-- A shift amount the type admits: bit 5 is reserved for 32-bit types (R262). -/
def laneAmountOk (t : ETy) (amt : BitVec 6) : Bool := t.is64 || decide (amt.toNat < 32)

/-- A shift amount W admits: bit 5 is reserved under W (R239). -/
def shiftAmountOk (w : Bool) (amt : BitVec 6) : Bool := !w || decide (amt.toNat < 32)

/-- A bit-field width of 1 to 64 (R240). -/
def widthOk (wd : BitVec 7) : Bool := decide (1 ≤ wd.toNat) && decide (wd.toNat ≤ 64)

/-- An immediate IBFX field: width 1 to w, low bit below w (R263). -/
def laneFieldOk (t : ETy) (lo : BitVec 6) (wd : BitVec 7) : Bool :=
  decide (1 ≤ wd.toNat) && decide (wd.toNat ≤ t.width) && decide (lo.toNat < t.width)

/-- The sign-extend bit is reserved for size 3 (R44, R221). -/
def sxOk (sz : Sz) (sx : Bool) : Bool := !(sx && sz == .b8)

/-- Sizes 2 and 3 only (R223, R228). -/
def szWide : Sz → Bool
  | .b4 | .b8 => true
  | _ => false

/-- The condition is one of codes 0 to 5 (R264). -/
def intCond : Cond → Bool
  | .un | .or => false
  | _ => true

/-- The rounding field is used for a float add and zero otherwise (R277). -/
def redRndOk (op : ROp) (t : ETy) (r : Rnd) : Bool := (t.isFloat && op == .add) || r == .rne

/-- A plain access has scope 0 (R49, R229). -/
def scopeOk (ord : MOrd) (scope : BitVec 4) : Bool := ord != .relaxed || scope == 0

/-- Atomic codes 0 to 7 take integer types, code 9 float types, and swap every type (R229). -/
def atomTypeOk (op : AOp) (t : ETy) : Bool :=
  t.isWide && (match op with
    | .swap => true
    | .fadd => t.isFloat
    | _ => !t.isFloat)

/-- `vc` [8:4] is all zero where neither side is binary8 (R271); p = 0 is reserved where one is (R47). -/
def cvtFmtOk (d src : ETy) (f : B8Fmt) : Bool :=
  if d == .b8 || src == .b8 then f.p != 0 else f.p == 0 && !f.signed && !f.inf

/-- f32, f16 and bf16: the other side of PACKB and UNPKB (R272, R273). -/
def packTy : ETy → Bool
  | .f32 | .f16 | .bf16 => true
  | _ => false

/-- The types a lane reduction accepts (R229). -/
def redTy : ETy → Bool
  | .f32 | .f64 | .bf16 | .i32 => true
  | _ => false

/-- The types REDL and SCANL accept (R277). -/
def scanTy (t : ETy) : Bool := t.isLaneInt || t.isFloat

/-- The queues that hold pushed records (R51). -/
def pushQueue : EQueue → Bool
  | .oq => false
  | _ => true

/-- The term uses no reserved code and no reserved immediate bit. Records, packets, ring commands and events are checked where
they act (R174, R311), and every one of them is well formed. -/
def Instr.wf : Instr → Bool
  | .shlImm w _ _ a | .shrImm w _ _ a | .sarImm w _ _ a | .rolImm w _ _ a | .rorImm w _ _ a => shiftAmountOk w a
  | .addsh w _ _ _ k => shiftAmountOk w k
  | .bfxImm _ _ _ wd | .bfxuImm _ _ _ wd | .bfiImm _ _ _ wd => widthOk wd
  | .loop sa _ => sa != 0
  | .ld sz sx _ _ _ _ | .ldImm sz sx _ _ _ | .ldo sz sx _ _ _ _ => sxOk sz sx
  | .atom sz _ _ _ _ _ _ | .cas sz _ _ _ _ _ _ | .reds sz _ _ => szWide sz
  | .rrdef fmt op _ _ => fmt != .i32sat || op == .add
  | .iadd t _ _ _ _ _ | .iaddImm t _ _ _ _ _ | .isub t _ _ _ _ _ | .isubImm t _ _ _ _ _ => t.isLaneInt
  | .imul t _ _ _ _ | .imulImm t _ _ _ _ | .imulh t _ _ _ _ | .imulhImm t _ _ _ _ => t.isLaneInt
  | .imad t _ _ _ _ _ => t.isLaneInt
  | .iand t _ _ _ _ | .iandImm t _ _ _ _ | .ior t _ _ _ _ | .iorImm t _ _ _ _ => t.isLaneInt
  | .ixor t _ _ _ _ | .ixorImm t _ _ _ _ => t.isLaneInt
  | .ishl t _ _ _ _ | .ishr t _ _ _ _ | .isar t _ _ _ _ => t.isLaneInt
  | .ishlImm t _ _ _ a | .ishrImm t _ _ _ a | .isarImm t _ _ _ a => t.isLaneInt && laneAmountOk t a
  | .imin t _ _ _ _ | .iminImm t _ _ _ _ | .imax t _ _ _ _ | .imaxImm t _ _ _ _ => t.isLaneInt
  | .iabs t _ _ _ | .ipopc t _ _ _ | .iclz t _ _ _ => t.isLaneInt
  | .ibfx t _ _ _ _ _ | .isel t _ _ _ _ _ => t.isLaneInt
  | .ibfxImm t _ _ _ lo wd => t.isLaneInt && laneFieldOk t lo wd
  | .icmp t c _ _ _ _ | .icmpImm t c _ _ _ _ => t.isLaneInt && intCond c
  | .idiv t _ _ _ _ | .idivImm t _ _ _ _ => t.isLaneInt
  | .fadd t _ _ _ _ _ | .fsub t _ _ _ _ _ | .fmul t _ _ _ _ _ | .fdiv t _ _ _ _ _ => t.isFloat
  | .ffma t _ _ _ _ _ _ => t.isFloat
  | .fmin t _ _ _ _ | .fmax t _ _ _ _ => t.isFloat
  | .fsqrt t _ _ _ _ => t.isFloat
  | .frcp t _ _ _ | .frsq t _ _ _ | .fex2 t _ _ _ | .flg2 t _ _ _ | .fsin t _ _ _ | .fcos t _ _ _ => t.isFloat
  | .fcmp t _ _ _ _ _ | .fclass t _ _ _ => t.isFloat
  | .cvt d src _ f _ _ _ => d != src && cvtFmtOk d src f
  | .packb src _ f _ _ _ _ => packTy src && f.p != 0
  | .unpkb d k f _ _ _ => packTy d && f.p != 0 && (d == .f32 || !bitAt k 0)
  | .shfl t _ _ _ _ | .shflImm t _ _ _ _ | .shflup t _ _ _ _ | .shfldn t _ _ _ _ | .shflx t _ _ _ _ => t.isWide
  | .ballot t _ _ _ => t.isRaw
  | .redl op t r _ _ _ => scanTy t && redRndOk op t r
  | .scanl op _ t r _ _ _ => scanTy t && redRndOk op t r
  | .movl t _ _ _ | .movsl t _ _ _ | .movls t _ _ _ _ => t.isRaw
  | .pmma t _ _ _ _ _ => t == .bf16 || t == .f64
  | .ldl t ord sc _ _ _ _ | .ldlImm t ord sc _ _ _ _ =>
    t != .b8 && (ord == .relaxed || ord == .acquire) && scopeOk ord sc
  | .stl t ord sc _ _ _ _ | .stlImm t ord sc _ _ _ _ =>
    t != .b8 && (ord == .relaxed || ord == .release) && scopeOk ord sc
  | .ldsh t _ _ _ _ | .ldshImm t _ _ _ _ | .stsh t _ _ _ _ | .stshImm t _ _ _ _ => t != .b8
  | .atoml op t _ _ _ _ _ _ => atomTypeOk op t
  | .atomsh op t _ sc _ _ _ _ => atomTypeOk op t && decide (sc.toNat ≤ 2)
  | .casl t _ _ _ _ _ _ _ => t.isWide
  | .redst t _ _ _ _ | .redstImm t _ _ _ _ => redTy t
  | .pushr q _ _ | .pushm q _ _ | .qwait q _ | .qwaitReg q _ => pushQueue q
  | .leash n => decide (1 ≤ n.toNat) && decide (n.toNat ≤ 64)
  | _ => true

end Sys2Proof
end

