-- ==== Sys2Proof/Config.lean ====
section
/-! DEFINITION. What an implementation fixes and what the spec leaves open. The free values are opaque constants without a body: no
proof can see them, so a claim holds whatever they are. Each is applied to the operands it depends on, or to the counter
`State.free`. -/

namespace Sys2Proof.Config

/-! ### Sizes of the package (R1, R6, R75, R198, R282, R288) -/

/-- Cores 0 to 63. -/
def hostCores : Nat := 64
/-- Cores 64 to 255 are SIMT cores; 256 to 383 systolic cores. -/
def simtBase : Nat := 64
/-- R198. -/
def sysBase : Nat := 256
/-- R198. -/
def cores : Nat := 384
/-- R75: bytes of a near channel, 2.25 GiB. -/
def nearBytes : Nat := 0x90000000
/-- R75: bytes of an LPDDR channel, 32 GiB. -/
def lpBytes : Nat := 0x800000000
/-- R19: base of the hub register block. -/
def hubBase : Nat := 0xFF00000000000
/-- R107: LSKEW, ns. -/
def lskew : Nat := 64
/-- R258, R314: the end address. -/
def endAddress : BitVec 64 := 0xFFFFFFFFFFFFFFF8

/-! ### Free values (log 4) -/

/-- Does a TLB or walk cache still hold an entry, and is it used (log 8)? -/
opaque tlbKeeps : Nat → Bool
/-- Does a core still hold a fetched code word (log 9)? -/
opaque fetchKeeps : Nat → Bool
/-- The approximation an operation offers (log 10): operation number, format width, operand. -/
opaque approx : Nat → BitVec 64 → BitVec 64
/-- Any choice the spec leaves to the implementation, as a number (log 4). -/
opaque choice : Nat → Nat
/-- A single value the spec leaves undefined (log 4). -/
opaque value : Nat → BitVec 64

/-! ### Fused and fixed values (log 12, 15) -/

/-- R354: the fused wear limit. -/
opaque wearMax : BitVec 64
/-- R351: the fused voltage table, mV by core and frequency. -/
opaque voltage : Nat → Nat → Nat
/-- R36: the attestation public key of the measurements, x then y. -/
opaque attestationKey : BitVec 384 → BitVec 768
/-- R37: the signature of a report's bytes by the attestation key of the measurements. -/
opaque attestationSignature : BitVec 384 → List (BitVec 8) → BitVec 768
/-- R38: the signature by the device identity key. -/
opaque identitySignature : List (BitVec 8) → BitVec 768
/-- R38: the device identity certificate. -/
opaque identityCertificate : List (BitVec 8)
/-- R38: the digest the attestation key was derived from. -/
opaque measurementDigest : BitVec 384 → List (BitVec 384) → BitVec 384

end Sys2Proof.Config
end

