-- ==== Sys2Proof/Decode.lean ====
section
/-! DEFINITION. The decoder (R39, R42 to R54): total on any words, refusing by name; then the encoder, from the same tables. The fields
of a word are pulled out once, in the heads `SHead`, `LHead` and `EHead`; the decoder of each class then reads a head. -/

namespace Sys2Proof

/-- Why a word, a record, a packet or a ring entry is no instruction. -/
inductive Reject where
  | unassignedOpcode  -- R55: the opcode is unassigned
  | reservedField     -- R55: a reserved field or bit is one
  | reservedCode      -- R55: a reserved code stands in a field
  | noSecondWord      -- a long instruction without its second word (R39)
  | unassignedOp      -- R52: a record's `op` byte is reserved
  deriving DecidableEq, Repr

/-! ### Codes -/

/-- R47. -/
def etyOfCode : BitVec 4 → Option ETy
  | 0 => some .i32 | 1 => some .n32 | 2 => some .i64 | 3 => some .n64
  | 4 => some .f32 | 5 => some .f64 | 6 => some .f16 | 7 => some .bf16
  | 8 => some .i16 | 9 => some .n16 | 10 => some .i8 | 11 => some .n8
  | 12 => some .b8
  | _ => none

/-- R47. -/
def ETy.code : ETy → BitVec 4
  | .i32 => 0 | .n32 => 1 | .i64 => 2 | .n64 => 3 | .f32 => 4 | .f64 => 5 | .f16 => 6 | .bf16 => 7
  | .i16 => 8 | .n16 => 9 | .i8 => 10 | .n8 => 11 | .b8 => 12

/-- R125. -/
def rndOfCode : BitVec 3 → Option Rnd
  | 0 => some .rne | 1 => some .rtz | 2 => some .rup | 3 => some .rdn | 4 => some .rna
  | _ => none

/-- R125. -/
def Rnd.code : Rnd → BitVec 3
  | .rne => 0 | .rtz => 1 | .rup => 2 | .rdn => 3 | .rna => 4

/-- R45: the conditions fill three bits. -/
def condOfCode : BitVec 3 → Cond
  | 0 => .eq | 1 => .ne | 2 => .lt | 3 => .le | 4 => .gt | 5 => .ge | 6 => .un | _ => .or

/-- R45. -/
def Cond.code : Cond → BitVec 3
  | .eq => 0 | .ne => 1 | .lt => 2 | .le => 3 | .gt => 4 | .ge => 5 | .un => 6 | .or => 7

/-- R45: the orders fill two bits. -/
def ordOfCode : BitVec 2 → MOrd
  | 0 => .relaxed | 1 => .acquire | 2 => .release | _ => .acqRel

/-- R45. -/
def MOrd.code : MOrd → BitVec 2
  | .relaxed => 0 | .acquire => 1 | .release => 2 | .acqRel => 3

/-- R45. -/
def aopOfCode : BitVec 4 → Option AOp
  | 0 => some .add | 1 => some .and | 2 => some .or | 3 => some .xor | 4 => some .min | 5 => some .max
  | 6 => some .minu | 7 => some .maxu | 8 => some .swap | 9 => some .fadd
  | _ => none

/-- R45. -/
def AOp.code : AOp → BitVec 4
  | .add => 0 | .and => 1 | .or => 2 | .xor => 3 | .min => 4 | .max => 5 | .minu => 6 | .maxu => 7 | .swap => 8 | .fadd => 9

/-- R44: size fields. -/
def szOfCode : BitVec 2 → Sz
  | 0 => .b1 | 1 => .b2 | 2 => .b4 | _ => .b8

/-- R44. -/
def Sz.code : Sz → BitVec 2
  | .b1 => 0 | .b2 => 1 | .b4 => 2 | .b8 => 3

/-- The size in bytes. -/
def Sz.bytes : Sz → Nat
  | .b1 => 1 | .b2 => 2 | .b4 => 4 | .b8 => 8

/-- R227. -/
def fenceOfCode : BitVec 2 → FenceKind
  | 0 => .acqRel | 1 => .acq | 2 => .rel | _ => .seq

/-- R227. -/
def FenceKind.code : FenceKind → BitVec 2
  | .acqRel => 0 | .acq => 1 | .rel => 2 | .seq => 3

/-- R44, R277: 3 is reserved. -/
def ropOfCode : BitVec 2 → Option ROp
  | 0 => some .add | 1 => some .min | 2 => some .max
  | _ => none

/-- R277. -/
def ROp.code : ROp → BitVec 2
  | .add => 0 | .min => 1 | .max => 2

/-- R44: the formats of RRDEF, 5 to 7 reserved. -/
def rfmtOfCode : BitVec 3 → Option RFmt
  | 0 => some .f32 | 1 => some .bf16 | 2 => some .f64 | 3 => some .i32wrap | 4 => some .i32sat
  | _ => none

/-- R44. -/
def RFmt.code : RFmt → BitVec 3
  | .f32 => 0 | .bf16 => 1 | .f64 => 2 | .i32wrap => 3 | .i32sat => 4

/-- R226: level 3 is reserved. -/
def prefOfCode : BitVec 2 → Option PrefLevel
  | 0 => some .core | 1 => some .l2 | 2 => some .msc
  | _ => none

/-- R226. -/
def PrefLevel.code : PrefLevel → BitVec 2
  | .core => 0 | .l2 => 1 | .msc => 2

/-- R50: codes 5 to 15 are reserved. -/
def queueOfCode : BitVec 4 → Option EQueue
  | 0 => some .lq | 1 => some .sq | 2 => some .mq | 3 => some .vq | 4 => some .oq
  | _ => none

/-- R50. -/
def EQueue.code : EQueue → BitVec 4
  | .lq => 0 | .sq => 1 | .mq => 2 | .vq => 3 | .oq => 4

/-- R47: the binary8 format in `vc`, whose bits [2:0] are zero. -/
def b8OfField (vc : BitVec 9) : B8Fmt :=
  { p := field vc 6 3, signed := bitAt vc 5, inf := bitAt vc 4, sat := bitAt vc 3 }

/-- R47. -/
def B8Fmt.toField (f : B8Fmt) : BitVec 9 :=
  f.p ++ BitVec.ofBool f.signed ++ BitVec.ofBool f.inf ++ BitVec.ofBool f.sat ++ (0 : BitVec 3)

/-! ### Heads -/

/-- R42: the head of an S word and its 40-bit tail. -/
structure SHead where
  op : BitVec 8
  i : Bool
  w : Bool
  sd : SReg
  sa : SReg
  t : BitVec 40
  deriving DecidableEq, Repr

/-- R43, forms R and B. -/
def SHead.sb (h : SHead) : SReg := field h.t 34 6
/-- R43, form R. -/
def SHead.sc (h : SHead) : SReg := field h.t 28 6
/-- R43, form R. -/
def SHead.func (h : SHead) : BitVec 28 := field h.t 0 28
/-- R43, form I32. -/
def SHead.func8 (h : SHead) : BitVec 8 := field h.t 32 8
/-- R43, form I32. -/
def SHead.imm32 (h : SHead) : BitVec 32 := field h.t 0 32
/-- R43, form B. -/
def SHead.disp34 (h : SHead) : BitVec 34 := field h.t 0 34

/-- R42. -/
def sHead (x : Word) : SHead :=
  { op := field x 54 8, i := bitAt x 53, w := bitAt x 52, sd := field x 46 6, sa := field x 40 6, t := field x 0 40 }

/-- R42. -/
def SHead.word (h : SHead) : Word :=
  (0 : BitVec 2) ++ h.op ++ BitVec.ofBool h.i ++ BitVec.ofBool h.w ++ h.sd ++ h.sa ++ h.t

/-- R46: the fields of an L word; with I = 1 `vb` and `vc` together are imm18. -/
structure LHead where
  op : BitVec 8
  i : Bool
  vd : LReg
  va : LReg
  vb : LReg
  vc : LReg
  sm : SReg
  ty : BitVec 4
  rnd : BitVec 3
  misc : BitVec 4
  deriving DecidableEq, Repr

/-- R46. -/
def LHead.imm (h : LHead) : BitVec 18 := h.vb ++ h.vc

/-- R46. -/
def lHead (x : Word) : LHead :=
  { op := field x 54 8, i := bitAt x 53, vd := field x 44 9, va := field x 35 9, vb := field x 26 9, vc := field x 17 9,
    sm := field x 11 6, ty := field x 7 4, rnd := field x 4 3, misc := field x 0 4 }

/-- R46. -/
def LHead.word (h : LHead) : Word :=
  (1 : BitVec 2) ++ h.op ++ BitVec.ofBool h.i ++ h.vd ++ h.va ++ h.vb ++ h.vc ++ h.sm ++ h.ty ++ h.rnd ++ h.misc

/-- R50. -/
structure EHead where
  op : BitVec 8
  q : BitVec 4
  sa : SReg
  sd : SReg
  t : BitVec 38
  deriving DecidableEq, Repr

/-- R50. -/
def eHead (x : Word) : EHead :=
  { op := field x 54 8, q := field x 50 4, sa := field x 44 6, sd := field x 38 6, t := field x 0 38 }

/-- R50. -/
def EHead.word (h : EHead) : Word := (2 : BitVec 2) ++ h.op ++ h.q ++ h.sa ++ h.sd ++ h.t

/-! ### Decoding -/

/-- The instruction, if it uses no reserved code. -/
def accept (i : Instr) : Except Reject Instr := if i.wf then .ok i else .error .reservedCode

/-- The instruction, if the fields its row does not use are zero and it uses no reserved code. -/
def acceptIf (unused : Bool) (i : Instr) : Except Reject Instr :=
  if unused then accept i else .error .reservedField

/-- `some` code or a refusal. -/
def withCode {α : Type} (c : Option α) (k : α → Except Reject Instr) : Except Reject Instr :=
  match c with
  | some x => k x
  | none => .error .reservedCode

/-- Opcodes of forms R and I40 with W (R44: ADD to XNOR, MIN to SLEU). -/
def decAlu (h : SHead) (r : Bool → SReg → SReg → SReg → Instr) (m : Bool → SReg → SReg → BitVec 40 → Instr) :
    Except Reject Instr :=
  if h.i then accept (m h.w h.sd h.sa h.t) else acceptIf (h.sc == 0 && h.func == 0) (r h.w h.sd h.sa h.sb)

/-- Shifts and rotates (R44): the I40 amount is imm40 [5:0]. -/
def decShift (h : SHead) (r : Bool → SReg → SReg → SReg → Instr) (m : Bool → SReg → SReg → BitVec 6 → Instr) :
    Except Reject Instr :=
  if h.i then acceptIf (field h.t 6 34 == 0) (m h.w h.sd h.sa (field h.t 0 6))
  else acceptIf (h.sc == 0 && h.func == 0) (r h.w h.sd h.sa h.sb)

/-- BFX, BFXU and BFI (R240). -/
def decField (h : SHead) (r : SReg → SReg → SReg → SReg → Instr) (m : SReg → SReg → BitVec 6 → BitVec 7 → Instr) :
    Except Reject Instr :=
  if h.i then acceptIf (!h.w && field h.t 13 27 == 0) (m h.sd h.sa (field h.t 0 6) (field h.t 6 7))
  else acceptIf (!h.w && h.func == 0) (r h.sd h.sa h.sb h.sc)

/-- MLOW and MCLR (R241). -/
def decMaskEdit (h : SHead) (r : SReg → SReg → SReg → Instr) (m : SReg → SReg → BitVec 7 → Instr) : Except Reject Instr :=
  if h.i then acceptIf (!h.w && field h.t 7 33 == 0) (m h.sd h.sa (field h.t 0 7))
  else acceptIf (!h.w && h.sc == 0 && h.func == 0) (r h.sd h.sa h.sb)

/-- The bit counts (R239). -/
def decUnary (h : SHead) (r : Bool → SReg → SReg → Instr) : Except Reject Instr :=
  acceptIf (!h.i && h.sb == 0 && h.sc == 0 && h.func == 0) (r h.w h.sd h.sa)

/-- Compare-and-branch (R244). -/
def decBranch (h : SHead) (r : SReg → SReg → BitVec 34 → Instr) : Except Reject Instr :=
  acceptIf (!h.i && !h.w && h.sd == 0) (r h.sa h.sb h.disp34)

/-- BZ, BNZ, LOOP and ATTACH, where `sb` is reserved too (R244). -/
def decBranch1 (h : SHead) (r : SReg → BitVec 34 → Instr) : Except Reject Instr :=
  acceptIf (!h.i && !h.w && h.sd == 0 && h.sb == 0) (r h.sa h.disp34)

/-- BR and CALL (R244, R245). -/
def decJump (h : SHead) (r : BitVec 40 → Instr) : Except Reject Instr :=
  acceptIf (!h.i && !h.w && h.sd == 0 && h.sa == 0) (r h.t)

/-- Form R with only `sa`. -/
def decSa (h : SHead) (r : SReg → Instr) : Except Reject Instr := acceptIf (!h.i && !h.w && h.sd == 0 && h.t == 0) (r h.sa)

/-- Form R with only `sd`. -/
def decSd (h : SHead) (r : SReg → Instr) : Except Reject Instr := acceptIf (!h.i && !h.w && h.sa == 0 && h.t == 0) (r h.sd)

/-- Form R with `sd` and `sa`. -/
def decSdSa (h : SHead) (r : SReg → SReg → Instr) : Except Reject Instr := acceptIf (!h.i && !h.w && h.t == 0) (r h.sd h.sa)

/-- Form R with `sa` and `sb`. -/
def decSaSb (h : SHead) (r : SReg → SReg → Instr) : Except Reject Instr :=
  acceptIf (!h.i && !h.w && h.sd == 0 && h.sc == 0 && h.func == 0) (r h.sa h.sb)

/-- Form R with `sa`, `sb` and `sc`. -/
def decSaSbSc (h : SHead) (r : SReg → SReg → SReg → Instr) : Except Reject Instr :=
  acceptIf (!h.i && !h.w && h.sd == 0 && h.func == 0) (r h.sa h.sb h.sc)

/-- Form R with `sd`, `sa` and `sb`. -/
def decSdSaSb (h : SHead) (r : SReg → SReg → SReg → Instr) : Except Reject Instr :=
  acceptIf (!h.i && !h.w && h.sc == 0 && h.func == 0) (r h.sd h.sa h.sb)

/-- Form R with no field. -/
def decNone (h : SHead) (i : Instr) : Except Reject Instr := acceptIf (!h.i && !h.w && h.sd == 0 && h.sa == 0 && h.t == 0) i

/-- Form I40 with only the low `n` bits of the immediate. -/
def decLow (n : Nat) (h : SHead) (r : BitVec n → Instr) : Except Reject Instr :=
  acceptIf (h.i && !h.w && h.sd == 0 && h.sa == 0 && h.t >>> n == 0) (r (field h.t 0 n))

/-- The S class (R44). -/
def decodeS (h : SHead) : Except Reject Instr :=
  match h.op.toNat with
  | 0x00 => decNone h .nop
  | 0x01 => decAlu h .add .addImm
  | 0x02 => decAlu h .sub .subImm
  | 0x03 => decAlu h .mul .mulImm
  | 0x04 => decAlu h .mulh .mulhImm
  | 0x05 => decAlu h .mulhu .mulhuImm
  | 0x06 => decAlu h .div .divImm
  | 0x07 => decAlu h .divu .divuImm
  | 0x08 => decAlu h .rem .remImm
  | 0x09 => decAlu h .remu .remuImm
  | 0x0A => decAlu h .and .andImm
  | 0x0B => decAlu h .or .orImm
  | 0x0C => decAlu h .xor .xorImm
  | 0x0D => decAlu h .andn .andnImm
  | 0x0E => decAlu h .orn .ornImm
  | 0x0F => decAlu h .xnor .xnorImm
  | 0x15 => decAlu h .min .minImm
  | 0x16 => decAlu h .max .maxImm
  | 0x17 => decAlu h .minu .minuImm
  | 0x18 => decAlu h .maxu .maxuImm
  | 0x19 => decAlu h .seq .seqImm
  | 0x1A => decAlu h .sne .sneImm
  | 0x1B => decAlu h .slt .sltImm
  | 0x1C => decAlu h .sltu .sltuImm
  | 0x1D => decAlu h .sle .sleImm
  | 0x1E => decAlu h .sleu .sleuImm
  | 0x10 => decShift h .shl .shlImm
  | 0x11 => decShift h .shr .shrImm
  | 0x12 => decShift h .sar .sarImm
  | 0x13 => decShift h .rol .rolImm
  | 0x14 => decShift h .ror .rorImm
  | 0x1F => acceptIf (!h.i && !h.w && h.func == 0) (.sel h.sd h.sa h.sb h.sc)
  | 0x20 => acceptIf (!h.i && h.func == 0) (.madd h.w h.sd h.sa h.sb h.sc)
  | 0x21 => acceptIf (!h.i && h.sc == 0 && field h.func 6 22 == 0) (.addsh h.w h.sd h.sa h.sb (field h.func 0 6))
  | 0x22 => decUnary h .popc
  | 0x23 => decUnary h .clz
  | 0x24 => decUnary h .ctz
  | 0x25 => decUnary h .brev
  | 0x26 => decField h .bfx .bfxImm
  | 0x27 => decField h .bfxu .bfxuImm
  | 0x28 => decField h .bfi .bfiImm
  | 0x29 => decMaskEdit h .mlow .mlowImm
  | 0x2A => decMaskEdit h .mclr .mclrImm
  | 0x2B =>
    if h.i && !h.w && h.sa == 0 then
      match h.func8.toNat with
      | 0 => accept (.movi h.sd h.imm32)
      | 1 => accept (.moviN32 h.sd h.imm32)
      | 2 => accept (.moviHi h.sd h.imm32)
      | _ => .error .reservedCode
    else .error .reservedField
  | 0x40 => decJump h .br
  | 0x41 => decBranch h .beq
  | 0x42 => decBranch h .bne
  | 0x43 => decBranch h .blt
  | 0x44 => decBranch h .bge
  | 0x45 => decBranch h .bltu
  | 0x46 => decBranch h .bgeu
  | 0x47 => decBranch1 h .bz
  | 0x48 => decBranch1 h .bnz
  | 0x49 => decJump h .call
  | 0x4A => decSa h .callr
  | 0x4B => decSa h .jr
  | 0x4C => decBranch1 h .loop
  | 0x60 =>
    if h.i then
      acceptIf (!h.w && field h.func8 3 5 == 0) (.ldImm (szOfCode (field h.func8 0 2)) (bitAt h.func8 2) h.sd h.sa h.imm32)
    else
      acceptIf (!h.w && h.sc == 0 && field h.func 5 23 == 0)
        (.ld (szOfCode (field h.func 0 2)) (bitAt h.func 2) (field h.func 3 2) h.sd h.sa h.sb)
  | 0x61 =>
    if h.i then
      acceptIf (!h.w && field h.func8 2 6 == 0) (.stImm (szOfCode (field h.func8 0 2)) h.sd h.sa h.imm32)
    else
      acceptIf (!h.w && h.sc == 0 && !bitAt h.func 2 && field h.func 5 23 == 0)
        (.st (szOfCode (field h.func 0 2)) (field h.func 3 2) h.sd h.sa h.sb)
  | 0x62 =>
    acceptIf (h.i && !h.w) (.ldo (szOfCode (field h.func8 0 2)) (bitAt h.func8 2) (field h.func8 3 5) h.sd h.sa h.imm32)
  | 0x63 =>
    acceptIf (h.i && !h.w && !bitAt h.func8 2) (.sto (szOfCode (field h.func8 0 2)) (field h.func8 3 5) h.sd h.sa h.imm32)
  | 0x64 =>
    withCode (aopOfCode (field h.func 2 4)) fun op =>
      acceptIf (!h.i && !h.w && h.sc == 0 && field h.func 13 15 == 0)
        (.atom (szOfCode (field h.func 0 2)) op (ordOfCode (field h.func 6 2)) (field h.func 8 5) h.sd h.sa h.sb)
  | 0x65 =>
    acceptIf (!h.i && !h.w && field h.func 2 4 == 0 && field h.func 13 15 == 0)
      (.cas (szOfCode (field h.func 0 2)) (ordOfCode (field h.func 6 2)) (field h.func 8 5) h.sd h.sa h.sb h.sc)
  | 0x66 =>
    withCode (prefOfCode (field h.func8 0 2)) fun lvl =>
      acceptIf (h.i && !h.w && h.sd == 0 && field h.func8 3 5 == 0) (.pref lvl (bitAt h.func8 2) h.sa h.imm32)
  | 0x67 =>
    acceptIf (h.i && !h.w && h.sd == 0 && h.sa == 0 && field h.func8 2 6 == 0 && field h.imm32 5 27 == 0)
      (.fence (fenceOfCode (field h.func8 0 2)) (field h.imm32 0 5))
  | 0x68 =>
    acceptIf (!h.i && !h.w && h.sd == 0 && h.sc == 0 && field h.func 2 26 == 0) (.reds (szOfCode (field h.func 0 2)) h.sa h.sb)
  | 0x70 => decLow 4 h .bar
  | 0x71 => decLow 4 h .bararr
  | 0x72 => decLow 4 h .barwt
  | 0x73 => decBranch1 h .attach
  | 0x74 => decNone h .detach
  | 0x75 => decNone h .cohbar
  | 0x76 => if h.i then decLow 16 h .napImm else decSa h .nap
  | 0x77 => decNone h .yield
  | 0x78 => decSaSb h .tbinit
  | 0x79 => decSaSb h .tbarr
  | 0x7A => decSdSaSb h .tbwait
  | 0x80 => decSaSb h .cwb
  | 0x81 => decSaSb h .cinv
  | 0x82 => decSaSb h .cwbi
  | 0x83 =>
    withCode (rfmtOfCode (field h.func 0 3)) fun fmt =>
      withCode (ropOfCode (field h.func 4 2)) fun op =>
        acceptIf (!h.i && !h.w && h.sd == 0 && h.sc == 0 && !bitAt h.func 3 && field h.func 6 22 == 0) (.rrdef fmt op h.sa h.sb)
  | 0x84 => decSa h .rrdrop
  | 0x85 => decSaSbSc h .dset
  | 0x86 => decSdSa h .dget
  | 0x90 => acceptIf (h.i && !h.w && h.sa == 0 && field h.t 10 30 == 0) (.movc h.sd (field h.t 0 10))
  | 0x91 => acceptIf (h.i && !h.w && h.sd == 0 && field h.t 10 30 == 0) (.mtc (field h.t 0 10) h.sa)
  | 0x92 => decLow 16 h .trap
  | 0x93 => decNone h .eret
  | 0x94 => decNone h .wfe
  | 0x95 => decNone h .sev
  | 0x96 => decNone h .halt
  | 0x97 => decSd h .time
  | 0x98 => decLow 16 h .ppoint
  | 0x99 =>
    if !h.i && !h.w && h.sd == 0 && h.sb == 0 && h.sc == 0 && field h.func 2 26 == 0 then
      match (field h.func 0 2).toNat with
      | 0 => accept (.tlbiPage h.sa)
      | 1 => if h.sa == 0 then accept .tlbiCtx else .error .reservedField
      | 2 => if h.sa == 0 then accept .tlbiAll else .error .reservedField
      | _ => .error .reservedCode
    else .error .reservedField
  | 0x9A => decNone h .lwait
  | 0x9B => decLow 3 h .acwait
  | 0x9C => decSaSb h .launch
  | _ => .error .unassignedOpcode

/-- Integer lane operations with a register and an immediate form (R48). -/
def decLInt (h : LHead) (t : ETy) (r : ETy → SReg → LReg → LReg → LReg → Instr)
    (m : ETy → SReg → LReg → LReg → BitVec 18 → Instr) : Except Reject Instr :=
  if h.i then acceptIf (h.rnd == 0 && h.misc == 0) (m t h.sm h.vd h.va h.imm)
  else acceptIf (h.vc == 0 && h.rnd == 0 && h.misc == 0) (r t h.sm h.vd h.va h.vb)

/-- IADD and ISUB, with the saturate bit misc [0] (R262). -/
def decLSat (h : LHead) (t : ETy) (r : ETy → Bool → SReg → LReg → LReg → LReg → Instr)
    (m : ETy → Bool → SReg → LReg → LReg → BitVec 18 → Instr) : Except Reject Instr :=
  if h.i then acceptIf (h.rnd == 0 && field h.misc 1 3 == 0) (m t (bitAt h.misc 0) h.sm h.vd h.va h.imm)
  else acceptIf (h.vc == 0 && h.rnd == 0 && field h.misc 1 3 == 0) (r t (bitAt h.misc 0) h.sm h.vd h.va h.vb)

/-- Lane shifts: the immediate amount is imm18 [5:0] (R262). -/
def decLShift (h : LHead) (t : ETy) (r : ETy → SReg → LReg → LReg → LReg → Instr)
    (m : ETy → SReg → LReg → LReg → BitVec 6 → Instr) : Except Reject Instr :=
  if h.i then acceptIf (h.rnd == 0 && h.misc == 0 && field h.imm 6 12 == 0) (m t h.sm h.vd h.va (field h.imm 0 6))
  else acceptIf (h.vc == 0 && h.rnd == 0 && h.misc == 0) (r t h.sm h.vd h.va h.vb)

/-- `vd`, `va` and nothing more. -/
def decL1 (h : LHead) (i : Instr) : Except Reject Instr :=
  acceptIf (!h.i && h.vb == 0 && h.vc == 0 && h.rnd == 0 && h.misc == 0) i

/-- `vd`, `va`, `vb` and nothing more. -/
def decL2 (h : LHead) (i : Instr) : Except Reject Instr :=
  acceptIf (!h.i && h.vc == 0 && h.rnd == 0 && h.misc == 0) i

/-- `vd`, `va`, `vb`, `vc` and nothing more. -/
def decL3 (h : LHead) (i : Instr) : Except Reject Instr := acceptIf (!h.i && h.rnd == 0 && h.misc == 0) i

/-- `vd`, `va`, `vb` and a rounding mode (R266). -/
def decLRnd2 (h : LHead) (r : Rnd → Instr) : Except Reject Instr :=
  withCode (rndOfCode h.rnd) fun m => acceptIf (!h.i && h.vc == 0 && h.misc == 0) (r m)

/-- A shuffle's immediate lane (R275). -/
def decLLane (h : LHead) (r : BitVec 6 → Instr) : Except Reject Instr :=
  acceptIf (h.i && h.rnd == 0 && h.misc == 0 && field h.imm 6 12 == 0) (r (field h.imm 0 6))

/-- Lane loads and stores with order and scope (R49, R229): order codes 4 to 7 are reserved. -/
def decLMem (h : LHead) (t : ETy) (r : ETy → MOrd → BitVec 4 → SReg → LReg → LReg → LReg → Instr)
    (m : ETy → MOrd → BitVec 4 → SReg → LReg → LReg → BitVec 18 → Instr) : Except Reject Instr :=
  if bitAt h.rnd 2 then .error .reservedCode
  else if h.i then accept (m t (ordOfCode (field h.rnd 0 2)) h.misc h.sm h.vd h.va h.imm)
  else acceptIf (h.vc == 0) (r t (ordOfCode (field h.rnd 0 2)) h.misc h.sm h.vd h.va h.vb)

/-- ATOML and ATOMSH (R231). -/
def decLAtom (h : LHead) (t : ETy) (r : AOp → ETy → MOrd → BitVec 4 → SReg → LReg → LReg → LReg → Instr) : Except Reject Instr :=
  if bitAt h.rnd 2 then .error .reservedCode
  else withCode (aopOfCode (field h.vc 0 4)) fun op =>
    acceptIf (!h.i && field h.vc 4 5 == 0) (r op t (ordOfCode (field h.rnd 0 2)) h.misc h.sm h.vd h.va h.vb)

/-- The L opcodes that carry a type (R48). -/
def decodeLTyped (h : LHead) (t : ETy) : Except Reject Instr :=
  match h.op.toNat with
  | 0x00 => decLSat h t .iadd .iaddImm
  | 0x01 => decLSat h t .isub .isubImm
  | 0x02 => decLInt h t .imul .imulImm
  | 0x03 => decLInt h t .imulh .imulhImm
  | 0x04 => decL3 h (.imad t h.sm h.vd h.va h.vb h.vc)
  | 0x05 => decLInt h t .iand .iandImm
  | 0x06 => decLInt h t .ior .iorImm
  | 0x07 => decLInt h t .ixor .ixorImm
  | 0x08 => decLShift h t .ishl .ishlImm
  | 0x09 => decLShift h t .ishr .ishrImm
  | 0x0A => decLShift h t .isar .isarImm
  | 0x0B => decLInt h t .imin .iminImm
  | 0x0C => decLInt h t .imax .imaxImm
  | 0x0D => decL1 h (.iabs t h.sm h.vd h.va)
  | 0x0E => decL1 h (.ipopc t h.sm h.vd h.va)
  | 0x0F => decL1 h (.iclz t h.sm h.vd h.va)
  | 0x10 =>
    if h.i then
      acceptIf (h.rnd == 0 && h.misc == 0 && field h.imm 13 5 == 0) (.ibfxImm t h.sm h.vd h.va (field h.imm 0 6) (field h.imm 6 7))
    else acceptIf (h.rnd == 0 && h.misc == 0) (.ibfx t h.sm h.vd h.va h.vb h.vc)
  | 0x11 => decL3 h (.isel t h.sm h.vd h.va h.vb h.vc)
  | 0x12 =>
    if h.i then
      acceptIf (h.rnd == 0 && !bitAt h.misc 3 && field h.vd 6 3 == 0)
        (.icmpImm t (condOfCode (field h.misc 0 3)) h.sm (field h.vd 0 6) h.va h.imm)
    else
      acceptIf (h.rnd == 0 && !bitAt h.misc 3 && field h.vd 6 3 == 0 && h.vc == 0)
        (.icmp t (condOfCode (field h.misc 0 3)) h.sm (field h.vd 0 6) h.va h.vb)
  | 0x13 => decLInt h t .idiv .idivImm
  | 0x20 => decLRnd2 h fun m => .fadd t m h.sm h.vd h.va h.vb
  | 0x21 => decLRnd2 h fun m => .fsub t m h.sm h.vd h.va h.vb
  | 0x22 => decLRnd2 h fun m => .fmul t m h.sm h.vd h.va h.vb
  | 0x23 => withCode (rndOfCode h.rnd) fun m => acceptIf (!h.i && h.misc == 0) (.ffma t m h.sm h.vd h.va h.vb h.vc)
  | 0x24 => decL2 h (.fmin t h.sm h.vd h.va h.vb)
  | 0x25 => decL2 h (.fmax t h.sm h.vd h.va h.vb)
  | 0x26 => decLRnd2 h fun m => .fdiv t m h.sm h.vd h.va h.vb
  | 0x27 => withCode (rndOfCode h.rnd) fun m => acceptIf (!h.i && h.vb == 0 && h.vc == 0 && h.misc == 0) (.fsqrt t m h.sm h.vd h.va)
  | 0x28 => decL1 h (.frcp t h.sm h.vd h.va)
  | 0x29 => decL1 h (.frsq t h.sm h.vd h.va)
  | 0x2A => decL1 h (.fex2 t h.sm h.vd h.va)
  | 0x2B => decL1 h (.flg2 t h.sm h.vd h.va)
  | 0x2C => decL1 h (.fsin t h.sm h.vd h.va)
  | 0x2D => decL1 h (.fcos t h.sm h.vd h.va)
  | 0x2E =>
    acceptIf (!h.i && h.rnd == 0 && !bitAt h.misc 3 && field h.vd 6 3 == 0 && h.vc == 0)
      (.fcmp t (condOfCode (field h.misc 0 3)) h.sm (field h.vd 0 6) h.va h.vb)
  | 0x2F => decL1 h (.fclass t h.sm h.vd h.va)
  | 0x30 =>
    withCode (etyOfCode h.misc) fun src => withCode (rndOfCode h.rnd) fun m =>
      acceptIf (!h.i && h.vb == 0 && field h.vc 0 3 == 0) (.cvt t src m (b8OfField h.vc) h.sm h.vd h.va)
  | 0x31 =>
    withCode (rndOfCode h.rnd) fun m =>
      acceptIf (!h.i && h.misc == 0 && field h.vc 0 3 == 0) (.packb t m (b8OfField h.vc) h.sm h.vd h.va h.vb)
  | 0x32 =>
    acceptIf (!h.i && h.vb == 0 && h.rnd == 0 && field h.misc 2 2 == 0 && field h.vc 0 3 == 0)
      (.unpkb t (field h.misc 0 2) (b8OfField h.vc) h.sm h.vd h.va)
  | 0x38 => if h.i then decLLane h (.shflImm t h.sm h.vd h.va) else decL2 h (.shfl t h.sm h.vd h.va h.vb)
  | 0x39 => decLLane h (.shflup t h.sm h.vd h.va)
  | 0x3A => decLLane h (.shfldn t h.sm h.vd h.va)
  | 0x3B => decLLane h (.shflx t h.sm h.vd h.va)
  | 0x3C =>
    acceptIf (!h.i && h.vb == 0 && h.vc == 0 && h.rnd == 0 && h.misc == 0 && field h.vd 6 3 == 0)
      (.ballot t h.sm (field h.vd 0 6) h.va)
  | 0x3D =>
    withCode (ropOfCode (field h.misc 0 2)) fun op => withCode (rndOfCode h.rnd) fun m =>
      acceptIf (!h.i && h.vb == 0 && h.vc == 0 && field h.misc 2 2 == 0) (.redl op t m h.sm h.vd h.va)
  | 0x3E =>
    withCode (ropOfCode (field h.misc 0 2)) fun op => withCode (rndOfCode h.rnd) fun m =>
      acceptIf (!h.i && h.vb == 0 && h.vc == 0 && !bitAt h.misc 3) (.scanl op (bitAt h.misc 2) t m h.sm h.vd h.va)
  | 0x3F =>
    acceptIf (!h.i && t == .n32 && h.va == 0 && h.vb == 0 && h.vc == 0 && h.rnd == 0 && h.misc == 0) (.laneid h.sm h.vd)
  | 0x40 => decL1 h (.movl t h.sm h.vd h.va)
  | 0x41 =>
    acceptIf (!h.i && field h.va 6 3 == 0 && h.vb == 0 && h.vc == 0 && h.rnd == 0 && h.misc == 0)
      (.movsl t h.sm h.vd (field h.va 0 6))
  | 0x42 =>
    acceptIf (h.i && field h.vd 6 3 == 0 && h.rnd == 0 && h.misc == 0 && field h.imm 6 12 == 0)
      (.movls t h.sm (field h.vd 0 6) h.va (field h.imm 0 6))
  | 0x48 => decL3 h (.pmma t h.sm h.vd h.va h.vb h.vc)
  | 0x50 => decLMem h t .ldl .ldlImm
  | 0x51 => decLMem h t .stl .stlImm
  | 0x52 => decLInt h t .ldsh .ldshImm
  | 0x53 => decLInt h t .stsh .stshImm
  | 0x54 => decLAtom h t .atoml
  | 0x55 => decLAtom h t .atomsh
  | 0x56 =>
    if bitAt h.rnd 2 then .error .reservedCode
    else acceptIf (!h.i) (.casl t (ordOfCode (field h.rnd 0 2)) h.misc h.sm h.vd h.va h.vb h.vc)
  | 0x57 => decLInt h t .redst .redstImm
  | _ => .error .unassignedOpcode

/-- The L class (R48). ACPY's size and tag lie in the func field (R48). -/
def decodeL (h : LHead) : Except Reject Instr :=
  if h.op == 0x58 then
    acceptIf (!h.i && h.vc == 0 && field h.ty 2 2 == 0 && h.misc == 0) (.acpy (field h.ty 0 2) h.rnd h.sm h.vd h.va h.vb)
  else
    match etyOfCode h.ty with
    | some t => decodeLTyped h t
    | none =>
      match decodeLTyped h .n32 with
      | .error .unassignedOpcode => .error .unassignedOpcode
      | _ => .error .reservedCode

/-- R50: bits [36:6] of a register operand X are zero. -/
def decX (h : EHead) (unused : Bool) (imm : BitVec 37 → Instr) (reg : SReg → Instr) : Except Reject Instr :=
  if bitAt h.t 37 then acceptIf (unused && field h.t 6 31 == 0) (reg (field h.t 0 6)) else acceptIf unused (imm (field h.t 0 37))

/-- A slot operand X, immediate 0 to 2,047 (R51). -/
def decSlot (h : EHead) (imm : SReg → BitVec 11 → Instr) (reg : SReg → SReg → Instr) : Except Reject Instr :=
  if h.q == 0 && h.sa == 0 then
    if bitAt h.t 37 then acceptIf (field h.t 6 31 == 0) (reg h.sd (field h.t 0 6))
    else if field h.t 11 26 == 0 then accept (imm h.sd (field h.t 0 11)) else .error .reservedCode
  else .error .reservedField

/-- The E class (R51). -/
def decodeE (h : EHead) : Except Reject Instr :=
  match h.op.toNat with
  | 0x00 => withCode (queueOfCode h.q) fun q => acceptIf (h.sd == 0 && field h.t 5 33 == 0) (.pushr q (field h.t 0 5) h.sa)
  | 0x01 => withCode (queueOfCode h.q) fun q => acceptIf (h.sa == 0 && field h.t 5 33 == 0) (.pushm q (field h.t 0 5) h.sd)
  | 0x02 => acceptIf (h.q == 4 && h.sd == 0 && field h.t 5 33 == 0) (.popq (field h.t 0 5) h.sa)
  | 0x03 => withCode (queueOfCode h.q) fun q => decX h (h.sa == 0 && h.sd == 0) (.qwait q) (.qwaitReg q)
  | 0x04 => withCode (queueOfCode h.q) fun q => acceptIf (h.sa == 0 && h.t == 0) (.qstat h.sd q)
  | 0x05 => acceptIf (h.q == 0 && h.sa == 0 && h.sd == 0 && h.t == 0) .qmark
  | 0x06 => decX h (h.q == 0 && h.sa == 0 && h.sd == 0) .leash .leashReg
  | 0x07 => acceptIf (h.q == 0 && h.sa == 0 && h.sd == 0 && h.t == 0) .unleash
  | 0x08 => decSlot h .aownr .aownrReg
  | 0x09 => decSlot h .asave .asaveReg
  | 0x0A => decSlot h .arest .arestReg
  | _ => .error .unassignedOpcode

/-- R54: the word is the first word of MOVI64, whose second word is fetched too. -/
def isLongFirst (w : Word) : Bool := field w 52 12 == 0xC00 && field w 0 46 == 0

/-- R39: one instruction from its first word and, for a long instruction, its second. -/
def decodeWord (w : Word) (second : Option Word) : Except Reject Instr :=
  match (field w 62 2).toNat with
  | 0 => decodeS (sHead w)
  | 1 => decodeL (lHead w)
  | 2 => decodeE (eHead w)
  | _ =>
    if field w 52 12 == 0xC00 then
      if field w 0 46 == 0 then
        match second with
        | some v => accept (.movi64 (field w 46 6) v)
        | none => .error .noSecondWord
      else .error .reservedField
    else .error .unassignedOpcode

/-! ### Records -/

/-- R172. -/
def recHead (r : Rec512) : RecHead :=
  { notify := bitAt r 8, flags := field r 9 7, waitsel := field r 16 3, res := field r 19 5, tag := field r 24 8,
    waitval := field r 32 32 }

/-- R179. -/
def copyRec (r : Rec512) : CopyRec :=
  { head := recHead r, gva := field r 64 64, canvas := field r 128 32, tbar := field r 160 32,
    n0 := field r 192 16, n1 := field r 208 16, n2 := field r 224 16, n3 := field r 240 16,
    g0 := field r 256 32, g1 := field r 288 32, g2 := field r 320 32, g3 := field r 352 32,
    order := field r 384 8, rows1 := field r 392 8, cols1 := field r 400 8, es := field r 408 2, resA := field r 410 14,
    swzMode := field r 424 2, swzMask := field r 426 3, resB := field r 429 3, desc := field r 432 2, resC := field r 434 14,
    dval := field r 448 16, resD := field r 464 48 }

/-- R283. -/
def matRec (r : Rec512) : MatRec :=
  { head := recHead r, fa := field r 64 8, fb := field r 72 8, acc := field r 80 2, mt := field r 82 2, nt := field r 84 2,
    kg := field r 86 2, resA := field r 88 8, a := field r 96 19, aswzMode := field r 115 2, aswzMask := field r 117 3,
    b := field r 120 19, bswzMode := field r 139 2, bswzMask := field r 141 3, c := field r 144 11, resB := field r 155 5,
    n0 := field r 160 16, n1 := field r 176 16, n2 := field r 192 16, n3 := field r 208 16,
    ai0 := field r 224 24, ai1 := field r 248 24, ai2 := field r 272 24, ai3 := field r 296 24,
    bi0 := field r 320 24, bi1 := field r 344 24, bi2 := field r 368 24, bi3 := field r 392 24,
    ci0 := field r 416 12, ci1 := field r 428 12, ci2 := field r 440 12, ci3 := field r 452 12,
    bitmap := field r 464 19, resC := field r 483 29 }

/-- R289. -/
def slotRec (r : Rec512) : SlotRec :=
  { head := recHead r, gva := field r 64 64, fmt := field r 128 8, scale := field r 136 8, rnd := field r 144 3,
    acc := field r 147 2, resA := field r 149 11, c := field r 160 11, resB := field r 171 21,
    n0 := field r 192 16, n1 := field r 208 16, n2 := field r 224 16, n3 := field r 240 16, rs := field r 256 32,
    gi0 := field r 288 32, gi1 := field r 320 32, gi2 := field r 352 32, gi3 := field r 384 32,
    ci0 := field r 416 12, ci1 := field r 428 12, ci2 := field r 440 12, ci3 := field r 452 12, resC := field r 464 48 }

/-- R300. -/
def vecRec (r : Rec512) : VecRec :=
  { head := recHead r, fx := field r 64 8, fy := field r 72 8, fw := field r 80 8, fz := field r 88 8, rnd := field r 96 3,
    misc := field r 99 4, resA := field r 103 1, locx := field r 104 2, locz := field r 106 2, locy := field r 108 1,
    locw := field r 109 1, resB := field r 110 2, e := field r 112 8, resC := field r 120 8, x := field r 128 64,
    z := field r 192 64, y := field r 256 32, w := field r 288 32, n0 := field r 320 16, n1 := field r 336 16,
    sx := field r 352 32, sy := field r 384 32, sw := field r 416 32, sz := field r 448 32, resD := field r 480 32 }

/-- R52: the operation of an engine record, by its `op` byte. (Noncomputable only because the code generator has no tags for so
many constructors; the kernel evaluates it.) -/
noncomputable def decodeRec (r : Rec512) : Except Reject Instr :=
  match fieldNat r 0 8 with
  | 0x10 => .ok (.cpld (copyRec r))
  | 0x11 => .ok (.cpst (copyRec r))
  | 0x12 => .ok (.cpcc (copyRec r))
  | 0x13 => .ok (.cprd (copyRec r))
  | 0x14 => .ok (.cpfill (copyRec r))
  | 0x20 => .ok (.mma (matRec r))
  | 0x21 => .ok (.mmas (matRec r))
  | 0x22 => .ok (.mzero (slotRec r))
  | 0x23 => .ok (.mldc (slotRec r))
  | 0x24 => .ok (.mret (slotRec r))
  | 0x40 => .ok (.vadd (vecRec r))
  | 0x41 => .ok (.vsub (vecRec r))
  | 0x42 => .ok (.vmul (vecRec r))
  | 0x43 => .ok (.vfma (vecRec r))
  | 0x44 => .ok (.vmax (vecRec r))
  | 0x45 => .ok (.vmin (vecRec r))
  | 0x46 => .ok (.vexp (vecRec r))
  | 0x47 => .ok (.vrcp (vecRec r))
  | 0x48 => .ok (.vrsq (vecRec r))
  | 0x49 => .ok (.vcvt (vecRec r))
  | 0x4A => .ok (.vred (vecRec r))
  | 0x4B => .ok (.vscale (vecRec r))
  | 0x4C => .ok (.vcmp (vecRec r))
  | 0x4D => .ok (.vsel (vecRec r))
  | _ => .error .unassignedOp

/-- R310: the operation of a packet of Shepherd queue `q`, by its `type` field. -/
def decodePacket (q : Nat) (p : Rec512) : Except Reject Instr :=
  match fieldNat p 0 4 with
  | 0 => .ok (.dispatchPacket q p)
  | 1 => .ok (.barrierAndPacket q p)
  | 2 => .ok (.barrierOrPacket q p)
  | 3 => .ok (.signalPacket q p)
  | _ => .error .reservedCode

/-! ### The host's entry -/

/-- The word of `n` bits of `w` above bit `lo`. -/
def wordOf (w lo : Nat) : Word := BitVec.ofNat 64 (w / 2 ^ lo)

/-- The instruction whose bits are `w`, `nbits` of them: up to 128 bits are WIS-6 words in memory order (R39), more are an engine
record (R172). -/
noncomputable def decodeTableWord (nbits w : Nat) : Option Instr :=
  if nbits ≤ 128 then
    match decodeWord (wordOf (w % 2 ^ nbits) 0) (some (wordOf (w % 2 ^ nbits) 64)) with
    | .ok i => some i
    | .error _ => none
  else
    match decodeRec (BitVec.ofNat 512 (w % 2 ^ nbits)) with
    | .ok i => some i
    | .error _ => none

/-! ### Encoding -/

/-- Form R (R43). -/
def encR (op : BitVec 8) (w : Bool) (sd sa sb sc : SReg) (func : BitVec 28) : List Word :=
  [SHead.word { op := op, i := false, w := w, sd := sd, sa := sa, t := sb ++ sc ++ func }]

/-- Form I40 (R43). -/
def encI40 (op : BitVec 8) (w : Bool) (sd sa : SReg) (imm : BitVec 40) : List Word :=
  [SHead.word { op := op, i := true, w := w, sd := sd, sa := sa, t := imm }]

/-- Form I32 (R43). -/
def encI32 (op : BitVec 8) (sd sa : SReg) (func8 : BitVec 8) (imm : BitVec 32) : List Word :=
  [SHead.word { op := op, i := true, w := false, sd := sd, sa := sa, t := func8 ++ imm }]

/-- Form B (R43). -/
def encB (op : BitVec 8) (sa sb : SReg) (disp : BitVec 34) : List Word :=
  [SHead.word { op := op, i := false, w := false, sd := 0, sa := sa, t := sb ++ disp }]

/-- Form J (R43). -/
def encJ (op : BitVec 8) (disp : BitVec 40) : List Word :=
  [SHead.word { op := op, i := false, w := false, sd := 0, sa := 0, t := disp }]

/-- The L layout, register form (R46). -/
def encL (op : BitVec 8) (vd va vb vc : LReg) (sm : SReg) (ty : BitVec 4) (rnd : BitVec 3) (misc : BitVec 4) : List Word :=
  [LHead.word { op := op, i := false, vd := vd, va := va, vb := vb, vc := vc, sm := sm, ty := ty, rnd := rnd, misc := misc }]

/-- The L layout, immediate form (R46). -/
def encLI (op : BitVec 8) (vd va : LReg) (imm : BitVec 18) (sm : SReg) (ty : BitVec 4) (rnd : BitVec 3) (misc : BitVec 4) : List Word :=
  [LHead.word { op := op, i := true, vd := vd, va := va, vb := field imm 9 9, vc := field imm 0 9, sm := sm, ty := ty, rnd := rnd, misc := misc }]

/-- The E layout (R50). -/
def encE (op : BitVec 8) (q : BitVec 4) (sa sd : SReg) (t : BitVec 38) : List Word :=
  [EHead.word { op := op, q := q, sa := sa, sd := sd, t := t }]

/-- An immediate operand X (R50). -/
def xImm (v : BitVec 37) : BitVec 38 := (0 : BitVec 1) ++ v
/-- A register operand X (R50). -/
def xReg (s : SReg) : BitVec 38 := (1 : BitVec 1) ++ (0 : BitVec 31) ++ s
/-- A scalar register in a lane register field (R46). -/
def sIn9 (s : SReg) : LReg := (0 : BitVec 3) ++ s
/-- A lane number in imm18 (R275). -/
def k18 (k : BitVec 6) : BitVec 18 := (0 : BitVec 12) ++ k

/-- R172. -/
def RecHead.bits (h : RecHead) (op : BitVec 8) : BitVec 64 :=
  h.waitval ++ h.tag ++ h.res ++ h.waitsel ++ h.flags ++ BitVec.ofBool h.notify ++ op

/-- R179. -/
def CopyRec.bits (r : CopyRec) (op : BitVec 8) : Rec512 :=
  r.resD ++ r.dval ++ r.resC ++ r.desc ++ r.resB ++ r.swzMask ++ r.swzMode ++ r.resA ++ r.es ++ r.cols1 ++ r.rows1 ++ r.order ++
  r.g3 ++ r.g2 ++ r.g1 ++ r.g0 ++ r.n3 ++ r.n2 ++ r.n1 ++ r.n0 ++ r.tbar ++ r.canvas ++ r.gva ++ r.head.bits op

/-- R283. -/
def MatRec.bits (r : MatRec) (op : BitVec 8) : Rec512 :=
  r.resC ++ r.bitmap ++ r.ci3 ++ r.ci2 ++ r.ci1 ++ r.ci0 ++ r.bi3 ++ r.bi2 ++ r.bi1 ++ r.bi0 ++ r.ai3 ++ r.ai2 ++ r.ai1 ++ r.ai0 ++
  r.n3 ++ r.n2 ++ r.n1 ++ r.n0 ++ r.resB ++ r.c ++ r.bswzMask ++ r.bswzMode ++ r.b ++ r.aswzMask ++ r.aswzMode ++ r.a ++
  r.resA ++ r.kg ++ r.nt ++ r.mt ++ r.acc ++ r.fb ++ r.fa ++ r.head.bits op

/-- R289. -/
def SlotRec.bits (r : SlotRec) (op : BitVec 8) : Rec512 :=
  r.resC ++ r.ci3 ++ r.ci2 ++ r.ci1 ++ r.ci0 ++ r.gi3 ++ r.gi2 ++ r.gi1 ++ r.gi0 ++ r.rs ++ r.n3 ++ r.n2 ++ r.n1 ++ r.n0 ++
  r.resB ++ r.c ++ r.resA ++ r.acc ++ r.rnd ++ r.scale ++ r.fmt ++ r.gva ++ r.head.bits op

/-- R300. -/
def VecRec.bits (r : VecRec) (op : BitVec 8) : Rec512 :=
  r.resD ++ r.sz ++ r.sw ++ r.sy ++ r.sx ++ r.n1 ++ r.n0 ++ r.w ++ r.y ++ r.z ++ r.x ++ r.resC ++ r.e ++ r.resB ++ r.locw ++ r.locy ++
  r.locz ++ r.locx ++ r.resA ++ r.misc ++ r.rnd ++ r.fz ++ r.fw ++ r.fy ++ r.fx ++ r.head.bits op

/-- The eight words of a record, the first at the lowest address (R172). -/
def recWords (r : Rec512) : List Word :=
  [field r 0 64, field r 64 64, field r 128 64, field r 192 64, field r 256 64, field r 320 64, field r 384 64, field r 448 64]

/-- The words of an S-class instruction (R44); none for the other classes. -/
def encodeS : Instr → List Word
  | .nop => encR 0x00 false 0 0 0 0 0
  | .add w sd sa sb => encR 0x01 w sd sa sb 0 0
  | .addImm w sd sa imm => encI40 0x01 w sd sa imm
  | .sub w sd sa sb => encR 0x02 w sd sa sb 0 0
  | .subImm w sd sa imm => encI40 0x02 w sd sa imm
  | .mul w sd sa sb => encR 0x03 w sd sa sb 0 0
  | .mulImm w sd sa imm => encI40 0x03 w sd sa imm
  | .mulh w sd sa sb => encR 0x04 w sd sa sb 0 0
  | .mulhImm w sd sa imm => encI40 0x04 w sd sa imm
  | .mulhu w sd sa sb => encR 0x05 w sd sa sb 0 0
  | .mulhuImm w sd sa imm => encI40 0x05 w sd sa imm
  | .div w sd sa sb => encR 0x06 w sd sa sb 0 0
  | .divImm w sd sa imm => encI40 0x06 w sd sa imm
  | .divu w sd sa sb => encR 0x07 w sd sa sb 0 0
  | .divuImm w sd sa imm => encI40 0x07 w sd sa imm
  | .rem w sd sa sb => encR 0x08 w sd sa sb 0 0
  | .remImm w sd sa imm => encI40 0x08 w sd sa imm
  | .remu w sd sa sb => encR 0x09 w sd sa sb 0 0
  | .remuImm w sd sa imm => encI40 0x09 w sd sa imm
  | .and w sd sa sb => encR 0x0A w sd sa sb 0 0
  | .andImm w sd sa imm => encI40 0x0A w sd sa imm
  | .or w sd sa sb => encR 0x0B w sd sa sb 0 0
  | .orImm w sd sa imm => encI40 0x0B w sd sa imm
  | .xor w sd sa sb => encR 0x0C w sd sa sb 0 0
  | .xorImm w sd sa imm => encI40 0x0C w sd sa imm
  | .andn w sd sa sb => encR 0x0D w sd sa sb 0 0
  | .andnImm w sd sa imm => encI40 0x0D w sd sa imm
  | .orn w sd sa sb => encR 0x0E w sd sa sb 0 0
  | .ornImm w sd sa imm => encI40 0x0E w sd sa imm
  | .xnor w sd sa sb => encR 0x0F w sd sa sb 0 0
  | .xnorImm w sd sa imm => encI40 0x0F w sd sa imm
  | .min w sd sa sb => encR 0x15 w sd sa sb 0 0
  | .minImm w sd sa imm => encI40 0x15 w sd sa imm
  | .max w sd sa sb => encR 0x16 w sd sa sb 0 0
  | .maxImm w sd sa imm => encI40 0x16 w sd sa imm
  | .minu w sd sa sb => encR 0x17 w sd sa sb 0 0
  | .minuImm w sd sa imm => encI40 0x17 w sd sa imm
  | .maxu w sd sa sb => encR 0x18 w sd sa sb 0 0
  | .maxuImm w sd sa imm => encI40 0x18 w sd sa imm
  | .seq w sd sa sb => encR 0x19 w sd sa sb 0 0
  | .seqImm w sd sa imm => encI40 0x19 w sd sa imm
  | .sne w sd sa sb => encR 0x1A w sd sa sb 0 0
  | .sneImm w sd sa imm => encI40 0x1A w sd sa imm
  | .slt w sd sa sb => encR 0x1B w sd sa sb 0 0
  | .sltImm w sd sa imm => encI40 0x1B w sd sa imm
  | .sltu w sd sa sb => encR 0x1C w sd sa sb 0 0
  | .sltuImm w sd sa imm => encI40 0x1C w sd sa imm
  | .sle w sd sa sb => encR 0x1D w sd sa sb 0 0
  | .sleImm w sd sa imm => encI40 0x1D w sd sa imm
  | .sleu w sd sa sb => encR 0x1E w sd sa sb 0 0
  | .sleuImm w sd sa imm => encI40 0x1E w sd sa imm
  | .shl w sd sa sb => encR 0x10 w sd sa sb 0 0
  | .shlImm w sd sa a => encI40 0x10 w sd sa ((0 : BitVec 34) ++ a)
  | .shr w sd sa sb => encR 0x11 w sd sa sb 0 0
  | .shrImm w sd sa a => encI40 0x11 w sd sa ((0 : BitVec 34) ++ a)
  | .sar w sd sa sb => encR 0x12 w sd sa sb 0 0
  | .sarImm w sd sa a => encI40 0x12 w sd sa ((0 : BitVec 34) ++ a)
  | .rol w sd sa sb => encR 0x13 w sd sa sb 0 0
  | .rolImm w sd sa a => encI40 0x13 w sd sa ((0 : BitVec 34) ++ a)
  | .ror w sd sa sb => encR 0x14 w sd sa sb 0 0
  | .rorImm w sd sa a => encI40 0x14 w sd sa ((0 : BitVec 34) ++ a)
  | .sel sd sa sb sc => encR 0x1F false sd sa sb sc 0
  | .madd w sd sa sb sc => encR 0x20 w sd sa sb sc 0
  | .addsh w sd sa sb k => encR 0x21 w sd sa sb 0 ((0 : BitVec 22) ++ k)
  | .popc w sd sa => encR 0x22 w sd sa 0 0 0
  | .clz w sd sa => encR 0x23 w sd sa 0 0 0
  | .ctz w sd sa => encR 0x24 w sd sa 0 0 0
  | .brev w sd sa => encR 0x25 w sd sa 0 0 0
  | .bfx sd sa sb sc => encR 0x26 false sd sa sb sc 0
  | .bfxImm sd sa lo wd => encI40 0x26 false sd sa ((0 : BitVec 27) ++ wd ++ lo)
  | .bfxu sd sa sb sc => encR 0x27 false sd sa sb sc 0
  | .bfxuImm sd sa lo wd => encI40 0x27 false sd sa ((0 : BitVec 27) ++ wd ++ lo)
  | .bfi sd sa sb sc => encR 0x28 false sd sa sb sc 0
  | .bfiImm sd sa lo wd => encI40 0x28 false sd sa ((0 : BitVec 27) ++ wd ++ lo)
  | .mlow sd sa sb => encR 0x29 false sd sa sb 0 0
  | .mlowImm sd sa k => encI40 0x29 false sd sa ((0 : BitVec 33) ++ k)
  | .mclr sd sa sb => encR 0x2A false sd sa sb 0 0
  | .mclrImm sd sa k => encI40 0x2A false sd sa ((0 : BitVec 33) ++ k)
  | .movi sd imm => encI32 0x2B sd 0 0 imm
  | .moviN32 sd imm => encI32 0x2B sd 0 1 imm
  | .moviHi sd imm => encI32 0x2B sd 0 2 imm
  | .movi64 sd imm => [(0xC00 : BitVec 12) ++ sd ++ (0 : BitVec 46), imm]
  | .br d => encJ 0x40 d
  | .beq sa sb d => encB 0x41 sa sb d
  | .bne sa sb d => encB 0x42 sa sb d
  | .blt sa sb d => encB 0x43 sa sb d
  | .bge sa sb d => encB 0x44 sa sb d
  | .bltu sa sb d => encB 0x45 sa sb d
  | .bgeu sa sb d => encB 0x46 sa sb d
  | .bz sa d => encB 0x47 sa 0 d
  | .bnz sa d => encB 0x48 sa 0 d
  | .loop sa d => encB 0x4C sa 0 d
  | .attach sa d => encB 0x73 sa 0 d
  | .call d => encJ 0x49 d
  | .callr sa => encR 0x4A false 0 sa 0 0 0
  | .jr sa => encR 0x4B false 0 sa 0 0 0
  | .nap sa => encR 0x76 false 0 sa 0 0 0
  | .rrdrop sa => encR 0x84 false 0 sa 0 0 0
  | .tlbiPage sa => encR 0x99 false 0 sa 0 0 0
  | .ld sz sx k sd sa sb => encR 0x60 false sd sa sb 0 ((0 : BitVec 23) ++ k ++ BitVec.ofBool sx ++ sz.code)
  | .ldImm sz sx sd sa imm => encI32 0x60 sd sa ((0 : BitVec 5) ++ BitVec.ofBool sx ++ sz.code) imm
  | .st sz k sd sa sb => encR 0x61 false sd sa sb 0 ((0 : BitVec 23) ++ k ++ (0 : BitVec 1) ++ sz.code)
  | .stImm sz sd sa imm => encI32 0x61 sd sa ((0 : BitVec 6) ++ sz.code) imm
  | .ldo sz sx scope sd sa imm => encI32 0x62 sd sa (scope ++ BitVec.ofBool sx ++ sz.code) imm
  | .sto sz scope sd sa imm => encI32 0x63 sd sa (scope ++ (0 : BitVec 1) ++ sz.code) imm
  | .atom sz op ord scope sd sa sb => encR 0x64 false sd sa sb 0 ((0 : BitVec 15) ++ scope ++ ord.code ++ op.code ++ sz.code)
  | .cas sz ord scope sd sa sb sc => encR 0x65 false sd sa sb sc ((0 : BitVec 15) ++ scope ++ ord.code ++ (0 : BitVec 4) ++ sz.code)
  | .pref lvl wr sa imm => encI32 0x66 0 sa ((0 : BitVec 5) ++ BitVec.ofBool wr ++ lvl.code) imm
  | .fence kind scope => encI32 0x67 0 0 ((0 : BitVec 6) ++ kind.code) ((0 : BitVec 27) ++ scope)
  | .reds sz sa sb => encR 0x68 false 0 sa sb 0 ((0 : BitVec 26) ++ sz.code)
  | .bar b => encI40 0x70 false 0 0 ((0 : BitVec 36) ++ b)
  | .bararr b => encI40 0x71 false 0 0 ((0 : BitVec 36) ++ b)
  | .barwt b => encI40 0x72 false 0 0 ((0 : BitVec 36) ++ b)
  | .detach => encR 0x74 false 0 0 0 0 0
  | .cohbar => encR 0x75 false 0 0 0 0 0
  | .yield => encR 0x77 false 0 0 0 0 0
  | .eret => encR 0x93 false 0 0 0 0 0
  | .wfe => encR 0x94 false 0 0 0 0 0
  | .sev => encR 0x95 false 0 0 0 0 0
  | .halt => encR 0x96 false 0 0 0 0 0
  | .lwait => encR 0x9A false 0 0 0 0 0
  | .napImm n => encI40 0x76 false 0 0 ((0 : BitVec 24) ++ n)
  | .tbinit sa sb => encR 0x78 false 0 sa sb 0 0
  | .tbarr sa sb => encR 0x79 false 0 sa sb 0 0
  | .cwb sa sb => encR 0x80 false 0 sa sb 0 0
  | .cinv sa sb => encR 0x81 false 0 sa sb 0 0
  | .cwbi sa sb => encR 0x82 false 0 sa sb 0 0
  | .launch sa sb => encR 0x9C false 0 sa sb 0 0
  | .tbwait sd sa sb => encR 0x7A false sd sa sb 0 0
  | .rrdef fmt op sa sb => encR 0x83 false 0 sa sb 0 ((0 : BitVec 22) ++ op.code ++ (0 : BitVec 1) ++ fmt.code)
  | .dset sa sb sc => encR 0x85 false 0 sa sb sc 0
  | .dget sd sa => encR 0x86 false sd sa 0 0 0
  | .movc sd n => encI40 0x90 false sd 0 ((0 : BitVec 30) ++ n)
  | .mtc n sa => encI40 0x91 false 0 sa ((0 : BitVec 30) ++ n)
  | .trap n => encI40 0x92 false 0 0 ((0 : BitVec 24) ++ n)
  | .time sd => encR 0x97 false sd 0 0 0 0
  | .ppoint k => encI40 0x98 false 0 0 ((0 : BitVec 24) ++ k)
  | .tlbiCtx => encR 0x99 false 0 0 0 0 1
  | .tlbiAll => encR 0x99 false 0 0 0 0 2
  | .acwait t => encI40 0x9B false 0 0 ((0 : BitVec 37) ++ t)
  | _ => []

/-- The word of an L-class instruction (R48); none for the other classes. -/
def encodeL : Instr → List Word
  | .iadd t s sm vd va vb => encL 0x00 vd va vb 0 sm t.code 0 ((0 : BitVec 3) ++ BitVec.ofBool s)
  | .iaddImm t s sm vd va imm => encLI 0x00 vd va imm sm t.code 0 ((0 : BitVec 3) ++ BitVec.ofBool s)
  | .isub t s sm vd va vb => encL 0x01 vd va vb 0 sm t.code 0 ((0 : BitVec 3) ++ BitVec.ofBool s)
  | .isubImm t s sm vd va imm => encLI 0x01 vd va imm sm t.code 0 ((0 : BitVec 3) ++ BitVec.ofBool s)
  | .imul t sm vd va vb => encL 0x02 vd va vb 0 sm t.code 0 0
  | .imulImm t sm vd va imm => encLI 0x02 vd va imm sm t.code 0 0
  | .imulh t sm vd va vb => encL 0x03 vd va vb 0 sm t.code 0 0
  | .imulhImm t sm vd va imm => encLI 0x03 vd va imm sm t.code 0 0
  | .iand t sm vd va vb => encL 0x05 vd va vb 0 sm t.code 0 0
  | .iandImm t sm vd va imm => encLI 0x05 vd va imm sm t.code 0 0
  | .ior t sm vd va vb => encL 0x06 vd va vb 0 sm t.code 0 0
  | .iorImm t sm vd va imm => encLI 0x06 vd va imm sm t.code 0 0
  | .ixor t sm vd va vb => encL 0x07 vd va vb 0 sm t.code 0 0
  | .ixorImm t sm vd va imm => encLI 0x07 vd va imm sm t.code 0 0
  | .imin t sm vd va vb => encL 0x0B vd va vb 0 sm t.code 0 0
  | .iminImm t sm vd va imm => encLI 0x0B vd va imm sm t.code 0 0
  | .imax t sm vd va vb => encL 0x0C vd va vb 0 sm t.code 0 0
  | .imaxImm t sm vd va imm => encLI 0x0C vd va imm sm t.code 0 0
  | .idiv t sm vd va vb => encL 0x13 vd va vb 0 sm t.code 0 0
  | .idivImm t sm vd va imm => encLI 0x13 vd va imm sm t.code 0 0
  | .ldsh t sm vd va vb => encL 0x52 vd va vb 0 sm t.code 0 0
  | .ldshImm t sm vd va imm => encLI 0x52 vd va imm sm t.code 0 0
  | .stsh t sm vd va vb => encL 0x53 vd va vb 0 sm t.code 0 0
  | .stshImm t sm vd va imm => encLI 0x53 vd va imm sm t.code 0 0
  | .redst t sm vd va vb => encL 0x57 vd va vb 0 sm t.code 0 0
  | .redstImm t sm vd va imm => encLI 0x57 vd va imm sm t.code 0 0
  | .ishl t sm vd va vb => encL 0x08 vd va vb 0 sm t.code 0 0
  | .ishlImm t sm vd va a => encLI 0x08 vd va (k18 a) sm t.code 0 0
  | .ishr t sm vd va vb => encL 0x09 vd va vb 0 sm t.code 0 0
  | .ishrImm t sm vd va a => encLI 0x09 vd va (k18 a) sm t.code 0 0
  | .isar t sm vd va vb => encL 0x0A vd va vb 0 sm t.code 0 0
  | .isarImm t sm vd va a => encLI 0x0A vd va (k18 a) sm t.code 0 0
  | .imad t sm vd va vb vc => encL 0x04 vd va vb vc sm t.code 0 0
  | .isel t sm vd va vb vc => encL 0x11 vd va vb vc sm t.code 0 0
  | .pmma t sm vd va vb vc => encL 0x48 vd va vb vc sm t.code 0 0
  | .iabs t sm vd va => encL 0x0D vd va 0 0 sm t.code 0 0
  | .ipopc t sm vd va => encL 0x0E vd va 0 0 sm t.code 0 0
  | .iclz t sm vd va => encL 0x0F vd va 0 0 sm t.code 0 0
  | .frcp t sm vd va => encL 0x28 vd va 0 0 sm t.code 0 0
  | .frsq t sm vd va => encL 0x29 vd va 0 0 sm t.code 0 0
  | .fex2 t sm vd va => encL 0x2A vd va 0 0 sm t.code 0 0
  | .flg2 t sm vd va => encL 0x2B vd va 0 0 sm t.code 0 0
  | .fsin t sm vd va => encL 0x2C vd va 0 0 sm t.code 0 0
  | .fcos t sm vd va => encL 0x2D vd va 0 0 sm t.code 0 0
  | .fclass t sm vd va => encL 0x2F vd va 0 0 sm t.code 0 0
  | .movl t sm vd va => encL 0x40 vd va 0 0 sm t.code 0 0
  | .ibfx t sm vd va vb vc => encL 0x10 vd va vb vc sm t.code 0 0
  | .ibfxImm t sm vd va lo wd => encLI 0x10 vd va ((0 : BitVec 5) ++ wd ++ lo) sm t.code 0 0
  | .icmp t c sm sd va vb => encL 0x12 (sIn9 sd) va vb 0 sm t.code 0 ((0 : BitVec 1) ++ c.code)
  | .icmpImm t c sm sd va imm => encLI 0x12 (sIn9 sd) va imm sm t.code 0 ((0 : BitVec 1) ++ c.code)
  | .fadd t r sm vd va vb => encL 0x20 vd va vb 0 sm t.code r.code 0
  | .fsub t r sm vd va vb => encL 0x21 vd va vb 0 sm t.code r.code 0
  | .fmul t r sm vd va vb => encL 0x22 vd va vb 0 sm t.code r.code 0
  | .fdiv t r sm vd va vb => encL 0x26 vd va vb 0 sm t.code r.code 0
  | .ffma t r sm vd va vb vc => encL 0x23 vd va vb vc sm t.code r.code 0
  | .fmin t sm vd va vb => encL 0x24 vd va vb 0 sm t.code 0 0
  | .fmax t sm vd va vb => encL 0x25 vd va vb 0 sm t.code 0 0
  | .shfl t sm vd va vb => encL 0x38 vd va vb 0 sm t.code 0 0
  | .fsqrt t r sm vd va => encL 0x27 vd va 0 0 sm t.code r.code 0
  | .fcmp t c sm sd va vb => encL 0x2E (sIn9 sd) va vb 0 sm t.code 0 ((0 : BitVec 1) ++ c.code)
  | .cvt d src r f sm vd va => encL 0x30 vd va 0 f.toField sm d.code r.code src.code
  | .packb src r f sm vd va vb => encL 0x31 vd va vb f.toField sm src.code r.code 0
  | .unpkb d k f sm vd va => encL 0x32 vd va 0 f.toField sm d.code 0 ((0 : BitVec 2) ++ k)
  | .shflImm t sm vd va k => encLI 0x38 vd va (k18 k) sm t.code 0 0
  | .shflup t sm vd va k => encLI 0x39 vd va (k18 k) sm t.code 0 0
  | .shfldn t sm vd va k => encLI 0x3A vd va (k18 k) sm t.code 0 0
  | .shflx t sm vd va k => encLI 0x3B vd va (k18 k) sm t.code 0 0
  | .ballot t sm sd va => encL 0x3C (sIn9 sd) va 0 0 sm t.code 0 0
  | .redl op t r sm vd va => encL 0x3D vd va 0 0 sm t.code r.code ((0 : BitVec 2) ++ op.code)
  | .scanl op x t r sm vd va => encL 0x3E vd va 0 0 sm t.code r.code ((0 : BitVec 1) ++ BitVec.ofBool x ++ op.code)
  | .laneid sm vd => encL 0x3F vd 0 0 0 sm ETy.n32.code 0 0
  | .movsl t sm vd sa => encL 0x41 vd (sIn9 sa) 0 0 sm t.code 0 0
  | .movls t sm sd va k => encLI 0x42 (sIn9 sd) va (k18 k) sm t.code 0 0
  | .ldl t ord sc sm vd va vb => encL 0x50 vd va vb 0 sm t.code ((0 : BitVec 1) ++ ord.code) sc
  | .ldlImm t ord sc sm vd va imm => encLI 0x50 vd va imm sm t.code ((0 : BitVec 1) ++ ord.code) sc
  | .stl t ord sc sm vd va vb => encL 0x51 vd va vb 0 sm t.code ((0 : BitVec 1) ++ ord.code) sc
  | .stlImm t ord sc sm vd va imm => encLI 0x51 vd va imm sm t.code ((0 : BitVec 1) ++ ord.code) sc
  | .atoml op t ord sc sm vd va vb => encL 0x54 vd va vb ((0 : BitVec 5) ++ op.code) sm t.code ((0 : BitVec 1) ++ ord.code) sc
  | .atomsh op t ord sc sm vd va vb => encL 0x55 vd va vb ((0 : BitVec 5) ++ op.code) sm t.code ((0 : BitVec 1) ++ ord.code) sc
  | .casl t ord sc sm vd va vb vc => encL 0x56 vd va vb vc sm t.code ((0 : BitVec 1) ++ ord.code) sc
  | .acpy sz tag sm vd va vb => encL 0x58 vd va vb 0 sm ((0 : BitVec 2) ++ sz) tag 0
  | _ => []

/-- The word of an E-class instruction (R51); none for the other classes. -/
def encodeE : Instr → List Word
  | .pushr q scope sa => encE 0x00 q.code sa 0 ((0 : BitVec 33) ++ scope)
  | .pushm q scope sd => encE 0x01 q.code 0 sd ((0 : BitVec 33) ++ scope)
  | .popq scope sa => encE 0x02 4 sa 0 ((0 : BitVec 33) ++ scope)
  | .qwait q v => encE 0x03 q.code 0 0 (xImm v)
  | .qwaitReg q s => encE 0x03 q.code 0 0 (xReg s)
  | .qstat sd q => encE 0x04 q.code 0 sd 0
  | .qmark => encE 0x05 0 0 0 0
  | .leash n => encE 0x06 0 0 0 (xImm n)
  | .leashReg s => encE 0x06 0 0 0 (xReg s)
  | .unleash => encE 0x07 0 0 0 0
  | .aownr sd k => encE 0x08 0 0 sd ((0 : BitVec 27) ++ k)
  | .aownrReg sd s => encE 0x08 0 0 sd (xReg s)
  | .asave sd k => encE 0x09 0 0 sd ((0 : BitVec 27) ++ k)
  | .asaveReg sd s => encE 0x09 0 0 sd (xReg s)
  | .arest sd k => encE 0x0A 0 0 sd ((0 : BitVec 27) ++ k)
  | .arestReg sd s => encE 0x0A 0 0 sd (xReg s)
  | _ => []

/-- The 512 bits of an engine record (R52); none for the other operations. -/
def encodeRec : Instr → Option Rec512
  | .cpld r => some (r.bits 0x10)
  | .cpst r => some (r.bits 0x11)
  | .cpcc r => some (r.bits 0x12)
  | .cprd r => some (r.bits 0x13)
  | .cpfill r => some (r.bits 0x14)
  | .mma r => some (r.bits 0x20)
  | .mmas r => some (r.bits 0x21)
  | .mzero r => some (r.bits 0x22)
  | .mldc r => some (r.bits 0x23)
  | .mret r => some (r.bits 0x24)
  | .vadd r => some (r.bits 0x40)
  | .vsub r => some (r.bits 0x41)
  | .vmul r => some (r.bits 0x42)
  | .vfma r => some (r.bits 0x43)
  | .vmax r => some (r.bits 0x44)
  | .vmin r => some (r.bits 0x45)
  | .vexp r => some (r.bits 0x46)
  | .vrcp r => some (r.bits 0x47)
  | .vrsq r => some (r.bits 0x48)
  | .vcvt r => some (r.bits 0x49)
  | .vred r => some (r.bits 0x4A)
  | .vscale r => some (r.bits 0x4B)
  | .vcmp r => some (r.bits 0x4C)
  | .vsel r => some (r.bits 0x4D)
  | _ => none

/-- The words of an instruction in memory order: one or two WIS-6 words, or the eight words of an engine record. Packets, ring
commands and events have no words of their own. -/
def encode (i : Instr) : List Word :=
  encodeS i ++ encodeL i ++ encodeE i ++ (match encodeRec i with
    | some r => recWords r
    | none => [])

end Sys2Proof
end

