-- ==== Sys2Proof/Machine/Num.lean ====
section
/-! DEFINITION. Numbers: the float formats and the binary8 family (R119 to R129), exact values, one rounding, and the arithmetic the
lanes, the engines and the reductions share (R141, R160, R224, R265 to R268). -/

namespace Sys2Proof.Machine

/-- An element value: NaN, an infinity, or (-1)^neg × m × 2^e exactly. -/
inductive Val where
  | nan
  | inf (neg : Bool)
  | fin (neg : Bool) (m : Nat) (e : Int)
  deriving DecidableEq, Repr

/-- A float format by its code layout: below the sign, a code counts the magnitudes upwards from zero. -/
structure Fmt where
  width : Nat
  p : Nat
  qmin : Int
  maxCode : Nat
  infCode : Option Nat
  nanCode : Nat
  signed : Bool
  ieee : Bool
  deriving DecidableEq, Repr

/-- R120: an IEEE layout with `eb` exponent bits and `tb` trailing bits. -/
def ieeeFmt (eb tb : Nat) : Fmt :=
  { width := 1 + eb + tb, p := tb + 1, qmin := 2 - (2 ^ (eb - 1) : Nat) - (tb : Int),
    maxCode := (2 ^ eb - 1) * 2 ^ tb - 1, infCode := some ((2 ^ eb - 1) * 2 ^ tb),
    nanCode := (2 ^ eb - 1) * 2 ^ tb + 2 ^ (tb - 1), signed := true, ieee := true }

/-- R120. -/
def f64Fmt : Fmt := ieeeFmt 11 52
/-- R120. -/
def f32Fmt : Fmt := ieeeFmt 8 23
/-- R120. -/
def f16Fmt : Fmt := ieeeFmt 5 10
/-- R120. -/
def bf16Fmt : Fmt := ieeeFmt 8 7

/-- R122, R123: a binary8 format. -/
def b8FmtOf (p : Nat) (signed inf : Bool) : Fmt :=
  let w := if signed then 8 - p else 9 - p
  let top := if signed then 0x7F else 0xFE
  { width := 8, p := p, qmin := 2 - (p : Int) - (2 ^ (w - 1) : Nat), maxCode := if inf then top - 1 else top,
    infCode := if inf then some top else none, nanCode := if signed then 0x80 else 0xFF, signed := signed, ieee := false }

/-- The value of a code (R120, R122). -/
def decodeFmt (f : Fmt) (code : Nat) : Val :=
  let sb := f.width - 1
  let x := code % 2 ^ f.width
  let neg := f.signed && x.testBit sb
  let mag := if f.signed then x % 2 ^ sb else x
  if !f.ieee && x == f.nanCode then .nan
  else if f.infCode == some mag then .inf neg
  else if mag > f.maxCode then .nan
  else
    let e := mag / 2 ^ (f.p - 1)
    let t := mag % 2 ^ (f.p - 1)
    if e = 0 then .fin neg t f.qmin else .fin neg (2 ^ (f.p - 1) + t) (f.qmin + (e : Int) - 1)

/-- `m × 2^e` brought to quantum `2^q`: the whole units and what is left (0 exact, 1 below a half, 2 a half, 3 above). -/
def toQuantum (m : Nat) (e q : Int) : Nat × Nat :=
  if q ≤ e then (m * 2 ^ (e - q).toNat, 0)
  else
    let sh := (q - e).toNat
    let hi := m >>> sh
    let r := m - hi * 2 ^ sh
    let half := 2 ^ (sh - 1)
    (hi, if r = 0 then 0 else if r < half then 1 else if r = half then 2 else 3)

/-- R125: does the magnitude round up? -/
def roundsUp (mode : Rnd) (neg : Bool) (hi rest : Nat) : Bool :=
  match mode with
  | .rne => rest == 3 || (rest == 2 && hi % 2 == 1)
  | .rna => decide (2 ≤ rest)
  | .rtz => false
  | .rup => rest != 0 && !neg
  | .rdn => rest != 0 && neg

/-- The units of `m × 2^e` rounded at quantum `2^q`. -/
def roundUnits (mode : Rnd) (neg : Bool) (m : Nat) (e q : Int) : Nat :=
  let x := toQuantum m e q
  if roundsUp mode neg x.1 x.2 then x.1 + 1 else x.1

/-- The sign applied to a magnitude code (R123: binary8 has no negative zero). -/
def withSign (f : Fmt) (neg : Bool) (mag : Nat) : Nat :=
  if neg && f.signed && (f.ieee || mag != 0) then mag + 2 ^ (f.width - 1) else mag

/-- R127: the result of an overflow. -/
def overflowCode (f : Fmt) (mode : Rnd) (sat neg : Bool) : Nat :=
  let maxv := withSign f neg f.maxCode
  let away := match f.infCode with
    | some c => withSign f neg c
    | none => f.nanCode
  if sat then maxv
  else match mode with
    | .rne | .rna => away
    | .rtz => maxv
    | .rup => if neg then maxv else away
    | .rdn => if neg then away else maxv

/-- R126 to R128: the code of a value in a format. -/
def encodeFmt (f : Fmt) (mode : Rnd) (sat : Bool) : Val → Nat
  | .nan => f.nanCode
  | .inf neg =>
    if neg && !f.signed then (if sat then 0 else f.nanCode)
    else if sat then withSign f neg f.maxCode
    else match f.infCode with
      | some c => withSign f neg c
      | none => f.nanCode
  | .fin neg m e =>
    if m = 0 then withSign f neg 0
    else if neg && !f.signed then (if sat then 0 else f.nanCode)
    else
      let q := max (e + (m.log2 : Int) + 1 - f.p) f.qmin
      let u := roundUnits mode neg m e q
      let code := if u = 0 then 0 else (q - f.qmin).toNat * 2 ^ (f.p - 1) + u
      if code > f.maxCode then overflowCode f mode sat neg else withSign f neg code

/-! ### Exact arithmetic -/

/-- The value of an integer. -/
def ofInt (i : Int) : Val := .fin (decide (i < 0)) i.natAbs 0

/-- The signed units of a finite value at an exponent `q` no larger than its own. -/
def unitsAt (neg : Bool) (m : Nat) (e q : Int) : Int :=
  let u : Int := (m * 2 ^ (e - q).toNat : Nat)
  if neg then -u else u

/-- The exact sum; the sign of an exact zero follows R266. -/
def addVal (mode : Rnd) : Val → Val → Val
  | .nan, _ => .nan
  | _, .nan => .nan
  | .inf a, .inf b => if a = b then .inf a else .nan
  | .inf a, .fin .. => .inf a
  | .fin .., .inf b => .inf b
  | .fin s1 m1 e1, .fin s2 m2 e2 =>
    let q := min e1 e2
    let t := unitsAt s1 m1 e1 q + unitsAt s2 m2 e2 q
    if t = 0 then
      (if m1 = 0 && m2 = 0 && s1 == s2 then .fin s1 0 q else .fin (mode == .rdn) 0 q)
    else .fin (decide (t < 0)) t.natAbs q

/-- The value with its sign changed; NaN stays NaN. -/
def negVal : Val → Val
  | .nan => .nan
  | .inf s => .inf (!s)
  | .fin s m e => .fin (!s) m e

/-- The exact product (R266). -/
def mulVal : Val → Val → Val
  | .nan, _ => .nan
  | _, .nan => .nan
  | .inf a, .inf b => .inf (a != b)
  | .inf a, .fin s m _ => if m = 0 then .nan else .inf (a != s)
  | .fin s m _, .inf b => if m = 0 then .nan else .inf (s != b)
  | .fin s1 m1 e1, .fin s2 m2 e2 => .fin (s1 != s2) (m1 * m2) (e1 + e2)

/-- A quotient good for one rounding to `p` bits: truncated with a sticky bit below (R266). -/
def divVal (p : Nat) : Val → Val → Val
  | .nan, _ => .nan
  | _, .nan => .nan
  | .inf _, .inf _ => .nan
  | .inf a, .fin s _ _ => .inf (a != s)
  | .fin s _ _, .inf b => .fin (s != b) 0 0
  | .fin s1 m1 e1, .fin s2 m2 e2 =>
    if m2 = 0 then (if m1 = 0 then .nan else .inf (s1 != s2))
    else if m1 = 0 then .fin (s1 != s2) 0 0
    else
      let k := p + 3 + m2.log2
      let n := m1 * 2 ^ k
      .fin (s1 != s2) (2 * (n / m2) + (if n % m2 = 0 then 0 else 1)) (e1 - e2 - k - 1)

/-- The bits of an integer square root from bit `i` down. -/
def isqrtFrom (n : Nat) : Nat → Nat → Nat
  | 0, r => if (r + 1) * (r + 1) ≤ n then r + 1 else r
  | i + 1, r =>
    let r' := r + 2 ^ (i + 1)
    isqrtFrom n i (if r' * r' ≤ n then r' else r)

/-- ⌊√n⌋. -/
def isqrt (n : Nat) : Nat := isqrtFrom n (n.log2 / 2 + 1) 0

/-- A square root good for one rounding to `p` bits (R266). -/
def sqrtVal (p : Nat) : Val → Val
  | .nan => .nan
  | .inf s => if s then .nan else .inf false
  | .fin s m e =>
    if m = 0 then .fin s 0 0
    else if s then .nan
    else
      let k := 2 * (p + 3) + (if e % 2 = 0 then 0 else 1)
      let n := m * 2 ^ k
      let r := isqrt n
      .fin false (2 * r + (if r * r = n then 0 else 1)) ((e - k) / 2 - 1)

/-- Value times a power of two. -/
def scaleVal : Val → Int → Val
  | .fin s m e, k => .fin s m (e + k)
  | v, _ => v

/-- The order of two values, −0 and +0 equal; none when either is NaN (R269). -/
def cmpVal : Val → Val → Option Ordering
  | .nan, _ => none
  | _, .nan => none
  | .inf a, .inf b => some (if a = b then .eq else if a then .lt else .gt)
  | .inf a, .fin .. => some (if a then .lt else .gt)
  | .fin .., .inf b => some (if b then .gt else .lt)
  | .fin s1 m1 e1, .fin s2 m2 e2 =>
    let q := min e1 e2
    let a := unitsAt s1 m1 e1 q
    let b := unitsAt s2 m2 e2 q
    some (if a < b then .lt else if a = b then .eq else .gt)

/-- Does `x` stand before `y` for min and max, with −0 below +0 (R160, R266)? -/
def beforeVal (x y : Val) : Bool :=
  match cmpVal x y with
  | some .lt => true
  | some .eq => (match x, y with
    | .fin s 0 _, .fin t 0 _ => s && !t
    | _, _ => false)
  | _ => false

/-- The smaller operand; a NaN yields the other (R160, R266). -/
def minVal (x y : Val) : Val :=
  match x, y with
  | .nan, v => v
  | v, .nan => v
  | a, b => if beforeVal b a then b else a

/-- The larger operand; a NaN yields the other (R160, R266). -/
def maxVal (x y : Val) : Val :=
  match x, y with
  | .nan, v => v
  | v, .nan => v
  | a, b => if beforeVal a b then b else a

/-- A finite value rounded to an integer (R128). -/
def roundInt (mode : Rnd) (neg : Bool) (m : Nat) (e : Int) : Int :=
  let u : Int := roundUnits mode neg m e 0
  if neg then -u else u

/-- Clamping (R16). -/
def clampInt (lo hi i : Int) : Int := if i < lo then lo else if hi < i then hi else i

/-- The least value of a `w`-bit integer type. -/
def intLo (signed : Bool) (w : Nat) : Int := if signed then -(2 ^ (w - 1) : Nat) else 0
/-- The largest value of a `w`-bit integer type. -/
def intHi (signed : Bool) (w : Nat) : Int := if signed then (2 ^ (w - 1) : Nat) - 1 else (2 ^ w : Nat) - 1

/-- R128: a value converted to an integer type. -/
def valToInt (mode : Rnd) (signed : Bool) (w : Nat) : Val → Int
  | .nan => 0
  | .inf neg => if neg then intLo signed w else intHi signed w
  | .fin neg m e => clampInt (intLo signed w) (intHi signed w) (roundInt mode neg m e)

/-- The integer a `w`-bit code stands for. -/
def intOf (signed : Bool) (w code : Nat) : Int :=
  let x := code % 2 ^ w
  if signed && x.testBit (w - 1) then (x : Int) - (2 ^ w : Nat) else x

/-- The `w`-bit code congruent to an integer (R16, wrap). -/
def wrapInt (w : Nat) (i : Int) : Nat := (i % (2 ^ w : Nat)).toNat

/-! ### Approximations (R267, R268) -/

/-- The operations of R267. -/
inductive ApproxOp where
  | rcp | rsq | ex2 | lg2 | sin | cos
  deriving DecidableEq, Repr

/-- An enclosure: the exact value lies in (-1)^neg × [m, m + err] × 2^e. -/
structure Encl where
  neg : Bool
  m : Nat
  err : Nat
  e : Int
  deriving DecidableEq, Repr

/-- ⌊ln 2 × 2^200⌋. -/
def ln2Fix : Nat := 0xb17217f7d1cf79abc9e3b39803f2f6af40f343267298b62d8a
/-- ⌊π × 2^300⌋. -/
def piFix : Nat := 0x3243f6a8885a308d313198a2e03707344a4093822299f31d0082efa98ec4e6c89452821e638d

/-- Σ t^k / k! from term `k` on, `n` terms, in units of 2^-200. -/
def expSeries (t : Nat) : Nat → Nat → Nat → Nat
  | 0, _, _ => 0
  | n + 1, k, term => term + expSeries t n (k + 1) (term * t / 2 ^ 200 / k)

/-- Σ z^(2k+1) / (2k+1), `n` terms, in units of 2^-200, from z^(2k+1). -/
def atanhSeries (z2 : Nat) : Nat → Nat → Nat → Nat
  | 0, _, _ => 0
  | n + 1, k, zp => zp / (2 * k + 1) + atanhSeries z2 n (k + 1) (zp * z2 / 2 ^ 200)

/-- The series of sine (`k` = 1) and cosine (`k` = 0), in units of 2^-200: the sum of its positive and of its negative terms. -/
def trigSeries (t2 : Nat) : Nat → Nat → Nat → Bool → Nat × Nat
  | 0, _, _, _ => (0, 0)
  | n + 1, k, term, odd =>
    let r := trigSeries t2 n (k + 2) (term * t2 / 2 ^ 200 / ((k + 1) * (k + 2))) (!odd)
    if odd then (r.1, r.2 + term) else (r.1 + term, r.2)

/-- `m × 2^e` in units of 2^-n, truncated. -/
def fixOf (m : Nat) (e : Int) (n : Nat) : Nat := (toQuantum m e (-(n : Int))).1

/-- 2^x of a finite value of magnitude below 2^20. -/
def ex2Encl (neg : Bool) (m : Nat) (e : Int) : Encl :=
  let u : Int := fixOf m e 200
  let x : Int := if neg then -u else u
  let n := x / (2 ^ 200 : Nat)
  let f := (x % (2 ^ 200 : Nat)).toNat
  let t := f * ln2Fix / 2 ^ 200
  { neg := false, m := expSeries t 60 1 (2 ^ 200) - 2 ^ 12, err := 2 ^ 13, e := n - 200 }

/-- log₂ of a positive finite value. -/
def lg2Encl (m : Nat) (e : Int) : Encl :=
  let l := m.log2
  let y := fixOf m (-(l : Int)) 200
  let z := (y - 2 ^ 200) * 2 ^ 200 / (y + 2 ^ 200)
  let ln := 2 * atanhSeries (z * z / 2 ^ 200) 70 0 z
  let v : Int := (e + l) * (2 ^ 200 : Nat) + (ln * 2 ^ 200 / ln2Fix : Nat)
  if v < 0 then { neg := true, m := v.natAbs - 2 ^ 13, err := 2 ^ 14, e := -200 }
  else { neg := false, m := v.toNat - 2 ^ 12, err := 2 ^ 13, e := -200 }

/-- sin or cos of a finite value of magnitude at most 2^40. -/
def trigEncl (isCos neg : Bool) (m : Nat) (e : Int) : Encl :=
  let a := fixOf m e 299
  let half := piFix / 4
  let q := a / half
  let t := (a - q * half) / 2 ^ 99
  let quad := (q + (if isCos then 1 else 0)) % 4
  let t2 := t * t / 2 ^ 200
  let r := if quad % 2 == 1 then trigSeries t2 34 0 (2 ^ 200) false else trigSeries t2 34 1 t false
  { neg := decide (2 ≤ quad) != (neg && !isCos), m := r.1 - r.2 - 2 ^ 13, err := 2 ^ 14, e := -200 }

/-- 1/x. -/
def rcpEncl (neg : Bool) (m : Nat) (e : Int) : Encl :=
  let k := 140 + m.log2
  { neg := neg, m := 2 ^ k / m, err := 1, e := -e - k }

/-- 1/√x. -/
def rsqEncl (m : Nat) (e : Int) : Encl :=
  let k := 2 * (140 + m.log2) + (if e % 2 = 0 then 0 else 1)
  { neg := false, m := isqrt (2 ^ k / m), err := 2, e := (-e - k) / 2 }

/-- The exponent of the ulp of a format at `m × 2^e` (R267). -/
def ulpExp (f : Fmt) (m : Nat) (e : Int) : Int := max (e + (m.log2 : Int) + 1 - f.p) f.qmin

/-- Is a candidate within `k` × 2^b of every value of the enclosure? -/
def within (c : Val) (x : Encl) (k : Nat) (b : Int) : Bool :=
  match c with
  | .fin s m e =>
    let q := min (min e x.e) b
    let cu := unitsAt s m e q
    let lo := unitsAt x.neg x.m x.e q
    let hi := unitsAt x.neg (x.m + x.err) x.e q
    let d : Int := (k * 2 ^ (b - q).toNat : Nat)
    decide (cu - lo ≤ d) && decide (lo - cu ≤ d) && decide (cu - hi ≤ d) && decide (hi - cu ≤ d)
  | _ => false

/-- Is the magnitude of a finite value at most 1? -/
def magOk : Val → Bool
  | .fin _ m e => cmpVal (.fin false m e) (ofInt 1) != some .gt
  | _ => false

/-- What is returned for an enclosed exact result: what the implementation offers where it is a value of the format within
`k` × 2^b (and, for sine and cosine, of magnitude at most 1), and the value towards zero otherwise (log 10). -/
def settle (f : Fmt) (unitMax : Bool) (cand : Nat) (x : Encl) (k : Nat) (b : Int) : Nat :=
  let c := decodeFmt f cand
  if cmpVal (.fin false x.m x.e) (addVal .rne (decodeFmt f f.maxCode) (.fin false k b)) == some .gt then
    encodeFmt f .rne false (.inf x.neg)
  else if (!unitMax || magOk c) && within c x k b then cand % 2 ^ f.width
  else encodeFmt f .rtz false (.fin x.neg (x.m + x.err / 2) x.e)

/-- R267: ulps allowed to FEX2 and FLG2. -/
def ulps2 (f : Fmt) : Nat := if 24 ≤ f.p then 2 else 1
/-- R267: the absolute bound of FLG2 near 1. -/
def lg2Abs (f : Fmt) : Int := if f.p = 53 then -50 else if f.p = 24 then -22 else if f.p = 11 then -10 else -7
/-- R267: the absolute bound of FSIN and FCOS. -/
def trigAbs (f : Fmt) : Int := if f.p = 53 then -52 else if f.p = 24 then -22 else if f.p = 11 then -10 else -7

/-- The code 1 of a format. -/
def oneCode (f : Fmt) : Nat := encodeFmt f .rne false (ofInt 1)

/-- R267: sine and cosine beyond the range of the bound: any value in [-1, 1]. -/
def trigFar (f : Fmt) (cand : Nat) : Nat := if magOk (decodeFmt f cand) then cand % 2 ^ f.width else oneCode f

/-- R267: the largest magnitude for which the bound of FSIN and FCOS holds. -/
def trigNear (f : Fmt) (m : Nat) (e : Int) : Bool :=
  cmpVal (.fin false m e) (.fin false 1 (if f.p = 53 then 40 else 20)) != some .gt

/-- 1/a (R267, R268): exact for a power of two whose reciprocal the format represents. -/
def rcpCode (f : Fmt) (cand : Nat) (s : Bool) (m : Nat) (e : Int) : Nat :=
  let r : Val := .fin s 1 (-e - (m.log2 : Int))
  if m = 0 then encodeFmt f .rne false (.inf s)
  else if m = 2 ^ m.log2 && cmpVal (decodeFmt f (encodeFmt f .rne false r)) r == some .eq then encodeFmt f .rne false r
  else settle f false cand (rcpEncl s m e) 1 (ulpExp f (rcpEncl s m e).m (rcpEncl s m e).e)

/-- 1/√a (R267, R268). -/
def rsqCode (f : Fmt) (cand : Nat) (s : Bool) (m : Nat) (e : Int) : Nat :=
  if m = 0 then encodeFmt f .rne false (.inf s)
  else if s then f.nanCode
  else settle f false cand (rsqEncl m e) 1 (ulpExp f (rsqEncl m e).m (rsqEncl m e).e)

/-- R267: a result for a power below every positive value of the format: the offered code where it lies within the bound of it, else +0. -/
def belowCode (f : Fmt) (cand : Nat) : Nat :=
  let neg := 2 ^ (f.width - 1)
  if cand ≤ ulps2 f ∨ (neg ≤ cand ∧ cand < neg + ulps2 f) then cand else 0

/-- 2^a (R267, R268): exact for an integer whose power the format represents. -/
def ex2Code (f : Fmt) (cand : Nat) (s : Bool) (m : Nat) (e : Int) : Nat :=
  if m = 0 then oneCode f
  else if e + (m.log2 : Int) ≥ 20 then (if s then belowCode f cand else encodeFmt f .rne false (.inf false))
  else
    let u := toQuantum m e 0
    let r : Val := .fin false 1 (if s then -(u.1 : Int) else u.1)
    if u.2 = 0 && cmpVal (decodeFmt f (encodeFmt f .rne false r)) r == some .eq then encodeFmt f .rne false r
    else settle f false cand (ex2Encl s m e) (ulps2 f) (ulpExp f (ex2Encl s m e).m (ex2Encl s m e).e)

/-- log₂ a (R267, R268): exact for a power of two. -/
def lg2Code (f : Fmt) (cand : Nat) (s : Bool) (m : Nat) (e : Int) : Nat :=
  if m = 0 then encodeFmt f .rne false (.inf true)
  else if s then f.nanCode
  else if m = 2 ^ m.log2 then encodeFmt f .rne false (ofInt (e + (m.log2 : Int)))
  else if cmpVal (.fin false m e) (.fin false 1 (-1)) != some .lt && cmpVal (.fin false m e) (ofInt 2) != some .gt then
    settle f false cand (lg2Encl m e) 1 (lg2Abs f)
  else settle f false cand (lg2Encl m e) (ulps2 f) (ulpExp f (lg2Encl m e).m (lg2Encl m e).e)

/-- R267, R268: an approximation of one element. -/
def approxCode (op : ApproxOp) (f : Fmt) (code : Nat) : Nat :=
  let opId := match op with
    | .rcp => 0 | .rsq => 1 | .ex2 => 2 | .lg2 => 3 | .sin => 4 | .cos => 5
  let cand := (Config.approx (opId * 64 + f.p) (BitVec.ofNat 64 code)).toNat
  let zero := fun s => encodeFmt f .rne false (.fin s 0 0)
  let infv := encodeFmt f .rne false (.inf false)
  match op, decodeFmt f code with
  | _, .nan => f.nanCode
  | .rcp, .inf s => zero s
  | .rsq, .inf s => if s then f.nanCode else zero false
  | .ex2, .inf s => if s then zero false else infv
  | .lg2, .inf s => if s then f.nanCode else infv
  | .sin, .inf _ => f.nanCode
  | .cos, .inf _ => f.nanCode
  | .rcp, .fin s m e => rcpCode f cand s m e
  | .rsq, .fin s m e => rsqCode f cand s m e
  | .ex2, .fin s m e => ex2Code f cand s m e
  | .lg2, .fin s m e => lg2Code f cand s m e
  | .sin, .fin s m e =>
    if m = 0 then code % 2 ^ f.width
    else if trigNear f m e then settle f true cand (trigEncl false s m e) 1 (trigAbs f)
    else trigFar f cand
  | .cos, .fin s m e =>
    if m = 0 then oneCode f
    else if trigNear f m e then settle f true cand (trigEncl true s m e) 1 (trigAbs f)
    else trigFar f cand

/-! ### Reductions and sums -/

/-- R160: the element width of a range format, in bytes. -/
def rfmtBytes : RFmt → Nat
  | .bf16 => 2
  | .f64 => 8
  | _ => 4

/-- R160: the float format of a range. -/
def rfmtFloat : RFmt → Option Fmt
  | .f32 => some f32Fmt
  | .bf16 => some bf16Fmt
  | .f64 => some f64Fmt
  | _ => none

/-- A float combination (R160, R277): add rounds in `mode`; min and max are exact. -/
def combineFloat (f : Fmt) (op : ROp) (mode : Rnd) (x y : Nat) : Nat :=
  let a := decodeFmt f x
  let b := decodeFmt f y
  match op with
  | .add => encodeFmt f mode false (addVal mode a b)
  | .min => encodeFmt f .rne false (minVal a b)
  | .max => encodeFmt f .rne false (maxVal a b)

/-- R160: combine(x, y). -/
def combineR (fmt : RFmt) (op : ROp) (x y : Nat) : Nat :=
  match rfmtFloat fmt with
  | some f => combineFloat f op .rne x y
  | none =>
    let a := intOf true 32 x
    let b := intOf true 32 y
    match op with
    | .add => if fmt == .i32sat then wrapInt 32 (clampInt (intLo true 32) (intHi true 32) (a + b)) else wrapInt 32 (a + b)
    | .min => wrapInt 32 (min a b)
    | .max => wrapInt 32 (max a b)

/-- R160: the identity of a range's operation, as a code. -/
def identityR (fmt : RFmt) (op : ROp) : Nat :=
  match rfmtFloat fmt with
  | some f =>
    (match op with
      | .add => withSign f true 0
      | .min => encodeFmt f .rne false (.inf false)
      | .max => encodeFmt f .rne false (.inf true))
  | none =>
    (match op with
      | .add => 0
      | .min => 0x7FFFFFFF
      | .max => 0x80000000)

/-- The exact sum of products; NaN and infinite products as R141 gives. -/
def sumVals : List Val → Val
  | [] => .fin false 0 0
  | v :: r => addVal .rne v (sumVals r)

/-- R141: a product in which either factor is zero is an exact zero. -/
def prodVal (a b : Val) : Val :=
  match a, b with
  | .fin _ 0 _, _ => .fin false 0 0
  | _, .fin _ 0 _ => .fin false 0 0
  | x, y => mulVal x y

/-- R127: where saturation is named for overflow alone, an infinity stays one. -/
def encodeOver (f : Fmt) (mode : Rnd) (sat : Bool) : Val → Nat
  | .inf neg => encodeFmt f mode false (.inf neg)
  | v => encodeFmt f mode sat v

/-- R141: accumulation of a chunk sum into an accumulator code of format `f`. -/
def accumulate (f : Fmt) (sat : Bool) (acc : Nat) (s : Val) : Nat :=
  match s with
  | .fin _ 0 _ => acc
  | v =>
    match addVal .rne (decodeFmt f acc) v with
    | .fin _ 0 _ => 0
    | t => encodeOver f .rne sat t

end Sys2Proof.Machine
end

