-- ==== Sys2Proof/Machine/State.lean ====
section
/-! DEFINITION. The state of one package as plain data: units, blocks, cores, dies, memory, the hub and what it keeps, then the
reasons a step can stop. Every field's default is its value at reset; INVENTORY.md names the rule and the log entry of each. -/

namespace Sys2Proof.Machine

/-- Why a step stops. No instruction's meaning raises one: they are raised by `step` for a turn no hardware takes. -/
inductive Fault where
  /-- Raised by `step` when `State.script` gives the turn to a unit that is not running or to an engine queue with no record to
  start. Safe: the hardware takes no such step. -/
  | noSuchTurn
  deriving DecidableEq, Repr

/-- Why an instruction has no meaning here. -/
inductive Refusal where
  /-- Raised by `exec` for an instruction not modelled yet, by its mnemonic. Safe: the run ends. -/
  | notModelled (mnemonic : String)
  deriving DecidableEq, Repr

/-! ### Units -/

/-- Unit number of context `idx` of a core: packs by their core slot 0 to 63, control contexts 0 to 3, the shadow context 4, the
one context of a host core 0. -/
def unitId (core idx : Nat) : Nat := core * 128 + idx

/-- The core of a unit. -/
def coreOf (u : Nat) : Nat := u / 128

/-- The kinds of context that decode words (R247). -/
inductive Kind where
  | host | ctl | shadow | pack
  deriving DecidableEq, Repr

/-- R198: the kind of a unit, from its core. -/
def kindOf (u : Nat) : Kind :=
  if coreOf u < Config.simtBase then .host
  else if coreOf u < Config.sysBase then .pack
  else if u % 128 = 4 then .shadow
  else .ctl

/-- c1 to c5 of one mode (R250). -/
structure ExcRegs where
  epc : Word := 0
  cause : Word := 0
  faddr : Word := 0
  frbase : Word := 0
  fhandler : Word := 0
  deriving DecidableEq, Repr

/-- What a unit waits for at its PC, or after it. A waiting instruction executes again and looks; those of R369's list come first. -/
inductive Wait where
  | none
  | bar (b : Nat)          -- arrived by BAR, waiting (R320)
  | cohbar                 -- arrived by COHBAR, waiting (R320)
  | nap (until_ : Nat)     -- NAP until a hub cycle (R321)
  | lwait (deadline : Nat) -- LWAIT until a time in ns (R111)
  | halted                 -- a host core stopped by HALT (R255)
  | event                  -- WFE found the flag clear (R254)
  | barwt (b : Nat)        -- BARWT of a phase that is open (R320)
  | tbwait (off phase : Nat) -- TBWAIT for a phase of the transaction barrier at an offset (R190)
  | acwait (t : Nat)       -- ACWAIT for the copies of a tag (R194)
  | qwait (q : EQueue) (v : Word) -- QWAIT for a counter's value (R176)
  | popq                   -- POPQ found `%oq` empty (R175)
  | room (q : EQueue)      -- a push into a full queue (R174)
  | pushm (q : EQueue) (b : Rec512) -- PUSHM has read its record and finds its queue full (R174)
  | pushmRel (q : EQueue) (b : Rec512) -- PUSHM has read its record and waits for its release (R174, R214)
  | launch (q : Nat) (p : Rec512) -- LAUNCH has read its packet and finds its queue full (R258)
  | lwaitAck               -- LWAIT for the invalidations outstanding (R111)
  | release                -- a release for the invalidations outstanding (R214)
  | copies                 -- the end of a pack for the copies it issued (R317)
  | tags (t : Nat)         -- ACPY while the count of its tag is full (R191)
  | records                -- HALT for the records of its task (R255)
  | marks                  -- QMARK into full queues (R178)
  | slot (n : Nat)         -- ASAVE and AREST of a slot in use (R295)
  | issue                  -- a lane instruction short of tokens, or kept back by a reservation or the locality throttle (R337, R339)
  deriving DecidableEq, Repr

/-- One recorded failure of an ACPY lane (R193). -/
structure AcFail where
  tag : Nat
  lane : Nat
  cause : BitVec 8
  sub : BitVec 8
  addr : Word
  late : Bool
  deriving DecidableEq, Repr

/-- One ACPY lane in flight (R191): its instruction, its place among the active lanes, and the translation it was checked with. -/
structure AcLane where
  tag : Nat
  lane : Nat
  group : Nat
  order : Nat
  total : Nat
  shared : Nat
  gva : Word
  mode : BitVec 2
  pa : Nat
  dev : Bool
  expiry : Nat
  size : Nat
  valid : Nat
  /-- the transaction barrier's shared offset, where the tag subtracts (R192) -/
  bar : Option Nat
  deriving DecidableEq, Repr

/-- An entry of an engine queue: a record or a marker (R168, R178). -/
inductive QEntry where
  | record (bits : Rec512) (ordinal : Nat) (mode : BitVec 2) (scope : Nat)
  | marker (n : Nat)
  deriving DecidableEq, Repr

/-- A line a record has written so far: which of its bytes, and the descriptor its sources agree on (R184, R290). -/
structure WLine where
  line : Nat
  mask : Word
  desc : BitVec 16
  deriving DecidableEq, Repr

/-- A record that has started (R169, R185, R296): how far it got, and how it stands. -/
structure Flight where
  bits : Rec512
  queue : EQueue
  ordinal : Nat
  mode : BitVec 2
  /-- elements, passes or rows performed (R173, R303) -/
  done : Nat := 0
  total : Nat := 0
  /-- stopped on a fault that the shadow context services (R186, R302) -/
  halted : Bool := false
  /-- stopped at its start: its entry still stands in its queue (R287, R292) -/
  atStart : Bool := false
  /-- all its work is done -/
  finished : Bool := false
  /-- only room in `%oq` is wanting for its retirement (R173) -/
  posting : Bool := false
  /-- the fault it is stopped on, or retires with -/
  cause : BitVec 8 := 0
  sub : BitVec 8 := 0
  faddr : Word := 0
  /-- the slot of an ACCOWNER fault and its owner tag (R362) -/
  slot : Nat := 0
  otag : BitVec 8 := 0xFF
  /-- units still to be debited, as counts and prices in order (R327) -/
  units : List (Nat × Nat) := []
  /-- units debited -/
  paid : Nat := 0
  /-- units asked for -/
  asked : Nat := 0
  /-- array clocks it takes (R280, R290) -/
  clocks : Nat := 0
  /-- bank groups a running matrix record reads (R288) -/
  groups : List Nat := []
  /-- the formats its operands took at its start, in field order (R287, R290) -/
  fmts : List (BitVec 8) := []
  /-- the Canvas's line descriptors as they stood at its start (R287) -/
  descs : Sparse (BitVec 16) := []
  /-- the first address whose write was answered with an error completion after its engine had moved past it (R302) -/
  late : Option Word := none
  /-- the running value of a VRED row (R301) -/
  acc : Option Val := none
  lines : List WLine := []
  deriving DecidableEq, Repr

/-- A context that decodes WIS-6 words: a host core, a control context, a shadow context or a pack. -/
structure Ctx where
  /-- resident and running -/
  live : Bool := false
  gpr : Sparse Word := []
  supBank : Sparse Word := []
  hypBank : Sparse Word := []
  pc : Word := 0
  mode : BitVec 2 := 0
  pmode : BitVec 2 := 0
  narrow : Bool := false
  evt : Bool := false
  sup : ExcRegs := {}
  hyp : ExcRegs := {}
  ttb1 : Word := 0
  ttb2 : Word := 0
  ctxid : BitVec 16 := 0
  vmid : BitVec 16 := 0
  tokspent : Word := 0
  wait : Wait := .none
  part : Option Nat := none
  launch : Option Nat := none
  block : Option Nat := none
  member : Nat := 0
  /-- pack index in the block (R309) -/
  index : Nat := 0
  quarter : Nat := 0
  startpc : Word := 0
  vregs : Nat := 0
  vreg : Sparse W32 := []
  actag : Sparse Nat := []
  actbar : Word := 0
  acfail : List AcFail := []
  aclanes : List AcLane := []
  lseq : Word := 0
  sseq : Word := 0
  mseq : Word := 0
  vseq : Word := 0
  accsave : Word := 0xFF
  pointk : BitVec 16 := 0
  pointpc : Word := 0
  pvalid : Bool := false
  dirty : Bool := false
  /-- age for the oldest-first choice (R334); smaller is older -/
  age : Nat := 0
  preempt : Option Nat := none
  lq : List QEntry := []
  sq : List QEntry := []
  mq : List QEntry := []
  vq : List QEntry := []
  oq : List Rec512 := []
  flights : List Flight := []
  pushed : Sparse Nat := []
  posted : Nat := 0
  markers : Nat := 0
  spilled : List Nat := []
  savedSat : List Nat := []
  spillIdx : Option Nat := none
  cbase : Nat := 0
  csize : Nat := 0
  accslots : Nat := 0
  /-- the shadow context: the control context, queue and record it serves (R365) -/
  serving : Option (EngineRef × Nat) := none
  /-- stopped by a pre-emption request; its copies land or its engines drain before it is saved (R195, R373) -/
  draining : Bool := false
  /-- stopped by flashback: AREA, AOFF and ALEN of its point (R370) -/
  flash : Option (Nat × Nat × Nat) := none
  /-- records retired and not yet counted (R171) -/
  early : List (EQueue × Nat) := []
  /-- where the pack's last memory instruction began: the stream of R104 -/
  lastAddr : Word := 0
  /-- the price of an instruction that is ready and short of tokens, and since when (R337) -/
  needs : Option (Nat × Nat) := none
  /-- pages of the save area reserved for its image (R375) -/
  pages : Nat := 0
  deriving DecidableEq, Repr

/-! ### Blocks, cohorts, launches -/

/-- A block or cohort barrier (R319). Packs are named by block and index. -/
structure Bar where
  ph : Nat := 0
  arr : Nat := 0
  exp : Nat := 0
  fixed : Bool := false
  /-- packs counted in EXP when F was set -/
  counted : List (Nat × Nat) := []
  /-- packs that have arrived in the open phase -/
  arrived : List (Nat × Nat) := []
  /-- arrivals held for the next phase, in order, with their pack gone or not -/
  held : List ((Nat × Nat) × Bool) := []
  /-- the phase of each pack's last arrival -/
  last : List ((Nat × Nat) × Nat) := []
  deriving DecidableEq, Repr

/-- A block (R309, R313). -/
structure Block where
  launch : Nat
  core : Nat
  part : Option Nat
  x : Nat
  y : Nat
  z : Nat
  cohidx : Nat
  cohort : Option Nat
  maxpacks : Nat
  cohblocks : Nat
  narrow : Bool
  vregs : Nat
  sharedSize : Nat
  shared : Sparse Byte := []
  /-- the packs of the block: index, and the unit it runs on or last ran on -/
  packs : List (Nat × Nat) := []
  hint : Nat := 0
  bars : Sparse Bar := []
  /-- queued ATTACH requests: packs still wanted and the start address, in order (R316) -/
  attach : List (Nat × Word) := []
  /-- on its core, not saved -/
  resident : Bool := true
  /-- the gang it belongs to (R346) -/
  gang : Nat := 0
  /-- pages of the save area reserved for its image (R375) -/
  pages : Nat := 0
  deriving DecidableEq, Repr

/-- A cohort (R315, R319). -/
structure Cohort where
  launch : Nat
  blocks : List Nat
  bar : Bar := {}
  deriving DecidableEq, Repr

/-- A started launch (R312, R313). -/
structure Launch where
  queue : Nat
  packet : Rec512
  part : Nat
  code : Nat
  /-- the kernel header's fields the Shepherd uses -/
  narrow : Bool
  entry : Word
  live : Word
  members : Nat
  placed : Nat := 0
  ended : Nat := 0
  start : Nat := 0
  deferredSince : Option Nat := none
  noDefer : Bool := false
  seq : Nat := 0
  /-- the agent of the chiplet on which the last unit ended (R33) -/
  lastAgent : Nat := 0
  deriving DecidableEq, Repr

/-- A packet waiting in a queue of the Shepherd (R341). -/
structure Waiting where
  packet : Rec512
  /-- DEP entries whose read failed (R412) -/
  depFailed : List Nat := []
  /-- DEP entries read as zero -/
  depZero : List Nat := []
  seq : Nat := 0
  /-- since when FLOOR alone keeps its first member back, and whether that wait is over (R345) -/
  deferredSince : Option Nat := none
  noDefer : Bool := false
  deriving DecidableEq, Repr

/-- A unit, block or task saved by the Shepherd (R372, R373): the context, and the storage that goes with it. -/
structure Saved where
  part : Nat
  launch : Option Nat
  host : Bool
  ctx : Ctx
  unit : Nat
  blockId : Option Nat
  scopes : List (Nat × Word × CoreMap)
  canvas : Sparse Byte := []
  cdesc : Sparse (BitVec 16) := []
  cpoison : Sparse Bool := []
  deriving DecidableEq, Repr

/-- A scope-group entry 8 to 31 with its snapshot (R198). -/
structure ScopeEnt where
  reg : Word := 0
  snap : CoreMap := 0
  deriving DecidableEq, Repr

/-! ### Cores and dies -/

/-- A Leash request (R298). -/
structure LeashReq where
  ctx : Nat
  count : Nat
  implicit : Bool
  deriving DecidableEq, Repr

/-- What an owner tag stands for (R291): its ACCSAVE, and the translation its saves use. -/
structure TagCtx where
  tag : Nat
  ctx : Option Nat
  accsave : Word
  ttb1 : Word
  ttb2 : Word
  ctxid : BitVec 16
  vmid : BitVec 16
  part : Option Nat
  deriving DecidableEq, Repr

/-- A core's own storage and engines. -/
structure Core where
  canvas : Sparse Byte := []
  cdesc : Sparse (BitVec 16) := []
  cpoison : Sparse Bool := []
  slots : Sparse Byte := []
  owner : Sparse (BitVec 8) := []
  sat : Sparse Bool := []
  held : Sparse Bool := []
  tagctx : List TagCtx := []
  leashHolder : Option Nat := none
  leashLeft : Nat := 0
  leashTime : Nat := 0
  /-- time the array stood idle under the lease, in 1/160 of an array clock, counted up to the hub cycle `leashAt` (R298) -/
  leashIdle : Nat := 0
  leashAt : Nat := 0
  leashReqs : List LeashReq := []
  sinceBoundary : Nat := 0
  /-- the array goes from one record to the next without a boundary (R296) -/
  busy : Bool := false
  /-- engine faults waiting for the shadow context, oldest first -/
  faultq : List (EngineRef × Nat) := []
  /-- engine units that wait for tokens, in the order they began to wait: context, queue and record (R327) -/
  tokq : List (Nat × EQueue × Nat) := []
  tokens : Nat := 0
  want : Nat := 0
  hungry : Bool := false
  /-- left hunger in this round (R329) -/
  served : Bool := false
  wantSince : Option Nat := none
  reserve : Option Nat := none
  reserveq : List Nat := []
  /-- the deficit counters, by quarter * 8 + tenant entry, and the tenant each quarter chose last (R335) -/
  deficit : Sparse Int := []
  lastTenant : Sparse Nat := []
  /-- lines of the most recent L1 evictions (R339) -/
  victims : List Nat := []
  locKeep : List Nat := []
  /-- the arithmetic ratio in force: 0 ×½, 1 ×1, 2 ×2 (R350) -/
  ratio : Nat := 2
  /-- an operating point that waits for the voltage: front-end clock and ratio (R351) -/
  pending : Option (Nat × Nat) := none
  /-- the voltage in mV; none is the table's value for the point in force -/
  volt : Option Nat := none
  poolLevel : Nat := 0
  poolLevelAt : Nat := 0
  poolHold : Nat := 0
  /-- the hub cycle from which the Retriever may issue its next pool request (R91) -/
  poolNext : Nat := 0
  carve : Nat := 0
  /-- the tick at which the Shepherd last asked a task of the core to leave (R366) -/
  askedAt : Option Nat := none
  /-- the control context that has just yielded (R321) -/
  yielded : Option Nat := none
  /-- the front-end cycle of the core's last issue, counted in cycles in which a quarter could issue, and its quarter (R327, R334) -/
  issueAt : Nat × Nat := (0, 3)
  /-- the front-end cycle from which each quarter is free again (R307) -/
  quarterFree : Sparse Nat := []
  deriving DecidableEq, Repr

/-- A site as the hub knows it (R20, R21, R26). -/
structure Site where
  table : BitVec 2048 := 0
  /-- the coherence class in force: 0 FULL, 1 IOC, 2 NCF -/
  cls : BitVec 2 := 0
  drainStart : Option Nat := none
  /-- log2 of the window granted (R18, R23) -/
  winlog : Nat := 0
  /-- grants made once, kept until package reset (R23) -/
  granted : Bool := false
  deriving DecidableEq, Repr

/-- The metering of one slice port (R167). -/
structure Port where
  bucket : Sparse Nat := []
  allow : Sparse Nat := []
  pool : Nat := 0
  /-- requests served in this period, and requests that wait, by partition -/
  active : List Nat := []
  waiting : Sparse Nat := []
  deriving DecidableEq, Repr

/-- A die: its slice ports, its Palette ring and its temperature. -/
structure Die where
  ports : Sparse Port := []
  /-- the flits by the stop they stand at, 0 the hub's: tokens, and the period they were loaded in (R323, R324) -/
  flits : List (Nat × Nat) := []
  reserve : Nat := 0
  used : Nat := 0
  period : Nat := 0
  /-- the last transition of the throttle, and since when every sample is cool (R352), in hub cycles -/
  lastTransition : Option Nat := none
  coolSince : Option Nat := none
  /-- what each core's own sensor read last (R344) -/
  sensors : List Nat := []
  deriving DecidableEq, Repr

/-! ### Memory -/

/-- A clean line in a core's L1 (R145). -/
structure L1Line where
  core : Nat
  line : Nat
  bytes : Rec512
  desc : BitVec 16
  deriving DecidableEq, Repr

/-- A code word a core has fetched (R41). -/
structure CodeWord where
  core : Nat
  pa : Nat
  word : Word
  deriving DecidableEq, Repr

/-- A line in a slice of an NCF die (R151): bit `i` of a mask stands for byte `i`. -/
structure NcfLine where
  site : Nat
  slice : Nat
  line : Nat
  bytes : Rec512
  held : Word
  dirty : Word
  valid : Bool
  desc : BitVec 16
  descDirty : Bool
  /-- the partition whose request allocated it -/
  part : Option Nat
  deriving DecidableEq, Repr

/-- A clean copy of a remote line in a slice (R163). -/
structure RemLine where
  site : Nat
  slice : Nat
  line : Nat
  bytes : Rec512
  desc : BitVec 16
  deriving DecidableEq, Repr

/-- MOESI states a holder has at home (R150). -/
inductive Moesi where
  | m | o | e | s
  deriving DecidableEq, Repr

/-- A holder of a line in the home directory (R149). -/
structure Holder where
  agent : Nat
  slice : Nat
  line : Nat
  st : Moesi
  deriving DecidableEq, Repr

/-- A live reduction range (R157). -/
structure Range where
  part : Option Nat
  base : Nat
  len : Nat
  fmt : RFmt
  op : ROp
  deriving DecidableEq, Repr

/-- A partial of a reduction line in one holder (R160): bit `i` of `touched` stands for element `i`. -/
structure Partial where
  agent : Nat
  slice : Nat
  line : Nat
  bytes : Rec512
  touched : Word
  deriving DecidableEq, Repr

/-- A table entry held by a TLB or walk cache (R103, R105). -/
structure TlbEntry where
  /-- the core, or 1000 for the IOMMU -/
  core : Nat
  stage2 : Bool
  vmid : BitVec 16
  ctxid : BitVec 16
  glob : Bool
  level : Nat
  /-- the address bits above the entry's reach -/
  vpn : Nat
  entry : Word
  /-- where the entry stands, for the update of A and D -/
  at_ : Nat
  expiry : Nat
  deriving DecidableEq, Repr

/-- A forwarding pair (R87) with the source lines already copied, counted from SRC. -/
structure Pair where
  src : Nat
  dst : Nat
  size : Nat
  copied : Nat
  deriving DecidableEq, Repr

/-- The pool as the package meets it (R89 to R95). -/
structure Pool where
  trained : Bool := false
  /-- lost lines, by pool line number -/
  lost : List (Nat × Nat) := []
  /-- versioned regions by 2 MiB region number, with their versions -/
  versioned : List (Nat × Word) := []
  /-- staging regions of this host -/
  staging : List Nat := []
  /-- bytes the hub's bucket holds, the hub cycle it was last refilled at, and requests that wait (R90) -/
  bucket : Nat := 0
  refilled : Nat := 0
  waiting : Nat := 0
  deriving DecidableEq, Repr

/-- Memory and what is cached of it. -/
structure Mem where
  bytes : Sparse Byte := []
  desc : Sparse (BitVec 16) := []
  poison : Sparse Bool := []
  l1 : List L1Line := []
  code : List CodeWord := []
  ncf : List NcfLine := []
  rem : List RemLine := []
  dir : List Holder := []
  msc : List Nat := []
  ranges : List Range := []
  partials : List Partial := []
  sharers : Sparse Word := []
  invals : List (Nat × Nat × Nat) := []
  fwd : List Pair := []
  promoted : List (Nat × Nat) := []
  pool : Pool := {}
  peers : List Nat := []
  tlb : List TlbEntry := []
  oldLmax : Nat := 0
  pendEnd : Nat := 0
  deriving DecidableEq, Repr

/-! ### Partitions and the hub -/

/-- What the Shepherd keeps of a partition besides its registers. -/
structure PartSt where
  /-- the gangs that have blocks, in the order of their first admission, and the resident one (R346) -/
  gangs : List Nat := []
  resident : Option Nat := none
  /-- consecutive missed switches, and the tick a switch began at (R349) -/
  misses : Nat := 0
  switchAt : Option Nat := none
  /-- pages of the save area reserved (R375) -/
  reserved : Nat := 0
  deriving DecidableEq, Repr

/-- A unit a partition can own (R379), slices apart. -/
inductive PUnit where
  | host (i : Nat)
  | simt (i : Nat)
  | ctx (i j : Nat)
  | ma (i : Nat)
  | ve (i : Nat)
  | rt (i : Nat)
  | set (lp : Bool) (k : Nat)
  deriving DecidableEq, Repr

/-- A Rehang in progress (R385 to R392): its ring entry, partition and plan, the units it joined, the dies whose slices join or leave, the
former slice sets of those dies, the tick DRAIN began at, the hub time at which MIGRATE made its requests, and whether the former slices are
walked. Its phase stands in PSTATE. -/
structure Rehang where
  entry : Nat
  part : Nat
  plan : BitVec 2048
  joined : List PUnit
  dies : List Nat := []
  former : List (Nat × Word) := []
  ticks : Nat
  asked : Nat := 0
  walked : Bool
  deriving DecidableEq, Repr

/-- An event the arbiter has numbered (R33). -/
abbrev EventRec := BitVec 256

/-- Whose turn it is: the model's own input (log 3). -/
inductive Turn where
  | run (u : Nat)
  | record (e : EngineRef)
  | packet (q : Nat)
  | ring (base : Nat)
  | happen (i : Instr)
  | elapse (n : Nat)
  deriving DecidableEq, Repr

/-- The bank of hub registers at reset, by offset (R24, R34, R81 to R95, R107, R332, R345, R347, R350, R352, R361, R383). -/
def hubReset (off : Nat) : Word :=
  if off = 0 then 0x47460600
  else if 0x100 ≤ off ∧ off < 0x140 then
    (if off < 0x118 then 0 else if off < 0x138 then 0x10 else 0x8)
  else if 0x200 ≤ off ∧ off < 0x300 then BitVec.allOnes 64
  else if off = 0x700 then 0x40004000
  else if off = 0x728 ∨ off = 0x748 ∨ off = 0x7A8 ∨ off = 0x828 ∨ off = 0x848 ∨ off = 0x6A48 ∨ off = 0x6A08 then 4
  else if 0x6800 ≤ off ∧ off < 0x6A00 ∧ off % 32 = 8 then 4
  else if off = 0x780 then 2
  else if off = 0x788 then 0x40000000080001
  else if off = 0x800 then 20000
  else if off = 0xA00 then 0x0A0C80024E0C80
  else if 0xA40 ≤ off ∧ off < 0xA80 then
    (if off = 0xA48 ∨ off = 0xA50 then 330 else if 0xA58 ≤ off ∧ off < 0xA78 then 520 else 0)
  else if 0xA88 ≤ off ∧ off < 0xAB8 then 0x300000005F
  else if off = 0xB80 then 0x6407D0
  else if 0xC00 ≤ off ∧ off < 0x1000 ∧ off % 64 = 0x20 then 0x640000
  else if 0x1000 ≤ off ∧ off < 0x1200 then 0x78007800007800
  else if 0x1200 ≤ off ∧ off < 0x1C00 then 0x50004808004802
  else if 0x6000 ≤ off ∧ off < 0x6800 then
    (if off % 128 = 0 then (if off = 0x6000 then 1 else 0)
     else if off % 128 = 0x10 then BitVec.ofNat 64 ((off - 0x6000) / 128 * 65536)
     else if 0x40 ≤ off % 128 then BitVec.allOnes 64
     else 0)
  else 0

/-- The key of a chiplet-window register. -/
def winKey (site off : Nat) : Nat := site * 2 ^ 40 + off

/-- Chiplet-window registers at reset (R148, R166, R340). -/
def winReset (k : Nat) : Word :=
  let site := k / 2 ^ 40
  let off := k % 2 ^ 40
  if 1 ≤ site ∧ site ≤ 6 then
    if 0x100100 ≤ off ∧ off < 0x100180 then 0x10000400
    else if off = 0x100180 then 0x4000
    else if site ≤ 2 ∧ 0x100200 ≤ off ∧ off < 0x100500 then 0x1104000400000
    else 0
  else 0

/-- The memory byte that nothing has written (log 1). -/
def byte0 : Nat → Byte := fun _ => 0
/-- The descriptor of a line that nothing has written: untyped (log 1). -/
def desc0 : Nat → BitVec 16 := fun _ => 0
/-- No line is poisoned at reset. -/
def poison0 : Nat → Bool := fun _ => false

/-- The package. -/
structure State where
  cycles : Nat := 0
  cur : Nat := 0
  script : List Turn := []
  free : Nat := 0
  nextId : Nat := 1
  /-- the first word of the instruction being executed, as step fetched it -/
  word : Word := 0
  ctxs : Sparse Ctx := []
  /-- what a host core held before it took up a host thread (R361) -/
  former : Sparse Ctx := []
  scopes : Sparse ScopeEnt := []
  blocks : Sparse (Option Block) := []
  cohorts : Sparse (Option Cohort) := []
  launches : Sparse (Option Launch) := []
  queues : Sparse (List Waiting) := []
  /-- barrier packets that have started and wait for their DEP signals, with their queues (R311) -/
  depWait : List (Nat × Waiting) := []
  saved : List Saved := []
  cores : Sparse Core := []
  dies : Sparse Die := []
  sites : Sparse Site := []
  mem : Mem := {}
  hub : Sparse Word := []
  win : Sparse Word := []
  parts : Sparse PartSt := []
  rrPtr : Sparse Nat := []
  seq : Nat := 1
  /-- the hub cycle and the agent of the event numbered last (R32) -/
  lastEvent : Nat × Nat := (0, 0)
  evbuf : Sparse (List EventRec) := []
  fwMeas : BitVec 384 := 0
  /-- the measurement digest that the attestation key of this boot is derived from, once it is (R36) -/
  attMeas : Option (BitVec 384) := none
  boostOpen : Option Nat := none
  boostLast : Option Nat := none
  rehang : Option Rehang := none
  lastTick : Nat := 0
  deriving DecidableEq, Repr

/-- The machine right after reset: every field at the value its declaration gives (INVENTORY.md, '## State'). The pool has no versioned and no
staging regions: R92 does not say how the fabric manager's declaration of them reaches the hub, and no event of the table does (log 48). -/
def State.reset : State := {}

end Sys2Proof.Machine
end

