-- ==== Sys2Proof/Machine/Hub.lean ====
section
/-! DEFINITION. Reading and writing the parts of the state: contexts, cores, sites, hub registers, ownership and features. -/

namespace Sys2Proof.Machine

namespace State

/-- A context. -/
def ctx (s : State) (u : Nat) : Ctx := Sparse.get (fun _ => {}) s.ctxs u
/-- Replaces a context. -/
def setCtx (s : State) (u : Nat) (c : Ctx) : State := { s with ctxs := Sparse.set s.ctxs u c }
/-- The acting unit's context. -/
def me (s : State) : Ctx := s.ctx s.cur
/-- Replaces the acting unit's context. -/
def setMe (s : State) (c : Ctx) : State := s.setCtx s.cur c
/-- A core's storage. -/
def core (s : State) (c : Nat) : Core := Sparse.get (fun _ => {}) s.cores c
/-- Replaces a core's storage. -/
def setCore (s : State) (c : Nat) (k : Core) : State := { s with cores := Sparse.set s.cores c k }
/-- A site. -/
def site (s : State) (n : Nat) : Site := Sparse.get (fun _ => {}) s.sites n
/-- Replaces a site. -/
def setSite (s : State) (n : Nat) (x : Site) : State := { s with sites := Sparse.set s.sites n x }
/-- A die. -/
def die (s : State) (n : Nat) : Die := Sparse.get (fun _ => {}) s.dies n
/-- Replaces a die. -/
def setDie (s : State) (n : Nat) (x : Die) : State := { s with dies := Sparse.set s.dies n x }
/-- What the Shepherd keeps of a partition. -/
def part (s : State) (p : Nat) : PartSt := Sparse.get (fun _ => {}) s.parts p
/-- Replaces it. -/
def setPart (s : State) (p : Nat) (x : PartSt) : State := { s with parts := Sparse.set s.parts p x }
/-- A block, if it exists. -/
def block (s : State) (b : Nat) : Option Block := Sparse.get (fun _ => none) s.blocks b
/-- Replaces a block. -/
def setBlock (s : State) (b : Nat) (x : Option Block) : State := { s with blocks := Sparse.set s.blocks b x }
/-- A cohort, if it exists. -/
def cohort (s : State) (b : Nat) : Option Cohort := Sparse.get (fun _ => none) s.cohorts b
/-- Replaces a cohort. -/
def setCohort (s : State) (b : Nat) (x : Option Cohort) : State := { s with cohorts := Sparse.set s.cohorts b x }
/-- A launch, if it is started and not complete. -/
def launch (s : State) (l : Nat) : Option Launch := Sparse.get (fun _ => none) s.launches l
/-- Replaces a launch. -/
def setLaunch (s : State) (l : Nat) (x : Option Launch) : State := { s with launches := Sparse.set s.launches l x }
/-- The packets of a queue that have not started, in order (R341). -/
def queue (s : State) (q : Nat) : List Waiting := Sparse.get (fun _ => []) s.queues q
/-- Replaces them. -/
def setQueue (s : State) (q : Nat) (x : List Waiting) : State := { s with queues := Sparse.set s.queues q x }
/-- A hub register as stored, at an offset that is a multiple of 8 (R24). -/
def hubR (s : State) (off : Nat) : Word := Sparse.get hubReset s.hub off
/-- Stores a hub register. -/
def setHub (s : State) (off : Nat) (v : Word) : State := { s with hub := Sparse.put hubReset s.hub off v }
/-- A chiplet-window register as stored (R148). -/
def winR (s : State) (site off : Nat) : Word := Sparse.get winReset s.win (winKey site off)
/-- Stores a chiplet-window register. -/
def setWin (s : State) (site off : Nat) (v : Word) : State := { s with win := Sparse.put winReset s.win (winKey site off) v }
/-- HUBTIME, ns (R107): the hub clock runs at 2 GHz (R5). -/
def hubTime (s : State) : Nat := s.cycles / 2
/-- Replaces the memory. -/
def setMem (s : State) (m : Mem) : State := { s with mem := m }
/-- Takes a number for a free value (log 4). -/
def takeFree (s : State) : State := { s with free := s.free + 1 }

end State

/-- The field of a hub register. -/
def hubF (s : State) (off lo n : Nat) : Nat := fieldNat (s.hubR off) lo n

/-- Writes the field of a hub register. -/
def setHubF (s : State) (off lo n v : Nat) : State := s.setHub off (setField (s.hubR off) lo n v)

/-! ### Sites and classes -/

/-- R198: the site of a core. -/
def siteOfCore (c : Nat) : Nat := if c < 64 then 0 else if c < 160 then 1 else if c < 256 then 2 else 3 + (c - 256) / 32

/-- R18, R20: the class number of a site: 0 host, 1 SIMT, 2 systolic, 3 link. -/
def classOfSite (n : Nat) : Nat := if n = 0 then 0 else if n ≤ 2 then 1 else if n ≤ 6 then 2 else 3

/-- R198: the first core and the number of cores of a site. -/
def coresOfSite (n : Nat) : Nat × Nat :=
  if n = 0 then (0, 64) else if n = 1 then (64, 96) else if n = 2 then (160, 96) else if n ≤ 6 then (256 + 32 * (n - 3), 32) else (384, 0)

/-- R21: the agent number of a core's chiplet. -/
def agentOfCore (c : Nat) : Nat := siteOfCore c + 1

/-- R25: SITECTL. -/
def siteCtl (n : Nat) : Nat := 0x100 + 8 * n

/-- R25: the state of a site. -/
def siteState (s : State) (n : Nat) : Nat := hubF s (siteCtl n) 0 3

/-- R22: the coherence class in force: 0 FULL, 1 IOC, 2 NCF. -/
def cohClass (s : State) (n : Nat) : Nat := (s.site n).cls.toNat

/-- The L2 slices of a site (R144). -/
def slicesOf (n : Nat) : Nat := if n = 0 then 16 else if n ≤ 6 then 64 else 0

/-! ### Partitions and ownership (R380, R382, R383) -/

/-- R380: the partition an owner field names. -/
def ownerOf (f : Nat) : Option Nat := if f / 16 % 2 = 1 then some (f % 16) else none

/-- The owner of a host core. -/
def hostOwner (s : State) (c : Nat) : Option Nat := ownerOf (hubF s (0x2C10 + 8 * (c / 8)) (8 * (c % 8)) 8)

/-- The owner of an owner field of SYSOWN: contexts 0 to 3, MA 4, VE 5, RT 6. -/
def sysOwner (s : State) (c j : Nat) : Option Nat := ownerOf (hubF s (0x3000 + 8 * (c - 256)) (8 * j) 8)

/-- The offset of a SIMT core's tenant word. -/
def simtShr (c w : Nat) : Nat := 0x3400 + 16 * (c - 64) + 8 * w

/-- The owner of tenant entry `e` of a SIMT core. -/
def tenantOwner (s : State) (c e : Nat) : Option Nat := ownerOf (hubF s (simtShr c (e / 4)) (16 * (e % 4)) 8)

/-- The weight of tenant entry `e`. -/
def tenantWeight (s : State) (c e : Nat) : Nat := hubF s (simtShr c (e / 4)) (16 * (e % 4) + 8) 8

/-- The tenant entry of a partition on a SIMT core. -/
def tenantOf (s : State) (c p : Nat) : Option Nat := (rangeFrom 0 8).find? fun e => tenantOwner s c e == some p

/-- The owner of a near (`lp` false) or LPDDR set. -/
def setOwner (s : State) (lp : Bool) (k : Nat) : Option Nat :=
  ownerOf (hubF s ((if lp then 0x2C60 else 0x2C50) + 8 * (k / 8)) (8 * (k % 8)) 8)

/-- R380: SETSHR. -/
def setShared (s : State) (lp : Bool) (k : Nat) : Bool := hubF s 0x2C70 ((if lp then 16 else 0) + k) 1 == 1

/-- The base of a partition's R383 block. -/
def pBase (p : Nat) : Nat := 0x6000 + 128 * p
/-- The base of a partition's R361 block. -/
def fBase (p : Nat) : Nat := 0xC00 + 64 * p
/-- PSTATE.EN. -/
def pEnabled (s : State) (p : Nat) : Bool := hubF s (pBase p) 0 1 == 1
/-- PSTATE.GUEST. -/
def pGuest (s : State) (p : Nat) : Bool := hubF s (pBase p) 1 1 == 1
/-- PSTATE.PAUSE. -/
def pPause (s : State) (p : Nat) : Bool := hubF s (pBase p) 2 1 == 1
/-- PSTATE.PAUSED. -/
def pPaused (s : State) (p : Nat) : Bool := hubF s (pBase p) 3 1 == 1
/-- PSTATE.PHASE. -/
def pPhase (s : State) (p : Nat) : Nat := hubF s (pBase p) 4 3
/-- PCTL.QUIESCE. -/
def pQuiesce (s : State) (p : Nat) : Bool := hubF s (fBase p + 0x20) 1 1 == 1

/-- R379, R198: does the partition own any unit of the core? -/
def partHasCore (s : State) (p c : Nat) : Bool :=
  if c < 64 then hostOwner s c == some p
  else if c < 256 then (tenantOf s c p).isSome
  else (rangeFrom 0 7).any fun j => sysOwner s c j == some p

/-- R382: the partition a unit's requests carry. A host core outside a launch carries none in supervisor or hypervisor mode, but
for the guest that owns it below hypervisor mode; in user mode it acts for its owner (log 21). -/
def partOf (s : State) (u : Nat) : Option Nat :=
  let c := s.ctx u
  if kindOf u = .host ∧ c.launch.isNone then
    match hostOwner s (coreOf u) with
    | some p => if c.mode = 2 then none else if c.mode = 0 || pGuest s p then some p else none
    | none => none
  else c.part

/-! ### Features (R30, R394, R395) -/

/-- R394: the word FEAT0 each class of chiplet offers. -/
def featOffer (cls : Nat) : Nat := if cls = 0 then 0x0C else if cls = 1 then 0x7F else if cls = 2 then 0xCC else 0

/-- The offer of a core's chiplet AND FEATACC, word `j`: no chiplet offers more than its class does, and FEAT0 bits 63:8 and FEAT1 to FEAT7
read zero (R394). -/
def featOffered (s : State) (u j : Nat) : Word :=
  let n := siteOfCore (coreOf u)
  if j = 0 then field (s.site n).table 256 64 &&& s.hubR (0x200 + 64 * classOfSite n) &&& BitVec.ofNat 64 (featOffer (classOfSite n)) else 0

/-- R395: the guest's mask, word `j`. -/
def featMask (s : State) (u j : Nat) : Word :=
  match partOf s u with
  | some p => if pGuest s p then s.hubR (pBase p + 0x40 + 8 * j) else BitVec.allOnes 64
  | none => BitVec.allOnes 64

/-- R30: FEATj as the unit reads it. -/
def featWord (s : State) (u j : Nat) : Word := featOffered s u j &&& featMask s u j

/-- Does the unit have feature bit `b` of FEAT0? -/
def hasFeature (s : State) (u b : Nat) : Bool := bitAt (featWord s u 0) b

/-- R395: the feature is refused by the guest mask alone, which MASKCNT counts. -/
def maskedFeature (s : State) (u b : Nat) : Bool := bitAt (featOffered s u 0) b && !bitAt (featMask s u 0) b

/-- R395: adds one to MASKCNT, saturating. -/
def countMasked (s : State) (u : Nat) : State :=
  match partOf s u with
  | some p => setHubF s (pBase p + 0x28) 0 32 (min (hubF s (pBase p + 0x28) 0 32 + 1) 0xFFFFFFFF)
  | none => s

end Sys2Proof.Machine
end

