-- ==== Sys2Proof/Machine/Phys.lean ====
section
/-! DEFINITION. Physical memory: the map and the interleave sets (R73 to R78), home with its directory, poison, forwarding, ownership
and reduction ranges, the L1s and the NCF slices in front of it (R144 to R153, R157 to R165), access counting (R84), the event
arbiter's rings (R32 to R34), and one access of a core or an engine. -/

namespace Sys2Proof.Machine

/-- R356: cause codes. -/
def cILLEGAL : BitVec 8 := 0x01
/-- R356. -/
def cPRIV : BitVec 8 := 0x02
/-- R356. -/
def cMISALIGN : BitVec 8 := 0x03
/-- R356. -/
def cBOUNDS : BitVec 8 := 0x04
/-- R356. -/
def cNOTPRESENT : BitVec 8 := 0x05
/-- R356. -/
def cPERM : BitVec 8 := 0x06
/-- R356. -/
def cMALFORMED : BitVec 8 := 0x07
/-- R356. -/
def cPOISON : BitVec 8 := 0x08
/-- R356. -/
def cBANKCONFLICT : BitVec 8 := 0x09
/-- R356. -/
def cACCOWNER : BitVec 8 := 0x0A
/-- R356. -/
def cQUEUE : BitVec 8 := 0x0B
/-- R356. -/
def cBARRIER : BitVec 8 := 0x0C
/-- R356. -/
def cTRAP : BitVec 8 := 0x0E
/-- R356. -/
def cWATCHDOG : BitVec 8 := 0x0F
/-- R356. -/
def cFABRIC : BitVec 8 := 0x10
/-- R356. -/
def cSCOPE : BitVec 8 := 0x11

/-! ### The map (R73 to R78) -/

/-- The numbers of the bits set among the low `n` of `w`. -/
def bitsOf (w n : Nat) : List Nat := (rangeFrom 0 n).filter fun i => w.testBit i

/-- R80: the control register of an interleave set. -/
def setCtl (lp : Bool) (k : Nat) : Nat := if lp then 0x600 + 16 * k else 0x400 + 32 * k

/-- R80: the channel bitmap of a set. -/
def setBitmap (s : State) (lp : Bool) (k : Nat) : Nat :=
  if lp then hubF s (0x608 + 16 * k) 0 32 else (s.hubR (0x408 + 32 * k)).toNat + (s.hubR (0x410 + 32 * k)).toNat * 2 ^ 64

/-- R77: the channels of a set, ascending. -/
def setChannels (s : State) (lp : Bool) (k : Nat) : List Nat := bitsOf (setBitmap s lp k) (if lp then 32 else 128)

/-- R81: the base of a set as a physical address. -/
def setBase (s : State) (lp : Bool) (k : Nat) : Nat := hubF s (setCtl lp k) 30 10 * 2 ^ 30 + (if lp then 2 ^ 40 else 0)

/-- R75: bytes of a channel. -/
def channelBytes (lp : Bool) : Nat := if lp then Config.lpBytes else Config.nearBytes

/-- R77: the bytes a set's range runs for. -/
def setLen (s : State) (lp : Bool) (k : Nat) : Nat := (setChannels s lp k).length * channelBytes lp

/-- R81. -/
def setEnabled (s : State) (lp : Bool) (k : Nat) : Bool := hubF s (setCtl lp k) 0 1 == 1

/-- The enabled set that covers an address (R78: at most one). -/
def setOf (s : State) (pa : Nat) : Option (Bool × Nat) :=
  if pa < 2 ^ 41 then
    let lp := decide (2 ^ 40 ≤ pa)
    match (rangeFrom 0 16).find? fun k =>
        setEnabled s lp k && decide (setBase s lp k ≤ pa) && decide (pa < setBase s lp k + setLen s lp k) with
    | some k => some (lp, k)
    | none => none
  else none

/-- R77: where an address of an enabled set is stored. -/
def setKey (s : State) (lp : Bool) (k pa : Nat) : Nat :=
  let chs := setChannels s lp k
  let o := pa - setBase s lp k
  let g := o / 4096
  let ch := chs.getD (g % chs.length) 0
  let loc := g / chs.length * 4096 + o % 4096
  if lp then 2 ^ 40 + ch * 2 ^ 36 + loc else ch * 2 ^ 32 + loc

/-- R73: base of the pool window. -/
def poolBase : Nat := 2 ^ 48
/-- R74: base of the remote windows. -/
def remoteBase : Nat := 8 * 2 ^ 48
/-- R18: base of the chiplet slots. -/
def slotBase : Nat := 15 * 2 ^ 48

/-- R89, R95: is the pool window backed at an offset? -/
def poolBacked (s : State) (off : Nat) : Bool :=
  hubF s 0x780 0 1 == 1 && s.mem.pool.trained && decide (off < 2 ^ hubF s 0x780 8 8)

/-- R74: is a remote window backed at an offset? -/
def remoteBacked (s : State) (d off : Nat) : Bool :=
  decide (off < 0x20000000000) && s.mem.peers.contains d && d != hubF s 8 0 6

/-- R87: the address after forwarding. -/
def forwarded (s : State) (pa : Nat) : Nat :=
  match s.mem.fwd.find? fun f => decide (f.src ≤ pa) && decide (pa < f.src + f.size) && decide ((pa - f.src) / 64 < f.copied) with
  | some f => f.dst + (pa - f.src)
  | none => pa

/-- Where the byte at a physical address is stored: none where it is unbacked or a register (R73). -/
def homeKey (s : State) (pa0 : Nat) : Option Nat :=
  let pa := forwarded s pa0
  if pa < 2 ^ 41 then
    match setOf s pa with
    | some (lp, k) => some (setKey s lp k pa)
    | none => none
  else if poolBase ≤ pa ∧ pa < 2 * poolBase then
    (if poolBacked s (pa - poolBase) then some (2 ^ 50 + (pa - poolBase)) else none)
  else if remoteBase ≤ pa ∧ pa < 12 * 2 ^ 48 then
    (if remoteBacked s ((pa - remoteBase) / 2 ^ 44) ((pa - remoteBase) % 2 ^ 44) then some (2 ^ 60 + (pa - remoteBase)) else none)
  else none

/-- A pool address (R73). -/
def isPool (pa : Nat) : Bool := decide (poolBase ≤ pa) && decide (pa < 2 * poolBase)
/-- A remote address (R74). -/
def isRemote (pa : Nat) : Bool := decide (remoteBase ≤ pa) && decide (pa < 12 * 2 ^ 48)
/-- A chiplet slot or the hub register block (R73, R97). -/
def isDevice (pa : Nat) : Bool :=
  (decide (slotBase ≤ pa) && decide (pa < slotBase + 8 * 2 ^ 40)) || (decide (Config.hubBase ≤ pa) && decide (pa < Config.hubBase + 0x10000))

/-- R94: is a pool line lost? -/
def poolLost (s : State) (pa : Nat) : Bool :=
  isPool pa && s.mem.pool.lost.any fun r => decide (r.1 ≤ pa - poolBase) && decide (pa - poolBase < r.1 + r.2)

/-- R92: does a pool address lie in a versioned region? -/
def versionedAt (s : State) (pa : Nat) : Bool :=
  isPool pa && s.mem.pool.versioned.any fun r => r.1 == (pa - poolBase) / 0x200000

/-! ### Home storage -/

/-- The stored bytes from a key. -/
def memBytes (m : Mem) (key n : Nat) : List Byte := (rangeFrom key n).map fun k => Sparse.get byte0 m.bytes k

/-- Stores bytes from a key. -/
def putBytes (m : Mem) (key : Nat) : List Byte → Mem
  | [] => m
  | b :: r => putBytes { m with bytes := Sparse.put byte0 m.bytes key b } (key + 1) r

/-- The descriptor of a stored line. -/
def memDesc (m : Mem) (key : Nat) : BitVec 16 := Sparse.get desc0 m.desc (key / 64)
/-- Stores a line's descriptor. -/
def putDesc (m : Mem) (key : Nat) (d : BitVec 16) : Mem := { m with desc := Sparse.put desc0 m.desc (key / 64) d }
/-- Is a stored line poisoned? -/
def memPoison (m : Mem) (key : Nat) : Bool := Sparse.get poison0 m.poison (key / 64)
/-- Sets or clears a line's poison. -/
def putPoison (m : Mem) (key : Nat) (b : Bool) : Mem := { m with poison := Sparse.put poison0 m.poison (key / 64) b }

/-- The bytes of a 512-bit line whose mask bits are set, written over others. -/
def maskLine (mask : Word) (new old : Rec512) : Rec512 :=
  ofBytes 512 ((rangeFrom 0 64).map fun i => if bitAt mask i then field new (8 * i) 8 else field old (8 * i) 8)

/-- The mask of `n` bytes from byte `i` of a line. -/
def byteMask (i n : Nat) : Word := BitVec.ofNat 64 ((2 ^ n - 1) * 2 ^ (i % 64))

/-- Bytes placed in a line from byte `i`. -/
def placeBytes (i : Nat) (bs : List Byte) : Rec512 := BitVec.ofNat 512 (ofBytesNat bs * 2 ^ (8 * (i % 64)))

/-- Adds to a saturating field of a hub register. -/
def satAddHub (s : State) (off lo n k : Nat) : State := setHubF s off lo n (min (hubF s off lo n + k) (2 ^ n - 1))

/-- R164: region invalidations go to the sharers of a region, and its vector is cleared. -/
def tellSharers (s : State) (region : Nat) : State :=
  let v := Sparse.get (fun _ => (0 : Word)) s.mem.sharers region
  if v = 0 then s
  else s.setMem { s.mem with
    sharers := Sparse.put (fun _ => (0 : Word)) s.mem.sharers region 0,
    invals := s.mem.invals ++ ((bitsOf v.toNat 64).map fun d => (d, region, s.cycles)) }

/-- R87: the addresses at which a byte is read: where it is stored, and the source address of a pair that shows it. -/
def aliasesOf (s : State) (pa : Nat) : List Nat :=
  let d := forwarded s pa
  d :: (s.mem.fwd.filter fun f => decide (f.dst ≤ d) && decide (d < f.dst + f.size) && decide ((d - f.dst) / 64 < f.copied)).map
    fun f => f.src + (d - f.dst)

/-- R164, R87: a write at home sends region invalidations to the peers that share the region of any address its bytes are read at. -/
def invalidateSharers (s : State) (pa : Nat) : State :=
  if isRemote pa then s else (aliasesOf s pa).foldl (fun s a => tellSharers s (a / 2048)) s

/-- R382: home refuses a request of partition `p` to a set the partition may not use. -/
def homeRefuses (s : State) (p : Option Nat) (pa : Nat) : Bool :=
  match p with
  | none => false
  | some p =>
    match setOf s (forwarded s pa) with
    | none => false
    | some (lp, k) => setOwner s lp k != some p && !setShared s lp k

/-- The line a physical byte lies in. -/
def lineOf (pa : Nat) : Nat := pa / 64

/-- R87: do two line numbers name one line at home? A source line, once copied, is its destination's. -/
def sameLine (s : State) (a b : Nat) : Bool := a == b || forwarded s (64 * a) == forwarded s (64 * b)

/-- R90: a pool request takes its 64 bytes from the hub's bucket, or waits at the hub for its next refill (log 18). RATE 0 meters nothing. -/
def poolMeter (s : State) (pa : Nat) : State :=
  let p := s.mem.pool
  if !isPool pa || hubF s 0x788 32 16 == 0 then s
  else if 64 ≤ p.bucket then s.setMem { s.mem with pool := { p with bucket := p.bucket - 64 } }
  else s.setMem { s.mem with pool := { p with waiting := p.waiting + 1 } }

/-- R90: the lines of `n` bytes from an address, each a request of the hub. -/
def poolMeterSpan (s : State) (pa n : Nat) : State :=
  (rangeFrom (lineOf pa) (ceilDiv (pa % 64 + n) 64)).foldl (fun s l => poolMeter s (64 * l)) s

/-- R157: the live range an address lies in. -/
def liveRange (s : State) (pa : Nat) : Option Range :=
  s.mem.ranges.find? fun r => decide (r.base ≤ pa) && decide (pa < r.base + r.len)

/-- A write of bytes within one line as home applies it (R76, R92, R94, R164): the cause of an error, or none. A full-line write
carries a descriptor; a partial one leaves it. -/
def homeApply (s : State) (pa : Nat) (mask : Word) (bytes : Rec512) (desc : Option (BitVec 16)) : State × Option (BitVec 8) :=
  match homeKey s (64 * lineOf pa) with
  | none => (s, some cFABRIC)
  | some key =>
    if versionedAt s pa then (s, some cFABRIC)
    else if poolLost s pa then (s, some cPOISON)
    else if memPoison s.mem key && mask != BitVec.allOnes 64 then (s, some cPOISON)
    else
      let old := ofBytes 512 (memBytes s.mem key 64)
      let m := putBytes s.mem key (toBytes (maskLine mask bytes old) 64)
      let m := if memPoison s.mem key then putDesc (putPoison m key false) key (desc.getD 0)
               else match desc with
                 | some d => if isPool pa then m else putDesc m key d
                 | none => m
      (invalidateSharers (s.setMem m) pa, none)

/-- R149, R150, R163: every FULL and IOC copy of a line leaves the directory, and every slice's copy of a remote line goes. -/
def dirDrop (s : State) (line : Nat) : State :=
  s.setMem { s.mem with
    dir := s.mem.dir.filter fun h => !sameLine s h.line line
    rem := s.mem.rem.filter fun x => x.line != line }

/-- Has an NCF line anything that home lacks? -/
def NcfLine.owes (x : NcfLine) : Bool := x.dirty != 0 || x.descDirty

/-- An NCF line once its write-back is answered: clean; a refusal discards the bytes (R382), so the slice no longer holds them. -/
def NcfLine.settled (x : NcfLine) (refused : Bool) : NcfLine :=
  { x with
    dirty := 0, descDirty := false, held := if refused then x.held &&& ~~~ x.dirty else x.held, valid := x.valid && !refused }

/-- R138: a descriptor alone is written home: peers that share the region are told, a poisoned or pool line keeps what it has. -/
def homeDesc (s : State) (pa : Nat) (d : BitVec 16) : State × Option (BitVec 8) :=
  match homeKey s pa with
  | none => (s, some cFABRIC)
  | some k => if isPool pa || memPoison s.mem k then (s, none) else (invalidateSharers (s.setMem (putDesc s.mem k d)) pa, none)

/-- R152: home merges an NCF line's dirty bytes, after recalling and invalidating every FULL and IOC copy; the slice keeps it clean. A
line that owes nothing, and one that home refuses, leave the other holders as they are. -/
def ncfMerge (s : State) (x : NcfLine) : State × Option (BitVec 8) :=
  let pa := 64 * x.line
  let refused := homeRefuses s x.part pa
  let keep := s.setMem { s.mem with
    ncf := s.mem.ncf.map fun y => if y.site = x.site ∧ y.slice = x.slice ∧ y.line = x.line then x.settled refused else y }
  if !x.owes then (s, none)
  else if refused then (keep, some cFABRIC)
  else
    let s := dirDrop keep x.line
    let full := x.dirty == BitVec.allOnes 64
    let poisoned := match homeKey s pa with
      | some k => memPoison s.mem k
      | none => false
    if poolLost s pa then (satAddHub s 0x790 0 32 1, none)
    else if full && poisoned then homeApply s pa x.dirty x.bytes (some (if x.descDirty then x.desc else 0))
    else if poisoned then (s, none)
    else if x.dirty = 0 then homeDesc s pa x.desc
    else homeApply s pa x.dirty x.bytes (if x.descDirty then some x.desc else none)

/-- Merges a list of NCF lines, in order. -/
def ncfMergeAll (s : State) : List NcfLine → State
  | [] => s
  | x :: r => ncfMergeAll (ncfMerge s x).1 r

/-- Ascending agent, then slice (R161). -/
def partialBefore (a b : Partial) : Bool := a.agent < b.agent || (a.agent == b.agent && a.slice ≤ b.slice)

/-- Inserts a partial in gather order. -/
def insPartial (x : Partial) : List Partial → List Partial
  | [] => [x]
  | y :: r => if partialBefore x y then x :: y :: r else y :: insPartial x r

/-- The partials of a line in gather order. -/
def sortPartials : List Partial → List Partial
  | [] => []
  | x :: r => insPartial x (sortPartials r)

/-- Element `i` of width `w` bytes of a line, as a number. -/
def elemAt (x : Rec512) (w i : Nat) : Nat := fieldNat x (8 * w * i) (8 * w)

/-- A line with element `i` of width `w` bytes replaced. -/
def setElem (x : Rec512) (w i v : Nat) : Rec512 := setField x (8 * w * i) (8 * w) v

/-- R161, step 3: every touched element of a partial combined into the line. -/
def combineLine (fmt : RFmt) (op : ROp) (x : Rec512) (p : Partial) : Rec512 :=
  let w := rfmtBytes fmt
  (rangeFrom 0 (64 / w)).foldl (fun y i => if bitAt p.touched i then setElem y w i (combineR fmt op (elemAt y w i) (elemAt p.bytes w i)) else y) x

/-- R161: gathers one line of a live range at home. -/
def gatherLine (s : State) (line : Nat) : State :=
  let s := ncfMergeAll s (s.mem.ncf.filter fun x => x.line == line && x.owes)
  let ps := sortPartials (s.mem.partials.filter fun p => p.line == line)
  let s' := s.setMem { s.mem with partials := s.mem.partials.filter fun p => p.line != line,
                                  dir := s.mem.dir.filter fun h => h.line != line }
  match liveRange s (64 * line), homeKey s (64 * line) with
  | some r, some key =>
    if ps.isEmpty || memPoison s.mem key then s'
    else
      let old := ofBytes 512 (memBytes s.mem key 64)
      let v := ps.foldl (combineLine r.fmt r.op) old
      invalidateSharers (s'.setMem (putBytes s'.mem key (toBytes v 64))) (64 * line)
  | _, _ => s'

/-- Gathers a line if it lies in a live range. -/
def gatherIfLive (s : State) (pa : Nat) : State :=
  if (liveRange s pa).isSome then gatherLine s (lineOf pa) else s

/-- R90, R161: the hub asks for `n` lines from a physical address: pool lines are metered, those of live ranges gathered first. -/
def gatherSpan (s : State) (pa : Nat) : Nat → State
  | 0 => s
  | n + 1 => gatherSpan (gatherIfLive (poolMeter s pa) pa) (pa + 64) n

/-- A read of bytes within one line at home: the bytes, or the cause of a late fault (R76, R94, R150). -/
def homeRead (s : State) (pa n : Nat) : State × Except (BitVec 8) (List Byte) :=
  let s := gatherIfLive s pa
  match homeKey s pa with
  | none => (s, .error cFABRIC)
  | some key =>
    if poolLost s pa then (satAddHub s 0x790 32 32 1, .error cPOISON)
    else if memPoison s.mem key then (s, .error cPOISON)
    else (s, .ok (memBytes s.mem key n))

/-- A write of bytes within one line at home by the hub, an engine of the hub, or a core whose write goes through. -/
def homeWrite (s : State) (pa : Nat) (bs : List Byte) (desc : Option (BitVec 16)) : State × Option (BitVec 8) :=
  homeApply (gatherIfLive s pa) pa (byteMask pa bs.length) (placeBytes pa bs) desc

/-- Words written at home one after another, with every cached copy dropped. -/
def hubWords (s : State) (pa : Nat) : List Word → State
  | [] => s
  | w :: r => hubWords (homeWrite (dirDrop s (lineOf pa)) pa (toBytes w 8) none).1 (pa + 8) r

/-- A write of the hub over one or several lines, pool lines metered (R90). -/
def hubWrite (s : State) (pa : Nat) (ws : List Word) : State := hubWords (poolMeterSpan s pa (8 * ws.length)) pa ws

/-- Reads of the hub, 8 bytes at a time, of lines already gathered (`gatherSpan`), up to one that cannot be read. -/
def hubRead (s : State) (pa : Nat) : Nat → State × Except (BitVec 8) (List Word)
  | 0 => (s, .ok [])
  | n + 1 =>
    match homeRead s pa 8 with
    | (s, .error c) => (s, .error c)
    | (s, .ok bs) =>
      match hubRead s (pa + 8) n with
      | (s, .ok r) => (s, .ok (ofBytes 64 bs :: r))
      | (s, .error c) => (s, .error c)

/-- The byte at a physical address as home holds it, a gather's partials apart: what a read of one byte meets. -/
def physByte (s : State) (pa : Nat) : Byte :=
  match homeKey s pa with
  | some key => Sparse.get byte0 s.mem.bytes key
  | none => 0

/-! ### The event arbiter (R32 to R34) -/

/-- The registers of an event ring: 0 to 15 by partition, 16 the operating system's. -/
def ringBase (ring : Nat) : Nat := if ring < 16 then 0x6800 + 32 * ring else 0x6A00

/-- The base address a ring's BASE register holds. -/
def ringAddr (s : State) (base : Nat) : Nat := hubF s base 12 40 * 4096
/-- The number of entries. -/
def ringEntries (s : State) (base : Nat) : Nat := 2 ^ hubF s (base + 8) 0 4
/-- The consumer's index. -/
def ringHead (s : State) (base : Nat) : Nat := hubF s (base + 0x10) 0 32
/-- The producer's index. -/
def ringTail (s : State) (base : Nat) : Nat := hubF s (base + 0x18) 0 32
/-- R82. -/
def ringEmpty (s : State) (base : Nat) : Bool := ringHead s base == ringTail s base
/-- R82. -/
def ringFull (s : State) (base : Nat) : Bool := (ringTail s base + 2 ^ 32 - ringHead s base) % 2 ^ 32 == ringEntries s base
/-- The physical address of entry `i` of a ring with entries of `sz` bytes. -/
def ringEntry (s : State) (base sz i : Nat) : Nat := ringAddr s base + sz * (i % ringEntries s base)

/-- R254: sets the event flags of a partition's packs and control contexts, resident and saved. -/
def setPartFlags (s : State) (ring : Nat) : State :=
    { s with
      ctxs := s.ctxs.map fun x =>
        if x.2.live ∧ x.2.part = some ring ∧ (kindOf x.1 = .pack ∨ kindOf x.1 = .ctl) then (x.1, { x.2 with evt := true }) else x
      saved := s.saved.map fun v => if v.part = ring ∧ !v.host then { v with ctx := { v.ctx with evt := true } } else v }

/-- R254: sets the event flag of every host core: of the context it runs, and of what it holds while it runs a host thread. -/
def setHostFlags (s : State) : State :=
  let s := (rangeFrom 0 64).foldl (fun t c => t.setCtx (unitId c 0) { t.ctx (unitId c 0) with evt := true }) s
  { s with former := s.former.map fun x => (x.1, { x.2 with evt := true }) }

/-- R254: sets the event flags an event record's ring names. -/
def setRingFlags (s : State) (ring : Nat) : State := if ring < 16 then setPartFlags s ring else setHostFlags s

/-- Writes one record at a ring's TAIL and advances it. -/
def writeRecord (s : State) (ring : Nat) (r : EventRec) : State :=
  let b := ringBase ring
  let pa := ringEntry s b 32 (ringTail s b)
  let s := hubWrite s pa [field r 0 64, field r 64 64, field r 128 64, field r 192 64]
  setRingFlags (setHubF s (b + 0x18) 0 32 (ringTail s b + 1)) ring

/-- Can a record be written now? -/
def ringReady (s : State) (ring : Nat) : Bool := ringAddr s (ringBase ring) != 0 && !ringFull s (ringBase ring)

/-- R34: buffered records are written as room appears. -/
def drainRing (s : State) (ring : Nat) : Nat → State
  | 0 => s
  | n + 1 =>
    match Sparse.get (fun _ => []) s.evbuf ring with
    | [] => s
    | r :: rest =>
      if ringReady s ring then
        drainRing (writeRecord { s with evbuf := Sparse.set s.evbuf ring rest } ring r) ring n
      else s

/-- R34: writes a record into its ring, buffers it, or drops it. -/
def deliverRecord (r : EventRec) (s : State) (ring : Nat) : State :=
  let buf := Sparse.get (fun _ => []) s.evbuf ring
  if buf.isEmpty && ringReady s ring then writeRecord s ring r
  else if buf.length < 64 then { s with evbuf := Sparse.set s.evbuf ring (buf ++ [r]) }
  else satAddHub s (ringBase ring + 8) 32 16 1

/-- R32: events of one hub cycle are numbered in ascending agent number: one that follows a higher agent's comes a cycle later
(log 45). -/
def eventCycle (s : State) (agent : Nat) : State :=
  let c := if s.lastEvent.1 = s.cycles ∧ agent < s.lastEvent.2 then s.cycles + 1 else s.cycles
  { s with cycles := c, lastEvent := (c, agent) }

/-- R32, R33: numbers an event and delivers its record to rings. -/
def presentTo (s : State) (rings : List Nat) (kind : Nat) (agent : Nat) (cause : BitVec 8) (p : Option Nat) (q : Nat) (arg : Word) : State :=
  let s := eventCycle s agent
  let lo : BitVec 64 := BitVec.ofNat 64 (kind % 256 + 256 * agent + 2 ^ 16 * cause.toNat + 2 ^ 24 * (p.getD 0) + 2 ^ 28 * q)
  let r : EventRec := arg ++ lo ++ BitVec.ofNat 64 s.hubTime ++ BitVec.ofNat 64 s.seq
  rings.foldl (deliverRecord r) { s with seq := s.seq + 1 }

/-- R33: an event of a partition goes to its ring, any other to the operating system's. -/
def presentEvent (s : State) (kind : Nat) (agent : Nat) (cause : BitVec 8) (p : Option Nat) (q : Nat) (arg : Word) : State :=
  presentTo s [p.getD 16] kind agent cause p q arg

/-! ### Access counting (R84, R85) -/

/-- R84: where the counter of a granule and agent stands. -/
def counterAddr (s : State) (pa agent : Nat) : Nat :=
  let base := hubF s 0x708 28 24 * 2 ^ 28
  let tier := if pa < 2 ^ 40 then 0 else 1
  base + (tier * 2 ^ 24 + pa % 2 ^ 40 / 65536) * 8 + (agent - 1)

/-- R85: a promotion request is posted, or dropped and counted. -/
def postPromotion (s : State) (pa agent count : Nat) : State :=
  let g := pa / 65536 * 65536
  if ringFull s 0x720 then satAddHub s 0x700 32 16 1
  else
    let e := ringEntry s 0x720 16 (ringTail s 0x720)
    let s := hubWrite s e [BitVec.ofNat 64 g, BitVec.ofNat 64 (agent + 256 * count)]
    let s := setHubF s 0x738 0 32 (ringTail s 0x720 + 1)
    presentEvent s 1 0 0 none 0 (BitVec.ofNat 64 e)

/-- R84, R85, R90: counts a request of agents 1 to 8 that reaches home for a line of an enabled set; a pool request is metered. The peers
that share a counter are told (R164). A request to a forwarded source line counts at the source's granule and tier, the address it was made
to: R84 and R87 do not say which (log 48). -/
def countAccess (s : State) (agent pa : Nat) : State :=
  let s := poolMeter s pa
  if hubF s 0x700 0 1 = 1 ∧ 1 ≤ agent ∧ agent ≤ 8 ∧ (setOf s pa).isSome then
    match homeKey s (counterAddr s pa agent) with
    | none => s
    | some key =>
      let old := (Sparse.get byte0 s.mem.bytes key).toNat
      let new := min (old + 1) 255
      let s := invalidateSharers (s.setMem (putBytes s.mem key [BitVec.ofNat 8 new])) (counterAddr s pa agent)
      let up := hubF s 0x700 8 8
      if hubF s 0x700 1 1 = 1 ∧ 2 ^ 40 ≤ pa ∧ up ≠ 0 ∧ old < up ∧ new = up ∧ !s.mem.promoted.contains (pa / 65536, agent) then
        postPromotion (s.setMem { s.mem with promoted := (pa / 65536, agent) :: s.mem.promoted }) pa agent new
      else s
  else s

/-! ### The directory and the caches -/

/-- R147: the slice of a set that an address goes to. -/
def hashSlice (slices : List Nat) (pa : Nat) : Option Nat :=
  let h := (pa / 64 % 65536) ^^^ (pa / 2 ^ 22 % 65536) ^^^ (pa / 2 ^ 38 % 16384)
  if slices.isEmpty then none else some (slices.getD (h * slices.length / 65536) 0)

/-- R147, R148: the slice a partition's request uses on a die; every one of the 16 for a host core. -/
def sliceFor (s : State) (site : Nat) (p : Option Nat) (pa : Nat) : Option Nat :=
  if site = 0 then hashSlice (rangeFrom 0 16) pa
  else hashSlice (bitsOf (s.winR site (0x100000 + 8 * p.getD 0)).toNat 64) pa

/-- R390: the slice of the former set, where a lookup tries it second. -/
def oldSliceFor (s : State) (site : Nat) (p : Option Nat) (pa : Nat) : Option Nat :=
  if site = 0 then none else hashSlice (bitsOf (s.winR site (0x100080 + 8 * p.getD 0)).toNat 64) pa

/-- A holder's line once its slice has written it home and kept it (R150). -/
def Holder.written (h : Holder) : Holder := { h with st := if h.st = .m then .e else if h.st = .o then .s else h.st }

/-- R84, R90, R94: a slice writes a line home, as a request of its chiplet; home holds its bytes already. One to a lost line is counted. -/
def writeLineHome (s : State) (h : Holder) : State :=
  let s := countAccess s h.agent (64 * h.line)
  if poolLost s (64 * h.line) then satAddHub s 0x790 0 32 1 else s

/-- The M and O lines among some holders are written home. -/
def writeOwned (s : State) : List Holder → State
  | [] => s
  | h :: r => writeOwned (if h.st = .m ∨ h.st = .o then writeLineHome s h else s) r

/-- R84, R90, R152: an NCF line's write-back reaches home as a request of its chiplet. -/
def ncfReturn (s : State) (x : NcfLine) : State × Option (BitVec 8) :=
  if x.owes then ncfMerge (countAccess s (x.site + 1) (64 * x.line)) x else (s, none)

/-- R382: a write-back by eviction, drain, reset or Rehang; home's refusal drops the bytes and presents an error event. -/
def ncfWriteBack (s : State) (x : NcfLine) : State :=
  match ncfReturn s x with
  | (s, some c) => if c = cFABRIC then presentEvent s 4 (x.site + 1) c x.part 0 (BitVec.ofNat 64 (64 * x.line)) else s
  | (s, none) => s

/-- Removes an NCF line. -/
def ncfErase (s : State) (site slice line : Nat) : State :=
  s.setMem { s.mem with ncf := s.mem.ncf.filter fun y => !(y.site == site && y.slice == slice && y.line == line) }

/-- R144: the lines that a slice of 6 MiB holds at most. -/
def sliceLines : Nat := 98304

/-- The lines a slice holds: of its class's own kind, copies of remote lines (R163), partials (R160). -/
def sliceHeld (s : State) (site slice : Nat) : List Nat :=
  (if cohClass s site = 2 then (s.mem.ncf.filter fun x => x.site == site && x.slice == slice).map (·.line)
   else (s.mem.dir.filter fun h => h.agent == site + 1 && h.slice == slice).map (·.line)) ++
  (s.mem.rem.filter fun x => x.site == site && x.slice == slice).map (·.line) ++
  (s.mem.partials.filter fun x => x.agent == site + 1 && x.slice == slice).map (·.line)

/-- R150, R161: a slice evicts a line: an NCF line's dirty bytes and an owned line are written home, a copy leaves the directory, a
partial of a live range is gathered. -/
def sliceEvict (s : State) (site slice line : Nat) : State :=
  let mine (h : Holder) : Bool := h.agent == site + 1 && h.slice == slice && h.line == line
  let part (x : Partial) : Bool := x.agent == site + 1 && x.slice == slice && x.line == line
  let s := if cohClass s site = 2 then
      (s.mem.ncf.filter fun x => x.site == site && x.slice == slice && x.line == line).foldl
        (fun s x => ncfErase (ncfWriteBack s x) x.site x.slice x.line) s
    else writeOwned s (s.mem.dir.filter mine)
  let s := s.setMem { s.mem with
    dir := s.mem.dir.filter fun h => !mine h
    rem := s.mem.rem.filter fun x => !(x.site == site && x.slice == slice && x.line == line) }
  if !s.mem.partials.any part then s
  else if (liveRange s (64 * line)).isSome then gatherLine s line
  else s.setMem { s.mem with partials := s.mem.partials.filter fun x => !part x }

/-- R144: a slice makes room for a line: a full one evicts another; which, is not stated (log 4). -/
def sliceRoom (s : State) (site slice line : Nat) : State :=
  let held := sliceHeld s site slice
  if held.length < sliceLines || held.contains line then s
  else sliceEvict s.takeFree site slice (held.getD (Config.choice s.free % held.length) 0)

/-- R150: a FULL or IOC holder reads: M and O copies are recalled, and the line arrives E or S. -/
def dirRead (s : State) (agent slice line : Nat) : State :=
  if s.mem.dir.any fun h => h.line == line && h.agent == agent && h.slice == slice then s
  else
    let s := sliceRoom s (agent - 1) slice line
    let others := s.mem.dir.any fun h => sameLine s h.line line
    s.setMem { s.mem with
      dir := ⟨agent, slice, line, if others then .s else .e⟩ ::
        s.mem.dir.map fun h => if sameLine s h.line line then { h with st := .s } else h }

/-- R150: a FULL holder obtains M; every other copy is invalidated. -/
def dirWrite (s : State) (agent slice line : Nat) : State :=
  let s := sliceRoom s (agent - 1) slice line
  s.setMem { s.mem with dir := ⟨agent, slice, line, .m⟩ :: s.mem.dir.filter fun h => !sameLine s h.line line }

/-- R150: an IOC write goes through: every other holder is invalidated, and the slice keeps its copy. -/
def dirThrough (s : State) (agent slice line : Nat) : State :=
  s.setMem { s.mem with
    dir := s.mem.dir.filter fun h => !sameLine s h.line line || (h.line == line && h.agent == agent && h.slice == slice) }

/-- R150: home recalls M and O copies for a reader it does not record. -/
def dirRecall (s : State) (line : Nat) : State :=
  s.setMem { s.mem with dir := s.mem.dir.map fun h => if sameLine s h.line line ∧ (h.st = .m ∨ h.st = .o) then { h with st := .s } else h }

/-- A partition that issues at a port is active in the next period. -/
def Port.note (x : Port) (q : Nat) : Port := { x with active := if x.active.contains q then x.active else q :: x.active }

/-- R167: a request of a partition takes a token of its bucket, or borrows from the pool; none where it must wait. -/
def Port.take (x : Port) (q : Nat) : Option Port :=
  let b := Sparse.get (fun _ => 0) x.bucket q
  let al := Sparse.get (fun _ => 0) x.allow q
  if 1 ≤ b then some { x with bucket := Sparse.set x.bucket q (b - 1) }
  else if 1 ≤ al ∧ 1 ≤ x.pool then some { x with pool := x.pool - 1, allow := Sparse.set x.allow q (al - 1) }
  else none

/-- R167: a request takes a token of its partition's bucket at its slice port, borrows from the pool, or is counted as waiting and
served in a later period (log 18). -/
def meter (s : State) (site slice : Nat) (p : Option Nat) : State :=
  if site = 0 then s
  else
    let q := p.getD 0
    let d := s.die site
    let port := (Sparse.get (fun _ => ({} : Port)) d.ports slice).note q
    let exempt := fieldNat (s.winR site (0x100100 + 8 * q)) 0 16 == 0xFFFF
    let port := if exempt then port else (port.take q).getD { port with waiting := Sparse.set port.waiting q (Sparse.get (fun _ => 0) port.waiting q + 1) }
    s.setDie site { d with ports := Sparse.set d.ports slice port }

/-- R148, R167: writes L2SET; the bucket of a partition that comes to take part, or ceases to, holds 0. -/
def setL2 (s : State) (site p : Nat) (v : Word) : State :=
  let old := s.winR site (0x100000 + 8 * p)
  let s := s.setWin site (0x100000 + 8 * p) v
  if old != 0 && v != 0 then s
  else
    let d := s.die site
    s.setDie site { d with ports := d.ports.map fun x => (x.1, { x.2 with bucket := Sparse.erase x.2.bucket p }) }

/-- The L1 line a core holds (R145); an L1 may have dropped it (log 7). -/
def l1Find (m : Mem) (core line : Nat) : Option L1Line := m.l1.find? fun x => x.core == core && x.line == line

/-- Discards the L1 lines of a core that `f` names. -/
def l1Drop (s : State) (core : Nat) (f : Nat → Bool) : State :=
  s.setMem { s.mem with l1 := s.mem.l1.filter fun x => !(x.core == core && f x.line) }

/-- R145: discards every L1 line of a clean-only L1. -/
def l1Clear (s : State) (core : Nat) : State := if core < Config.simtBase then s else l1Drop s core fun _ => true

/-- R145: a store updates the L1 copy in the bytes it writes. -/
def l1Update (s : State) (core pa : Nat) (bs : List Byte) : State :=
  s.setMem { s.mem with
    l1 := s.mem.l1.map fun x =>
      if x.core = core ∧ x.line = lineOf pa then { x with bytes := maskLine (byteMask pa bs.length) (placeBytes pa bs) x.bytes } else x }

/-- The NCF line of a slice. -/
def ncfFind (m : Mem) (site slice line : Nat) : Option NcfLine :=
  m.ncf.find? fun x => x.site == site && x.slice == slice && x.line == line

/-- Replaces or adds an NCF line. -/
def ncfPut (s : State) (x : NcfLine) : State :=
  let s := sliceRoom s x.site x.slice x.line
  s.setMem { s.mem with ncf := x :: s.mem.ncf.filter fun y => !(y.site == x.site && y.slice == x.slice && y.line == x.line) }

/-! ### One access -/

/-- Who makes an access and how. -/
structure Req where
  u : Nat
  /-- the partition its requests carry -/
  part : Option Nat
  /-- no L1 takes part: an engine's access, or the read of an atomic -/
  engine : Bool := false
  /-- an `LDL`'s (R339) -/
  ldl : Bool := false
  /-- at a scope of package or system extent (R207, R208) -/
  wide : Bool := false
  /-- an atomic's -/
  atom : Bool := false
  /-- its page is a device page (R218) -/
  dev : Bool := false
  /-- it wants the line's descriptor too -/
  desc : Bool := false
  /-- the second half of an atomic: its port token is taken (R167) -/
  paid : Bool := false
  /-- the second half of an atomic that has reached home -/
  again : Bool := false
  deriving DecidableEq, Repr

/-- The site of a request. -/
def Req.site (r : Req) : Nat := siteOfCore (coreOf r.u)

/-- Does the request use an L1 (R144, R218)? -/
def Req.usesL1 (r : Req) : Bool := !r.engine && !r.dev && decide (Config.simtBase ≤ coreOf r.u)

/-- R207, R208, R218: is an access performed at home? On an NCF die, one of package or system extent; on a FULL die, an atomic of such an
extent; on an IOC die, every atomic; anywhere, an atomic on a pool line. -/
def Req.atHome (r : Req) (s : State) (pa : Nat) : Bool :=
  (r.site != 0 && ((r.wide && (r.atom || cohClass s r.site == 2)) || (r.atom && cohClass s r.site == 1))) || (r.atom && isPool pa)

/-- R167: takes a request's token at its slice port. -/
def meterReq (s : State) (r : Req) (sl : Nat) : State := if r.paid then s else meter s r.site sl r.part

/-- R167: a request to memory takes its token where its slice's port is, whatever becomes of it there. A device page's bypasses every cache
(R218), and so does that of a core without a slice set (R147). -/
def takeToken (s : State) (r : Req) (pa : Nat) : State :=
  match (if r.dev then none else sliceFor s r.site r.part pa) with
  | some sl => meterReq s r sl
  | none => s

/-- What a line read meets: its bytes, descriptor, or the cause of a late fault. -/
abbrev LineRead := State × Except (BitVec 8) (Rec512 × BitVec 16)

/-- A whole line at home with its descriptor (R150). -/
def homeLine (s : State) (pa : Nat) : LineRead :=
  match homeRead s (64 * lineOf pa) 64 with
  | (s, .error c) => (s, .error c)
  | (s, .ok bs) =>
    match homeKey s (64 * lineOf pa) with
    | some key => (s, .ok (ofBytes 512 bs, if isPool pa then 0 else memDesc s.mem key))
    | none => (s, .error cFABRIC)

/-- A request reaches home: ownership (R382) and counting (R84). -/
def atHome (s : State) (r : Req) (pa : Nat) : State × Bool :=
  if r.again then (s, false) else (countAccess s (r.site + 1) pa, homeRefuses s r.part pa)

/-- R150: does the slice of a request hold the line, in one of the states `f` names? A hit sends nothing to home. -/
def sliceHolds (s : State) (r : Req) (pa : Nat) (f : Moesi → Bool) : Bool :=
  match sliceFor s r.site r.part pa with
  | some sl => s.mem.dir.any fun h => h.line == lineOf pa && h.agent == r.site + 1 && h.slice == sl && f h.st
  | none => false

/-- R150: a FULL slice writes a line it holds in M or E without a message to home. -/
def exclusive : Moesi → Bool
  | .m | .e => true
  | .o | .s => false

/-- A read miss answered by home for a request that caches nothing, after a recall of any M or O copy. -/
def homeLineFor (s : State) (r : Req) (pa : Nat) : LineRead :=
  match atHome s r pa with
  | (s, true) => (s, .error cFABRIC)
  | (s, false) => homeLine (dirRecall s (lineOf pa)) pa

/-- R147, R390: where a lookup finds a line only in its former slice: none where there is no former slice, or the new one is it. The new
slice is none where the planned set of the die is empty. -/
def formerSlice (s : State) (site : Nat) (p : Option Nat) (pa : Nat) : Option Nat :=
  match oldSliceFor s site p pa with
  | none => none
  | some old => if sliceFor s site p pa = some old then none else some old

/-- R390, step 3: a line found only in its former slice moves to its new slice, which makes room for it (R144), with its data, masks and
state; a partial is gathered. Where the planned set is empty, the former slice writes the line back and drops it. -/
def rehashLine (s : State) (site : Nat) (p : Option Nat) (pa : Nat) : State :=
  match formerSlice s site p pa with
  | none => s
  | some old =>
    let line := lineOf pa
    match sliceFor s site p pa with
    | none => sliceEvict s site old line
    | some new =>
      let s :=
        if s.mem.partials.any fun x => x.agent == site + 1 && x.slice == old && x.line == line then gatherLine s line else s
      let s := if (sliceHeld s site old).contains line then sliceRoom s site new line else s
      let had := s.mem.ncf.any fun x => x.site == site && x.slice == new && x.line == line
      let ncf :=
        if had then s.mem.ncf.filter fun x => !(x.site == site && x.slice == old && x.line == line && !x.owes)
        else s.mem.ncf.map fun x => if x.site = site ∧ x.slice = old ∧ x.line = line then { x with slice := new } else x
      let hadDir := s.mem.dir.any fun h => h.agent == site + 1 && h.slice == new && h.line == line
      let dir :=
        if hadDir then s.mem.dir.filter fun h => !(h.agent == site + 1 && h.slice == old && h.line == line)
        else s.mem.dir.map fun h => if h.agent = site + 1 ∧ h.slice = old ∧ h.line = line then { h with slice := new } else h
      let rem := s.mem.rem.filterMap fun x =>
        if x.site = site ∧ x.slice = old ∧ x.line = line then
          (if s.mem.rem.any fun y => y.site == site && y.slice == new && y.line == line then none else some { x with slice := new })
        else some x
      s.setMem { s.mem with ncf := ncf, dir := dir, rem := rem }

/-- The line an NCF die's slice holds for a partition. -/
def ncfLookup (s : State) (site : Nat) (p : Option Nat) (pa : Nat) : Option NcfLine :=
  match sliceFor s site p pa with
  | none => none
  | some sl => ncfFind s.mem site sl (lineOf pa)

/-- Does an NCF line hold a line's descriptor as well as its bytes? -/
def NcfLine.knows (x : NcfLine) : Bool := x.valid || x.descDirty

/-- R151: does a slice answer a request for the bytes of `need` from what it holds? -/
def NcfLine.answers (x : NcfLine) (r : Req) (need : Word) : Bool := need &&& ~~~ x.held == 0 && (x.knows || !r.desc)

/-- A line read through an NCF slice (R151): held bytes are answered from the slice; others fetch the line, fill every byte whose
dirty bit is clear, and set the valid bit. `need` is the mask of the bytes wanted. -/
def ncfLine (s : State) (r : Req) (pa : Nat) (need : Word) : LineRead :=
  match sliceFor s r.site r.part pa with
  | none => homeLineFor s r pa
  | some sl =>
    match ncfLookup s r.site r.part pa with
    | some x =>
      if x.answers r need then (s, .ok (x.bytes, x.desc))
      else
        match homeLineFor s r pa with
        | (s, .error c) => (s, .error c)
        | (s, .ok (h, d)) =>
          let y := { x with bytes := maskLine x.dirty x.bytes h, held := BitVec.allOnes 64, valid := true, desc := if x.descDirty then x.desc else d }
          (ncfPut s y, .ok (y.bytes, y.desc))
    | none =>
      match homeLineFor s r pa with
      | (s, .error c) => (s, .error c)
      | (s, .ok (h, d)) =>
        (ncfPut s { site := r.site, slice := sl, line := lineOf pa, bytes := h, held := BitVec.allOnes 64, dirty := 0, valid := true,
                    desc := d, descDirty := false, part := r.part }, .ok (h, d))

/-- Takes a line out of an NCF slice before an access is performed at home (R207): written back, then invalidated. -/
def ncfEvict (s : State) (r : Req) (pa : Nat) : State × Option (BitVec 8) :=
  match ncfLookup s r.site r.part pa with
  | none => (s, none)
  | some x =>
    match ncfReturn s x with
    | (s, c) => (ncfErase s x.site x.slice x.line, c)

/-- The copy of a remote line in a slice. -/
def remFind (m : Mem) (site slice line : Nat) : Option RemLine :=
  m.rem.find? fun x => x.site == site && x.slice == slice && x.line == line

/-- R163, R201: a remote line is read through a slice, which keeps a clean copy, whatever the die's class; an atomic reads its home package,
and a copy the slice holds is that line then. -/
def remoteLine (s : State) (r : Req) (pa : Nat) : LineRead :=
  match sliceFor s r.site r.part pa with
  | none => homeLineFor s r pa
  | some sl =>
    match (if r.atom then none else remFind s.mem r.site sl (lineOf pa)) with
    | some x => (s, .ok (x.bytes, x.desc))
    | none =>
      match homeLineFor s r pa with
      | (s, .error c) => (s, .error c)
      | (s, .ok (h, d)) =>
        if r.atom then
          (s.setMem { s.mem with
            rem := s.mem.rem.map fun x => if x.site = r.site ∧ x.slice = sl ∧ x.line = lineOf pa then { x with bytes := h, desc := d } else x },
            .ok (h, d))
        else
          let s := sliceRoom s r.site sl (lineOf pa)
          (s.setMem { s.mem with rem := ⟨r.site, sl, lineOf pa, h, d⟩ :: s.mem.rem }, .ok (h, d))

/-- R163, R204: after a write to a remote line the writing slice keeps its copy, as `f` makes it; no other copy of the package stays
(log 46). -/
def remoteWritten (s : State) (r : Req) (pa : Nat) (f : RemLine → Option RemLine) : State :=
  let keep (x : RemLine) : Option RemLine :=
    if x.line ≠ lineOf pa then some x
    else if x.site = r.site ∧ sliceFor s r.site r.part pa = some x.slice then f x
    else none
  s.setMem { s.mem with rem := s.mem.rem.filterMap keep }

/-- R150, R208: home invalidates the copies of a line it writes; the slice of an IOC die that asked keeps its own. -/
def dropOthers (s : State) (r : Req) (pa : Nat) : State :=
  match (if cohClass s r.site = 1 then sliceFor s r.site r.part pa else none) with
  | some sl => dirThrough s (r.site + 1) sl (lineOf pa)
  | none => dirDrop s (lineOf pa)

/-- R201: an access that passes the caches by leaves its core and its slice no clean copy that a later read could find older bytes in. -/
def forgetCopies (s : State) (r : Req) (pa : Nat) : State :=
  let s := l1Drop s (coreOf r.u) fun l => sameLine s l (lineOf pa)
  s.setMem { s.mem with rem := s.mem.rem.filter fun x => !(x.site == r.site && x.line == lineOf pa) }

/-- A line read below the L1: through the die L2 by its coherence class (R150, R163), or at home for a device page, a line of a live range
or an access that is performed there. -/
def l2Line (s : State) (r : Req) (pa : Nat) (need : Word) : LineRead :=
  let site := r.site
  let s := takeToken (rehashLine s site r.part pa) r pa
  if r.dev then homeLineFor (forgetCopies s r pa) r pa
  else if (liveRange s pa).isSome then homeLineFor s r pa
  else if isRemote pa then remoteLine s r pa
  else if r.atHome s pa then
    match ncfEvict s r pa with
    | (s, some c) => (s, .error c)
    | (s, none) => homeLineFor (forgetCopies (if r.atom then dropOthers s r pa else s) r pa) r pa
  else if cohClass s site = 2 then ncfLine s r pa need
  else
    match sliceFor s site r.part pa with
    | none => homeLineFor s r pa
    | some sl =>
      if sliceHolds s r pa (fun _ => true) then homeLine s pa
      else
        match homeLineFor s r pa with
        | (s, .ok x) => (dirRead s (site + 1) sl (lineOf pa), .ok x)
        | (s, .error c) => (s, .error c)

/-- R151, R382: the NCF line that answers a request for the bytes of `need` without a request to home. -/
def ncfAnswer (s : State) (r : Req) (pa : Nat) (need : Word) : Option NcfLine :=
  if cohClass s r.site = 2 ∧ !r.atHome s pa ∧ !isRemote pa then
    (match ncfLookup s r.site r.part pa with
      | some x => if x.answers r need then some x else none
      | none => none)
  else none

/-! ### The L1s (R145, R146, R339) -/

/-- R144, R146: the lines a clean-only L1 holds at most: what the carve-out leaves of 512 KiB, or 64 KiB of data. -/
def l1Lines (s : State) (c : Nat) : Nat := if c < Config.sysBase then (524288 - (s.core c).carve) / 64 else 1024

/-- How many lines a core's L1 holds. -/
def l1Count (s : State) (c : Nat) : Nat := (s.mem.l1.filter fun x => x.core == c).length

/-- R339: an L1 miss of an `LDL` that matches a victim tag raises SCORE and removes the tag. -/
def missScore (s : State) (r : Req) (line : Nat) : State :=
  let c := coreOf r.u
  let k := s.core c
  if !r.ldl || !k.victims.contains line then s
  else
    let off := 0x100200 + 8 * (c - (coresOfSite r.site).1)
    let s := s.setCore c { k with victims := k.victims.filter fun l => l != line }
    s.setWin r.site off (setField (s.winR r.site off) 0 16 (min (fieldNat (s.winR r.site off) 0 16 + 1) 65535))

/-- R339: an eviction from a SIMT core's L1 leaves its tag among the 256 latest. -/
def leaveVictim (s : State) (r : Req) (line : Nat) : State :=
  let c := coreOf r.u
  if kindOf r.u = .pack then s.setCore c { s.core c with victims := (line :: (s.core c).victims).take 256 } else s

/-- Evicts one of the lines of the requester's L1, by a number. -/
def l1Evict (s : State) (r : Req) (n : Nat) : State :=
  let c := coreOf r.u
  match (s.mem.l1.filter fun x => x.core == c)[n % l1Count s c]? with
  | some x => leaveVictim (l1Drop s c fun l => l == x.line) r x.line
  | none => s

/-- R144: an L1 may evict any line it holds at any access: whether, and which, is a free choice (log 7). -/
def l1Age (s : State) (r : Req) : State :=
  let n := Config.choice s.free
  if l1Count s (coreOf r.u) = 0 then s else if n % 2 = 0 then s.takeFree else l1Evict s.takeFree r (n / 2)

/-- R145: a load allocates a line in the L1; a full one evicts another first. -/
def l1Fill (s : State) (r : Req) (pa : Nat) (x : Rec512 × BitVec 16) : State :=
  let c := coreOf r.u
  let s := l1Drop s c fun l => l == lineOf pa
  let s := if l1Count s c < l1Lines s c then s else l1Evict s.takeFree r (Config.choice s.free)
  s.setMem { s.mem with l1 := ⟨c, lineOf pa, x.1, x.2⟩ :: s.mem.l1 }

/-- R146: discards the lines of a core's L1 that it has no room for: which, is a free choice (log 7). -/
def l1Trim (s : State) (c : Nat) : State :=
  if l1Count s c ≤ l1Lines s c then s
  else
    let mine := s.mem.l1.filter fun x => x.core == c
    let n := Config.choice s.free % mine.length
    s.takeFree.setMem { s.mem with
      l1 := (mine.drop n ++ mine.take n).take (l1Lines s c) ++ s.mem.l1.filter fun x => x.core != c }

/-- An L1 miss (R145, R218, R339): a load allocates the line it fetches. Bytes that an NCF slice answers from a part of the line allocate
nothing, nor does a line of a live range, nor any line where the carve-out leaves no L1. -/
def missLine (s : State) (r : Req) (pa : Nat) (need : Word) : LineRead :=
  let s := rehashLine (missScore s r (lineOf pa)) r.site r.part pa
  if (liveRange s pa).isSome || l1Lines s (coreOf r.u) == 0 then l2Line s r pa need
  else
    let part := (ncfAnswer s r pa need).isSome && (ncfAnswer s { r with desc := true } pa (BitVec.allOnes 64)).isNone
    if part then l2Line s r pa need
    else
      match l2Line s { r with desc := true } pa (BitVec.allOnes 64) with
      | (s, .ok x) => (l1Fill s r pa x, .ok x)
      | (s, .error c) => (s, .error c)

/-- A line read by a core or an engine: the L1 answers where it holds the line, else the die L2 or home. An access performed at home
passes the L1 by (R207, R218), which keeps no older copy of the line then (R201). -/
def readLine (s : State) (r : Req) (pa : Nat) (need : Word) : LineRead :=
  if r.usesL1 then
    let s := l1Age s r
    match (if r.atHome s pa then none else l1Find s.mem (coreOf r.u) (lineOf pa)) with
    | some x => (s, .ok (x.bytes, x.desc))
    | none => missLine s r pa need
  else l2Line s r pa need

/-! ### The memory-side cache (R79) -/

/-- R144: the lines that the memory-side cache holds at most: four dies of 512 MiB. -/
def mscLines : Nat := 33554432

/-- R79, R87: the memory-side cache sits behind home, so it knows a line by the address it is stored at. -/
def mscLine (s : State) (pa : Nat) : Nat := lineOf (forwarded s pa)

/-- R79: the memory-side cache may evict a line whenever it takes another, and must where it is full: whether, and which, is a free choice
(log 4). -/
def mscRoom (s : State) : State :=
  let n := Config.choice s.free
  if s.mem.msc = [] then s
  else if n % 2 = 0 ∧ s.mem.msc.length < mscLines then s.takeFree
  else s.takeFree.setMem { s.mem with msc := s.mem.msc.eraseIdx (n / 2 % s.mem.msc.length) }

/-- R79, R153: the memory-side cache takes a line whose home is this hub. -/
def fillMsc (s : State) (pa : Nat) : State :=
  if isRemote pa || s.mem.msc.contains (mscLine s pa) then s
  else
    let s := mscRoom s
    s.setMem { s.mem with msc := mscLine s pa :: s.mem.msc }

/-- R18, R23: the size of a site's window. -/
def windowSize (s : State) (n : Nat) : Nat := 2 ^ (s.site n).winlog

/-- The registers behind a device address: the hub's offset, a running chiplet's window offset, or nothing (R18, R19, R28). -/
inductive Dev where
  | hub (off : Nat)
  | win (site off : Nat)
  | none
  deriving DecidableEq, Repr

/-- R18, R19. -/
def devOf (s : State) (pa : Nat) : Dev :=
  if Config.hubBase ≤ pa ∧ pa < Config.hubBase + 0x10000 then .hub (pa - Config.hubBase)
  else if slotBase ≤ pa ∧ pa < slotBase + 8 * 2 ^ 40 then
    let n := (pa - slotBase) / 2 ^ 40
    let o := (pa - slotBase) % 2 ^ 40
    if siteState s n = 3 ∧ o < windowSize s n then .win n o else .none
  else .none

/-- The value a hub register reads (R24, R107, R108, R341, R354): stored, but for what the hub derives. -/
def hubRegRead (s : State) (off : Nat) : Word :=
  if off = 0x808 then BitVec.ofNat 64 s.hubTime
  else if off = 0x800 then setField (s.hubR off) 32 1 (if s.hubTime < s.mem.pendEnd then 1 else 0)
  else if off = 0x2C08 then Config.wearMax
  else if 0x4000 ≤ off ∧ off < 0x6000 then setField (s.hubR off) 16 7 (s.queue ((off - 0x4000) / 8)).length
  else s.hubR off

/-- R19: a naturally aligned load of 1 to 8 bytes of a register. -/
def devRead (s : State) (pa n : Nat) : Except (BitVec 8) (List Byte) :=
  match (if n ≤ 8 then devOf s pa else .none) with
  | .hub off => .ok (((toBytes (hubRegRead s (off / 8 * 8)) 8).drop (off % 8)).take n)
  | .win site off => .ok (((toBytes (s.winR site (off / 8 * 8)) 8).drop (off % 8)).take n)
  | .none => .error cFABRIC

/-- The part of a line from byte `i`. -/
def lineBytes (x : Rec512) (i n : Nat) : List Byte := (rangeFrom (i % 64) n).map fun k => field x (8 * k) 8

/-- One read of a core or an engine, within one line: its bytes or a late fault. A host core's caches and a device page hold no copy
that could differ from home (R144, R150), so those read home's bytes directly. -/
def physRead (s : State) (r : Req) (pa n : Nat) : State × Except (BitVec 8) (List Byte) :=
  if isDevice pa then (s, devRead s pa n)
  else if r.site = 0 ∧ (liveRange s pa).isNone ∧ !r.dev ∧ !isRemote pa ∧ !r.atHome s pa then
    if sliceHolds s r pa (fun _ => true) then homeRead s pa n
    else
      match atHome s r pa, sliceFor s 0 none pa with
      | (s, true), _ => (s, .error cFABRIC)
      | (s, false), some sl =>
        (match homeRead s pa n with
          | (s, .ok bs) => (dirRead s 1 sl (lineOf pa), .ok bs)
          | (s, .error c) => (s, .error c))
      | (s, false), none => homeRead s pa n
  else
    match readLine s r pa (byteMask pa n) with
    | (s, .ok x) => (s, .ok (lineBytes x.1 pa n))
    | (s, .error c) => (s, .error c)

/-- R150: the directory after a core's write of a line reached home: the FULL slice holds it M, an IOC slice keeps its copy, every other
holder's is invalidated. -/
def afterWrite (s : State) (r : Req) (pa : Nat) : State :=
  match sliceFor s r.site r.part pa with
  | some sl =>
    if cohClass s r.site = 0 then dirWrite s (r.site + 1) sl (lineOf pa)
    else if cohClass s r.site = 1 then dirThrough s (r.site + 1) sl (lineOf pa)
    else dirDrop s (lineOf pa)
  | none => dirDrop s (lineOf pa)

/-- A core's write asks home, unless its FULL slice may write the line without a message (R150). -/
def askHome (s : State) (r : Req) (pa : Nat) : State × Bool :=
  if cohClass s r.site = 0 && sliceHolds s r pa exclusive then (s, false) else atHome s r pa

/-- R163: a write to a remote line goes through to its home package; the writing slice keeps its copy, updated. -/
def remoteStore (s : State) (r : Req) (pa : Nat) (bs : List Byte) (desc : Option (BitVec 16)) : State × Option (BitVec 8) :=
  match homeWrite s pa bs desc with
  | (s, some c) => (s, some c)
  | (s, none) =>
    (remoteWritten s r pa fun x => some
      { x with bytes := maskLine (byteMask pa bs.length) (placeBytes pa bs) x.bytes, desc := desc.getD x.desc }, none)

/-- A write that home performs. -/
def writeAtHome (s : State) (r : Req) (pa : Nat) (bs : List Byte) (desc : Option (BitVec 16)) : State × Option (BitVec 8) :=
  match atHome s r pa with
  | (s, true) => (s, some cFABRIC)
  | (s, false) => homeWrite (dropOthers s r pa) pa bs desc

/-- One write below the L1, within one line; `desc` replaces the line's descriptor (R134). A late fault writes nothing. -/
def storeLine (s : State) (r : Req) (pa : Nat) (bs : List Byte) (desc : Option (BitVec 16)) : State × Option (BitVec 8) :=
  let line := lineOf pa
  let site := r.site
  let s := takeToken (rehashLine s site r.part pa) r pa
  if r.dev || (liveRange s pa).isSome then
    (match writeAtHome s r pa bs desc with
      | (s, some c) => (s, some c)
      | (s, none) => (remoteWritten s r pa fun _ => none, none))
  else if isRemote pa then remoteStore s r pa bs desc
  else if r.atHome s pa then
    match ncfEvict s r pa with
    | (s, some c) => (s, some c)
    | (s, none) => writeAtHome s r pa bs desc
  else if cohClass s site = 2 then
    match sliceFor s site r.part pa with
    | none => writeAtHome s r pa bs desc
    | some sl =>
      if (homeKey s pa).isNone || versionedAt s pa then (s, some cFABRIC)
      else if poolLost s pa then (s, some cPOISON)
      else
        let mask := byteMask pa bs.length
        let desc := if isPool pa then none else desc
        let x := (ncfLookup s site r.part pa).getD
          { site := site, slice := sl, line := line, bytes := 0, held := 0, dirty := 0, valid := false, desc := 0, descDirty := false, part := r.part }
        (ncfPut s { x with bytes := maskLine mask (placeBytes pa bs) x.bytes, held := x.held ||| mask, dirty := x.dirty ||| mask,
                           desc := desc.getD x.desc, descDirty := x.descDirty || desc.isSome }, none)
  else
    match askHome s r pa with
    | (s, true) => (s, some cFABRIC)
    | (s, false) =>
      match homeWrite s pa bs desc with
      | (s, some c) => (s, some c)
      | (s, none) => (afterWrite s r pa, none)

/-- One write of a core or an engine to memory, within one line. A store that is performed also updates the core's L1 copy (R145); one
that meets a late fault performs nothing (R217). -/
def physWrite (s : State) (r : Req) (pa : Nat) (bs : List Byte) (desc : Option (BitVec 16)) : State × Option (BitVec 8) :=
  match storeLine s r pa bs desc with
  | (s, none) => (if r.engine then s else l1Update s (coreOf r.u) pa bs, none)
  | (s, some c) => (s, some c)

end Sys2Proof.Machine
end

