-- ==== Sys2Proof/Machine/Trans.lean ====
section
/-! DEFINITION. Address translation (R96 to R108): the two-stage walk, the checks of R101 in the order of R102, the accessed and dirty
bits, and the table entries that TLBs and walk caches hold under leases. -/

namespace Sys2Proof.Machine

/-- What selects the tables of an access and judges it (R96, R97). -/
structure TransCtx where
  /-- the core whose TLBs serve it: 1000 for the IOMMU and the Shepherd -/
  core : Nat
  part : Option Nat
  ttb1 : Word
  ttb2 : Word
  ctxid : BitVec 16
  vmid : BitVec 16
  mode : BitVec 2
  deriving DecidableEq, Repr

/-- The kinds of access R101 tells apart. -/
inductive AccKind where
  | read | write | atomic | fetch
  deriving DecidableEq, Repr

/-- Does the access write? -/
def AccKind.writes : AccKind → Bool
  | .write | .atomic => true
  | _ => false

/-- A translation found: the physical address, whether the page is a device page, and the earliest expiry it rests on (R105). -/
structure Trans where
  pa : Nat
  dev : Bool
  expiry : Nat
  deriving DecidableEq, Repr

/-- A cause with its subcause. -/
abbrev Cause := BitVec 8 × BitVec 8

/-- R96: bits [63:57] all equal bit 56. -/
def canonical (va : Word) : Bool := field va 57 7 == if bitAt va 56 then 0x7F else 0

/-- TTB.EN. -/
def ttbEn (t : Word) : Bool := bitAt t 0
/-- TTB.BASE as an address. -/
def ttbBase (t : Word) : Nat := fieldNat t 12 40 * 4096

/-- R98: bits of the address below the reach of an entry of a level. -/
def levelShift (level : Nat) : Nat := 12 + 9 * level

/-- R98: the index of a level. -/
def levelIndex (a level : Nat) : Nat := a / 2 ^ levelShift level % 512

/-- R99: is a valid entry a leaf? -/
def isLeaf (e : Word) : Bool := bitAt e 1

/-- R99: ADDR of an entry. -/
def entryAddr (e : Word) : Nat := fieldNat e 12 40 * 4096

/-- R99: is a valid entry of a level well formed? -/
def wellFormedEntry (level : Nat) (e : Word) : Bool :=
  field e 59 5 == 0 &&
  (if isLeaf e then
     decide (level ≤ 2) && !(bitAt e 3 && !bitAt e 2) && !(bitAt e 11) && (!bitAt e 7 || level == 0) &&
     entryAddr e % 2 ^ levelShift level == 0
   else level != 0 && !bitAt e 7)

/-- R102, rows 2 to 4: why an entry stops a walk, as the subcause of NOTPRESENT. -/
def entryFails (stage2 : Bool) (level : Nat) (e : Word) : Option (BitVec 8) :=
  if !bitAt e 0 then some (if stage2 then 2 else 0)
  else if !wellFormedEntry level e then some (if stage2 then 2 else 1)
  else none

/-- R99: the address a leaf of a level gives; 16 level-0 entries with C form one 64 KiB page. -/
def leafAddr (e : Word) (level a : Nat) : Nat :=
  if bitAt e 7 then entryAddr e / 65536 * 65536 + a % 65536 else entryAddr e + a % 2 ^ levelShift level

/-- R101, R102: the first permission a stage-1 leaf denies. -/
def permFails1 (mode : BitVec 2) (k : AccKind) (plain : Bool) (e : Word) : Option (BitVec 8) :=
  if (mode = 0 ∧ !bitAt e 5) ∨ (mode ≠ 0 ∧ k = .fetch ∧ bitAt e 5) then some 3
  else if (k = .read ∨ k = .atomic) ∧ !bitAt e 2 then some 0
  else if k.writes ∧ !bitAt e 3 then some 1
  else if k = .fetch ∧ !bitAt e 4 then some 2
  else if bitAt e 10 ∧ (!plain ∨ k = .fetch) then some 4
  else none

/-- R101: does a stage-2 leaf deny the access? U applies to neither check. -/
def permFails2 (k : AccKind) (plain : Bool) (e : Word) : Bool :=
  ((k = .read ∨ k = .atomic) && !bitAt e 2) || (k.writes && !bitAt e 3) || (k = .fetch && !bitAt e 4) ||
  (bitAt e 10 && (!plain || k = .fetch))

/-! ### Held entries -/

/-- R99, R103: does a held entry cover an address of its own stage? A leaf with C covers the 64 KiB of its page. -/
def reaches (a : Nat) (h : TlbEntry) : Bool :=
  h.vpn == a / 2 ^ levelShift h.level || (isLeaf h.entry && bitAt h.entry 7 && h.vpn / 16 == a / 65536)

/-- R103, R105: does a held entry match an access now? -/
def heldMatch (s : State) (t : TransCtx) (stage2 : Bool) (level a : Nat) (h : TlbEntry) : Bool :=
  h.core == t.core && h.stage2 == stage2 && h.vmid == t.vmid && (h.glob || h.ctxid == t.ctxid) && h.level == level &&
  reaches a h && decide (s.hubTime < h.expiry)

/-- A held entry of the lowest level, leaves first, if the structure still keeps it (log 8). -/
def heldPick (s : State) (t : TransCtx) (stage2 : Bool) (a : Nat) : List Nat → State × Option TlbEntry
  | [] => (s, none)
  | l :: r =>
    match s.mem.tlb.find? (heldMatch s t stage2 l a) with
    | none => heldPick s t stage2 a r
    | some h => if Config.tlbKeeps s.free then (s.takeFree, some h) else heldPick s.takeFree t stage2 a r

/-- Holds an entry, replacing the one it updates. -/
def holdEntry (s : State) (h : TlbEntry) : State :=
  s.setMem { s.mem with
    tlb := h :: s.mem.tlb.filter fun x =>
      !(x.core == h.core && x.stage2 == h.stage2 && x.vmid == h.vmid && x.ctxid == h.ctxid && x.level == h.level && x.vpn == h.vpn) }

/-- Drops the held entries that `f` names. -/
def dropEntries (s : State) (f : TlbEntry → Bool) : State := s.setMem { s.mem with tlb := s.mem.tlb.filter fun x => !f x }

/-- R102, R110: does a held entry cover an address for a context? -/
def coversFor (t : TransCtx) (a : Nat) (h : TlbEntry) : Bool :=
  h.core == t.core && h.vmid == t.vmid &&
  (h.stage2 || ((h.glob || h.ctxid == t.ctxid) && reaches a h))

/-! ### Walks -/

/-- R84, R90: a request of a walker reaches home; the IOMMU and the Shepherd are no agent that is counted. -/
def walkAsks (s : State) (t : TransCtx) (pa : Nat) : State := countAccess s (if t.core < 1000 then siteOfCore t.core + 1 else 0) pa

/-- R100: an entry read at home with the coherence of a system-scope acquire; R382 applies to it as to every request of a core. -/
def walkRead (s : State) (t : TransCtx) (pa : Nat) : State × Except Cause Word :=
  let s := dirRecall (walkAsks s t pa) (lineOf pa)
  if homeRefuses s t.part pa then (s, .error (cFABRIC, 0))
  else
    match homeRead s pa 8 with
    | (s, .ok bs) => (s, .ok (ofBytes 64 bs))
    | (s, .error c) => (s, .error (c, 0))

/-- What a walk ends in: the entry used, where it stands, its level, and the earliest expiry it rests on. -/
structure WalkEnd where
  entry : Word
  at_ : Nat
  level : Nat
  expiry : Nat
  deriving DecidableEq, Repr

/-- R105: a lease granted now. -/
def leaseEnd (s : State) : Nat := s.hubTime + hubF s 0x800 0 32

/-- R99: the 16 entries of a 64 KiB page agree in every field but ADDR (A and D apart, which the walker itself sets). -/
def agree16 (s : State) (at_ : Nat) : Bool :=
  let e (i : Nat) : Word :=
    match (homeRead s (at_ / 128 * 128 + 8 * i) 8).2 with
    | .ok bs => ofBytes 64 bs
    | .error _ => 0
  let strip (w : Word) : Word := w &&& 0xFFF0000000000CFF
  (rangeFrom 0 16).all fun i => strip (e i) == strip (e 0) && entryAddr (e i) == entryAddr (e 0) / 65536 * 65536 + 4096 * i

/-- R99: the entry of a 64 KiB page that the walker uses, once it has read the line beside the entry's too: the addressed one where the 16
agree, else any one of them. -/
def pickC (s : State) (t : TransCtx) (at_ : Nat) (e : Word) : State × Nat × Word :=
  let other := at_ / 128 * 128 + (at_ + 64) % 128 / 64 * 64
  let s := (homeRead (dirRecall (walkAsks s t other) (lineOf other)) other 8).1
  if agree16 s at_ then (s, at_, e)
  else
    let a := at_ / 128 * 128 + 8 * (Config.choice s.free % 16)
    match (homeRead s a 8).2 with
    | .ok bs => (s.takeFree, a, ofBytes 64 bs)
    | .error _ => (s.takeFree, at_, e)

/-- One stage-2 walk of an intermediate address from a table at `base` and a level. -/
def walk2 (s : State) (t : TransCtx) (a : Nat) : Nat → Nat → Nat → State × Except Cause WalkEnd
  | 0, _, _ => (s, .error (cNOTPRESENT, 2))
  | n + 1, base, exp =>
    let level := n
    let at0 := base + 8 * levelIndex a level
    match walkRead s t at0 with
    | (s, .error c) => (s, .error c)
    | (s, .ok e0) =>
      match (if bitAt e0 0 && isLeaf e0 && bitAt e0 7 && level = 0 then pickC s t at0 e0 else (s, at0, e0)) with
      | (s, at_, e) =>
        match entryFails true level e with
        | some sub => (s, .error (cNOTPRESENT, sub))
        | none =>
          let exp := min exp (leaseEnd s)
          let s := holdEntry s ⟨t.core, true, t.vmid, t.ctxid, false, level, a / 2 ^ levelShift level, e, at_, exp⟩
          if isLeaf e then (s, .ok ⟨e, at_, level, exp⟩) else walk2 s t a n (entryAddr e) exp

/-- R100: a walk that meets an invalid entry holds nothing: what is held is as `before`. -/
def holdNothing (before : State) (r : State × Except Cause WalkEnd) : State × Except Cause WalkEnd :=
  match r with
  | (s, .error c) => (s.setMem { s.mem with tlb := before.mem.tlb }, .error c)
  | (s, .ok w) => (s, .ok w)

/-- Stage 2 of an intermediate address: through a held entry, or a walk. -/
def stage2 (s : State) (t : TransCtx) (useHeld : Bool) (a : Nat) : State × Except Cause WalkEnd :=
  match (if useHeld then heldPick s t true a [0, 1, 2, 3, 4] else (s, none)) with
  | (s, none) => holdNothing s (walk2 s t a 5 (ttbBase t.ttb2) (leaseEnd s))
  | (s, some h) =>
    if isLeaf h.entry then (s, .ok ⟨h.entry, h.at_, h.level, h.expiry⟩)
    else holdNothing s (walk2 s t a h.level (entryAddr h.entry) h.expiry)

/-- R100: sets A, and D for a write, in the leaf at `w.at_`, by one atomic request of the walker (R84): false where the entry has changed since
it was read. A leaf that can no longer be read or written stops the access as a walk's read of it would. -/
def markLeaf (s : State) (t : TransCtx) (stage2 : Bool) (w : WalkEnd) (write : Bool) : State × Except Cause Bool :=
  let new := (if write then setField w.entry 9 1 1 else w.entry) ||| 0x100
  if new = w.entry then (s, .ok true)
  else
    let s := walkAsks s t w.at_
    if homeRefuses s t.part w.at_ then (s, .error (cFABRIC, 0))
    else
    match homeRead s w.at_ 8 with
    | (s, .error c) => (s, .error (c, 0))
    | (s, .ok bs) =>
      if ofBytes 64 bs ≠ w.entry then (s, .ok false)
      else
        match homeWrite (dirDrop s (lineOf w.at_)) w.at_ (toBytes new 8) none with
        | (s, some c) => (s, .error (c, 0))
        | (s, none) =>
          (s.setMem { s.mem with
            tlb := s.mem.tlb.map fun h =>
              if h.core = t.core ∧ h.stage2 = stage2 ∧ h.level = w.level ∧ h.at_ = w.at_ then { h with entry := new } else h }, .ok true)

/-- An intermediate address through stage 2, for a table read: R101 checks it as a read of a normal page. A and D are those of the
access's own leaves (R100, log 8): a table read marks nothing. -/
def tableAddr (s : State) (t : TransCtx) (useHeld : Bool) (a : Nat) : State × Except Cause (Nat × Nat) :=
  if ttbEn t.ttb2 then
    match stage2 s t useHeld a with
    | (s, .error c) => (s, .error c)
    | (s, .ok w) =>
      if permFails2 .read false w.entry then (s, .error (cPERM, 5)) else (s, .ok (leafAddr w.entry w.level a, w.expiry))
  else (s, .ok (a, leaseEnd s))

/-- A stage-1 walk from a table at `base` and a level. -/
def walk1 (s : State) (t : TransCtx) (useHeld : Bool) (a : Nat) : Nat → Nat → Nat → State × Except Cause WalkEnd
  | 0, _, _ => (s, .error (cNOTPRESENT, 1))
  | n + 1, base, exp =>
    let level := n
    match tableAddr s t useHeld (base + 8 * levelIndex a level) with
    | (s, .error c) => (s, .error c)
    | (s, .ok (at0, exp2)) =>
      match walkRead s t at0 with
      | (s, .error c) => (s, .error c)
      | (s, .ok e0) =>
        match (if bitAt e0 0 && isLeaf e0 && bitAt e0 7 && level = 0 then pickC s t at0 e0 else (s, at0, e0)) with
        | (s, at_, e) =>
          match entryFails false level e with
          | some sub => (s, .error (cNOTPRESENT, sub))
          | none =>
            let exp := min (min exp exp2) (leaseEnd s)
            let s := holdEntry s ⟨t.core, false, t.vmid, t.ctxid, isLeaf e && bitAt e 6, level, a / 2 ^ levelShift level, e, at_, exp⟩
            if isLeaf e then (s, .ok ⟨e, at_, level, exp⟩) else walk1 s t useHeld a n (entryAddr e) exp

/-- Stage 1 of a virtual address: through a held entry, or a walk. -/
def stage1 (s : State) (t : TransCtx) (useHeld : Bool) (a : Nat) : State × Except Cause WalkEnd :=
  match (if useHeld then heldPick s t false a [0, 1, 2, 3, 4] else (s, none)) with
  | (s, none) => holdNothing s (walk1 s t useHeld a 5 (ttbBase t.ttb1) (leaseEnd s))
  | (s, some h) =>
    if isLeaf h.entry then (s, .ok ⟨h.entry, h.at_, h.level, h.expiry⟩)
    else holdNothing s (walk1 s t useHeld a h.level (entryAddr h.entry) h.expiry)

/-- What stage 1 gives: the intermediate address, its leaf where stage 1 is enabled, the memory type and the expiry. -/
abbrev Stage1End := Nat × Option WalkEnd × Bool × Nat

/-- R97, R98: stage 1, or its stand-in where it is disabled. In user mode that is NOTPRESENT, with subcause 0 (log 50). -/
def stage1Any (s : State) (t : TransCtx) (useHeld : Bool) (va : Word) : State × Except Cause Stage1End :=
  if ttbEn t.ttb1 then
    match stage1 s t useHeld (va.toNat % 2 ^ 57) with
    | (s, .error c) => (s, .error c)
    | (s, .ok w) => (s, .ok (leafAddr w.entry w.level (va.toNat % 2 ^ 57), some w, bitAt w.entry 10, w.expiry))
  else if t.mode = 0 then (s, .error (cNOTPRESENT, 0))
  else if 2 ^ 52 ≤ va.toNat then (s, .error (cBOUNDS, 13))
  else (s, .ok (va.toNat, none, isDevice va.toNat, leaseEnd s))

/-- The stage-1 permission check, with or without a leaf (R97, R101). -/
def permAny1 (t : TransCtx) (k : AccKind) (plain : Bool) (w : Option WalkEnd) (dev : Bool) : Option (BitVec 8) :=
  match w with
  | some w => permFails1 t.mode k plain w.entry
  | none => if dev && (!plain || k = .fetch) then some 4 else none

/-- The final address through stage 2, if it is enabled. -/
def stage2Any (s : State) (t : TransCtx) (useHeld : Bool) (a : Nat) : State × Except Cause (Option WalkEnd) :=
  if ttbEn t.ttb2 then
    match stage2 s t useHeld a with
    | (s, .error c) => (s, .error c)
    | (s, .ok w) => (s, .ok (some w))
  else (s, .ok none)

/-- What the two stages give for an address: the intermediate address, the leaves of the enabled stages, the stage-1 memory type and the
earliest expiry. -/
structure Leaves where
  ipa : Nat
  w1 : Option WalkEnd
  w2 : Option WalkEnd
  dev1 : Bool
  expiry : Nat
  deriving DecidableEq, Repr

/-- R102, rows 2 to 4: the leaves of an address. -/
def leavesAt (s : State) (t : TransCtx) (useHeld : Bool) (va : Word) : State × Except Cause Leaves :=
  match stage1Any s t useHeld va with
  | (s, .error c) => (s, .error c)
  | (s, .ok (ipa, w1, dev1, exp1)) =>
    match stage2Any s t useHeld ipa with
    | (s, .error c) => (s, .error c)
    | (s, .ok w2) =>
      (s, .ok ⟨ipa, w1, w2, dev1, match w2 with
        | some w => min exp1 w.expiry
        | none => exp1⟩)

/-- R102, rows 5 and 6: the first permission the leaves deny. -/
def leavesDeny (t : TransCtx) (k : AccKind) (plain : Bool) (x : Leaves) : Option Cause :=
  match permAny1 t k plain x.w1 x.dev1, x.w2 with
  | some sub, _ => some (cPERM, sub)
  | none, some w => if permFails2 k plain w.entry then some (cPERM, 5) else none
  | none, none => none

/-- The translation that leaves give. -/
def Leaves.trans (x : Leaves) : Trans :=
  match x.w2 with
  | some w => ⟨leafAddr w.entry w.level x.ipa, x.dev1 || bitAt w.entry 10, x.expiry⟩
  | none => ⟨x.ipa, x.dev1, x.expiry⟩

/-- R104: is A set in every leaf? -/
def Leaves.accessed (x : Leaves) : Bool :=
  (match x.w1 with
    | some w => bitAt w.entry 8
    | none => true) &&
  (match x.w2 with
    | some w => bitAt w.entry 8
    | none => true)

/-- R100: marks the leaves of an access that passed its checks; false where a leaf has changed. -/
def markBoth (s : State) (t : TransCtx) (x : Leaves) (write : Bool) : State × Except Cause Bool :=
  let r1 := match x.w1 with
    | some w => markLeaf s t false w write
    | none => (s, .ok true)
  match r1, x.w2 with
  | (s, .ok true), some w => markLeaf s t true w write
  | r, _ => r

/-- One attempt at a translation, in the order of R102; none where a leaf changed before it was marked (R100). -/
def translateOnce (s : State) (t : TransCtx) (useHeld : Bool) (k : AccKind) (plain : Bool) (va : Word) :
    State × Except Cause (Option Trans) :=
  match leavesAt s t useHeld va with
  | (s, .error c) => (s, .error c)
  | (s, .ok x) =>
    match leavesDeny t k plain x with
    | some c => (s, .error c)
    | none =>
      match markBoth s t x k.writes with
      | (s, .error c) => (s, .error c)
      | (s, .ok true) => (s, .ok (some x.trans))
      | (s, .ok false) => (s, .ok none)

/-- R102: the unit drops what it holds for the address and walks again. A walk whose leaf changed restarts (R100): once, where one word
is the leaf of both stages and the first mark changed it, so that the next walk finds it marked. -/
def walkAfresh (s : State) (t : TransCtx) (k : AccKind) (plain : Bool) (va : Word) : Nat → State × Except Cause Trans
  | 0 => (s, .error (cNOTPRESENT, 0))
  | n + 1 =>
    match translateOnce (dropEntries s (coversFor t (va.toNat % 2 ^ 57))) t false k plain va with
    | (s, .ok (some tr)) => (s, .ok tr)
    | (s, .ok none) => walkAfresh s t k plain va n
    | (s, .error c) => (s, .error c)

/-- R96 to R105: translates and checks an access. A failure of rows 2 to 6 is reported only after a fresh walk failed too (R102); a walk
whose leaf changed restarts (R100). -/
def translate (s : State) (t : TransCtx) (k : AccKind) (plain : Bool) (va : Word) : State × Except Cause Trans :=
  if !canonical va then (s, .error (cBOUNDS, 0))
  else
    match translateOnce s t true k plain va with
    | (s, .ok (some tr)) => (s, .ok tr)
    | (s, .ok none) => walkAfresh s t k plain va 3
    | (s, .error c) => if c.1 = cNOTPRESENT ∨ c.1 = cPERM then walkAfresh s t k plain va 3 else (s, .error c)

/-- R104: a prefetch walk. It never faults, sets neither A nor D, and holds nothing where it fails or a leaf has A clear or denies the
stream's kind of access; its requests have reached home all the same (R84, R90). -/
def prefetchWalk (s : State) (t : TransCtx) (useHeld : Bool) (k : AccKind) (va : Word) : State :=
  if !canonical va then s
  else
    let nothingHeld (t : State) : State := t.setMem { t.mem with tlb := s.mem.tlb }
    match leavesAt s t useHeld va with
    | (s, .ok x) => if x.accessed && (leavesDeny t k false x).isNone then s else nothingHeld s
    | (s, .error _) => nothingHeld s

/-- R104: the page a stream runs through: the held leaf of the first stage that is enabled. -/
def streamLeaf (s : State) (t : TransCtx) (va : Word) : Option TlbEntry :=
  let one := ttbEn t.ttb1
  let a := if one then va.toNat % 2 ^ 57 else va.toNat
  if one || ttbEn t.ttb2 then s.mem.tlb.find? fun h => coversFor t a h && reaches a h && h.stage2 != one && isLeaf h.entry else none

/-- R104: an access of a stream in the last quarter of its page, or the first of a descending stream, walks the page beside it. -/
def streamPrefetch (s : State) (t : TransCtx) (k : AccKind) (down : Bool) (va : Word) : State :=
  match streamLeaf s t va with
  | none => s
  | some h =>
    let size := if bitAt h.entry 7 then 65536 else 2 ^ levelShift h.level
    let off := va.toNat % size
    if !down && decide (3 * size ≤ 4 * off) then prefetchWalk s t true k (va - BitVec.ofNat 64 off + BitVec.ofNat 64 size)
    else if down && decide (4 * off < size) then prefetchWalk s t true k (va - BitVec.ofNat 64 off - 1)
    else s

/-- R97: the translation a partition's units start with, as the Shepherd uses it: supervisor mode. -/
def shepherdTrans (s : State) (p : Nat) : TransCtx :=
  { core := 1000, part := some p, ttb1 := s.hubR (pBase p + 8), ttb2 := s.hubR (pBase p + 0x18),
    ctxid := field (s.hubR (pBase p + 0x10)) 0 16, vmid := field (s.hubR (pBase p + 0x10)) 16 16, mode := 1 }

/-- Reads of the Shepherd through a partition's translation, 8 bytes at a time from an aligned address: each line is one request, metered
where it is the pool's (R90); `fresh` says that this word begins one. -/
def shepherdWords (s : State) (p : Nat) (fresh : Bool) (va : Word) : Nat → State × Except Cause (List Word)
  | 0 => (s, .ok [])
  | n + 1 =>
    match translate s (shepherdTrans s p) .read false va with
    | (s, .error c) => (s, .error c)
    | (s, .ok tr) =>
      let s := if fresh then countAccess s 0 tr.pa else s
      if homeRefuses s (some p) tr.pa then (s, .error (cFABRIC, 0))
      else
        match homeRead (dirRecall s (lineOf tr.pa)) tr.pa 8 with
        | (s, .error c) => (s, .error (c, 0))
        | (s, .ok bs) =>
          match shepherdWords s p (decide (va.toNat % 64 = 56)) (va + 8) n with
          | (s, .ok r) => (s, .ok (ofBytes 64 bs :: r))
          | (s, .error c) => (s, .error c)

/-- `n` words of a partition as the Shepherd reads them. -/
def shepherdRead (s : State) (p : Nat) (va : Word) (n : Nat) : State × Except Cause (List Word) := shepherdWords s p true va n

/-- R212, R412: subtracts 1 from a signal with an atomic at system scope; on failure memory is unchanged and the failure is reported. -/
def decrementSignal (s : State) (p : Nat) (va : Word) : State :=
  if va = 0 then s
  else
    let failed (s : State) (c : BitVec 8) : State := presentEvent s 4 0 c (some p) 0 va
    if va.toNat % 8 ≠ 0 then failed s cMISALIGN
    else
      match translate s (shepherdTrans s p) .atomic false va with
      | (s, .error c) => failed s c.1
      | (s, .ok tr) =>
        let s := countAccess s 0 tr.pa
        if homeRefuses s (some p) tr.pa then failed s cFABRIC
        else
          match homeRead (dirDrop s (lineOf tr.pa)) tr.pa 8 with
          | (s, .error c) => failed s c
          | (s, .ok bs) =>
            match homeWrite s tr.pa (toBytes (ofBytes 64 bs - 1) 8) none with
            | (s, none) => s
            | (s, some c) => failed s c

end Sys2Proof.Machine
end

