-- ==== Sys2Proof/Machine/Frames.lean ====
section
/-! DEFINITION. Operations over whole frames and sets: dropping cached copies, zeroing (R117, R391), and the settling of a partition's
slices and reduction ranges (R378). -/

namespace Sys2Proof.Machine

/-- Discards every cached copy of the lines that `f` names, dirty data included: L1 of data and of code, slices of every class,
memory-side cache. -/
def dropLines (s : State) (f : Nat → Bool) : State :=
  s.setMem { s.mem with
    l1 := s.mem.l1.filter fun x => !f x.line
    code := s.mem.code.filter fun x => !f (lineOf x.pa)
    rem := s.mem.rem.filter fun x => !f x.line
    ncf := s.mem.ncf.filter fun x => !f x.line
    dir := s.mem.dir.filter fun x => !f x.line
    msc := s.mem.msc.filter fun x => !f x
    partials := s.mem.partials.filter fun x => !f x.line }

/-- R164: sends region invalidations for the 2 KiB regions that `f` names and peers share, and clears their vectors. -/
def invalidateRegions (s : State) (f : Nat → Bool) : State :=
  let hit := s.mem.sharers.filter fun x => f x.1
  s.setMem { s.mem with
    sharers := s.mem.sharers.filter fun x => !f x.1
    invals := s.mem.invals ++ hit.flatMap fun x => (bitsOf x.2.toNat 64).map fun d => (d, x.1, s.cycles) }

/-- Clears the stored bytes, descriptors and poison of the keys that `f` names; `f` names whole lines. -/
def clearKeys (m : Mem) (f : Nat → Bool) : Mem :=
  { m with
    bytes := m.bytes.filter fun x => !f x.1
    desc := m.desc.filter fun x => !f (x.1 * 64)
    poison := m.poison.filter fun x => !f (x.1 * 64) }

/-- Zeroes `n` granules of 4 KiB from a physical address of an enabled set. -/
def zeroGranules (s : State) (pa : Nat) : Nat → State
  | 0 => s
  | n + 1 =>
    match homeKey s pa with
    | none => zeroGranules s (pa + 4096) n
    | some key => zeroGranules (s.setMem (clearKeys s.mem fun k => decide (key ≤ k) && decide (k < key + 4096))) (pa + 4096) n

/-- R117: zero-fills a frame: every cached copy is invalidated with its dirty data, peers are told, and memory is zero and untyped. -/
def zeroFrame (s : State) (pa size : Nat) : State :=
  let inFrame (line : Nat) : Bool := decide (pa ≤ 64 * line) && decide (64 * line < pa + size)
  let s := dropLines s inFrame
  let s := invalidateRegions s fun r => decide (pa < 2048 * (r + 1)) && decide (2048 * r < pa + size)
  zeroGranules s pa (size / 4096)

/-- R77: does a stored key belong to a channel of a set? -/
def keyInSet (s : State) (lp : Bool) (k key : Nat) : Bool :=
  if lp then decide (2 ^ 40 ≤ key) && decide (key < 2 ^ 50) && (setChannels s true k).contains ((key - 2 ^ 40) / 2 ^ 36)
  else decide (key < 2 ^ 40) && (setChannels s false k).contains (key / 2 ^ 32)

/-- R391, step 2: zero-fills every line of a set, with every cached copy invalidated. -/
def zeroSet (s : State) (lp : Bool) (k : Nat) : State :=
  let base := setBase s lp k
  let len := setLen s lp k
  let hit (a : Nat) : Bool := decide (base ≤ a) && decide (a < base + len)
  let s := dropLines s fun line => hit (64 * line)
  let s := invalidateRegions s fun r => hit (2048 * r)
  s.setMem (clearKeys s.mem (keyInSet s lp k))

/-- Zeroes the sets of a list. -/
def zeroSets (s : State) : List (Bool × Nat) → State
  | [] => s
  | (lp, k) :: r => zeroSets (zeroSet s lp k) r

/-- Gathers lines in ascending order. -/
def gatherLines (s : State) : List Nat → State
  | [] => s
  | l :: r => gatherLines (gatherLine s l) r

/-- R159: gathers every line of a range that has a partial or a dirty NCF copy. -/
def gatherRange (s : State) (r : Range) : State :=
  let hit (line : Nat) : Bool := decide (r.base ≤ 64 * line) && decide (64 * line < r.base + r.len)
  let ls := ((s.mem.partials.map (·.line)) ++ (s.mem.ncf.map (·.line))).filter hit
  gatherLines s ls.eraseDups

/-- Is a slice of a site one of a partition's, now or before a Rehang in progress (R148, R390)? -/
def sliceOfPart (s : State) (p site slice : Nat) : Bool :=
  bitAt (s.winR site (0x100000 + 8 * p) ||| s.winR site (0x100080 + 8 * p)) slice

/-- R378, step 4: the partition's slices write home every dirty byte of every class, its partials are gathered and its ranges dropped. A
write-back that home refuses presents an error event to the partition's ring (R382). -/
def settleCaches (s : State) (p : Nat) : State :=
  let s := (s.mem.ncf.filter fun x => x.part == some p && x.owes).foldl ncfWriteBack s
  let mine (h : Holder) : Bool := sliceOfPart s p (h.agent - 1) h.slice
  let s := writeOwned s (s.mem.dir.filter mine)
  let s := s.setMem { s.mem with dir := s.mem.dir.map fun h => if mine h then h.written else h }
  let rs := s.mem.ranges.filter fun r => r.part == some p
  let s := rs.foldl gatherRange s
  s.setMem { s.mem with ranges := s.mem.ranges.filter fun r => r.part != some p }

end Sys2Proof.Machine
end

