-- ==== Sys2Proof/Machine/Launches.lean ====
section
/-! DEFINITION. Packets' fields (R310), block and cohort barriers (R319), the end of packs, tasks and host threads (R314, R317, R255), and
the completion of launches (R312, R412). -/

namespace Sys2Proof.Machine

/-! ### Fields of a packet (R310) -/

/-- `type`. -/
def pkType (p : Rec512) : Nat := fieldNat p 0 4
/-- `code`. -/
def pkCode (p : Rec512) : Nat := fieldNat p 4 4
/-- `barrier`. -/
def pkBarrier (p : Rec512) : Bool := bitAt p 8
/-- `acqscope`. -/
def pkAcq (p : Rec512) : Nat := fieldNat p 9 5
/-- `relscope`. -/
def pkRel (p : Rec512) : Nat := fieldNat p 14 5
/-- `priority`. -/
def pkPrio (p : Rec512) : Nat := fieldNat p 19 3
/-- `packs`. -/
def pkPacks (p : Rec512) : Nat := fieldNat p 32 6
/-- `maxpacks`. -/
def pkMax (p : Rec512) : Nat := fieldNat p 38 6
/-- `cohort`. -/
def pkCohort (p : Rec512) : Nat := fieldNat p 44 5
/-- `gridx`. -/
def pkX (p : Rec512) : Nat := fieldNat p 64 20
/-- `gridy`. -/
def pkY (p : Rec512) : Nat := fieldNat p 84 16
/-- `gridz`. -/
def pkZ (p : Rec512) : Nat := fieldNat p 100 16
/-- `vregs`. -/
def pkVregs (p : Rec512) : Nat := fieldNat p 128 10
/-- `shared`. -/
def pkShared (p : Rec512) : Nat := fieldNat p 144 20
/-- `canvas`. -/
def pkCanvas (p : Rec512) : Nat := fieldNat p 168 19
/-- `accslots`. -/
def pkAccslots (p : Rec512) : Nat := fieldNat p 192 12
/-- `kernel`. -/
def pkKernel (p : Rec512) : Word := field p 256 64
/-- `args`. -/
def pkArgs (p : Rec512) : Word := field p 320 64
/-- `signal`. -/
def pkSignal (p : Rec512) : Word := field p 384 64
/-- DEP0 to DEP4. -/
def pkDep (p : Rec512) (i : Nat) : Word := field p (64 + 64 * i) 64

/-! ### Barriers (R319, R320) -/

/-- A pack as barriers name it: block and index. -/
abbrev PackName := Nat × Nat

namespace Bar

/-- R319: while the open phase is full it completes, and held arrivals are applied; `members` are the packs resident. -/
def settle (members : List PackName) : Nat → Bar → Bar
  | 0, b => b
  | n + 1, b =>
    if b.fixed && b.arr == b.exp then
      let gone := (b.held.filter fun h => h.2).length
      settle members n
        { b with ph := b.ph + 1, arr := b.held.length, arrived := (b.held.filter fun h => !h.2).map (·.1), fixed := !b.held.isEmpty,
                 exp := if b.held.isEmpty then 0 else members.length + gone,
                 counted := if b.held.isEmpty then [] else members, held := [] }
    else b

/-- R320: an arrival of `w`; none where its last arrival stands in a phase that has not completed. -/
def arrive (members : List PackName) (w : PackName) (b : Bar) : Option Bar :=
  let pending := match b.last.find? fun x => x.1 == w with
    | some x => decide (b.ph ≤ x.2)
    | none => false
  if pending then none
  else
    let note (ph : Nat) : List (PackName × Nat) := (w, ph) :: b.last.filter fun x => x.1 != w
    if b.fixed && !b.counted.contains w then some { b with held := b.held ++ [(w, false)], last := note (b.ph + 1) }
    else
      let b := if b.fixed then b else { b with fixed := true, exp := members.length, counted := members }
      some (settle members 2 { b with arr := b.arr + 1, arrived := w :: b.arrived, last := note b.ph })

/-- R320: must `w` still wait for the phase of its last arrival? -/
def waits (w : PackName) (b : Bar) : Bool :=
  match b.last.find? fun x => x.1 == w with
  | some x => decide (b.ph ≤ x.2)
  | none => false

/-- R319: `w` leaves; `members` are the packs that remain. -/
def leave (members : List PackName) (w : PackName) (b : Bar) : Bar :=
  let here := b.arrived.contains w
  let b' := { b with
    counted := b.counted.filter fun x => x != w
    arrived := b.arrived.filter fun x => x != w
    last := b.last.filter fun x => x.1 != w
    held := b.held.map fun h => if h.1 = w then (h.1, true) else h }
  if b.fixed && b.counted.contains w && !here then settle members 2 { b' with arr := b'.arr + 1 } else settle members 2 b'

end Bar

/-- The packs of a block, as barriers name them. -/
def blockMembers (b : Nat) (blk : Block) : List PackName := blk.packs.map fun x => (b, x.1)

/-- The packs of a cohort's blocks. -/
def cohortMembers (s : State) (c : Cohort) : List PackName :=
  c.blocks.flatMap fun b => match s.block b with
    | some blk => blockMembers b blk
    | none => []

/-- A barrier of a block. -/
def Block.bar (b : Block) (i : Nat) : Bar := Sparse.get (fun _ => {}) b.bars i

/-! ### Completion of launches -/

/-- R346 in part: does a scope entry have system extent? Only entry 6 does (R198). -/
def systemScope (n : Nat) : Bool := n == 6

/-- R214: has every write to a region that peers share been acknowledged? -/
def acknowledged (s : State) : Bool := s.mem.invals.isEmpty

/-- R312, R33: the release, the decrement and the completion event of a launch whose members have all ended; a release at system
scope first waits for the invalidations outstanding (R214). -/
def tryComplete (s : State) (l : Nat) : State :=
  match s.launch l with
  | none => s
  | some x =>
    if x.ended < x.members || (systemScope (pkRel x.packet) && !acknowledged s) then s
    else
      let s := decrementSignal (s.setLaunch l none) x.part (pkSignal x.packet)
      presentEvent s 1 x.lastAgent 0 (some x.part) x.queue (pkSignal x.packet)

/-- A member of a launch has ended on a core. -/
def memberEnded (s : State) (l : Option Nat) (core : Nat) : State :=
  match l with
  | none => s
  | some l =>
    match s.launch l with
    | none => s
    | some x => tryComplete (s.setLaunch l (some { x with ended := x.ended + 1, lastAgent := agentOfCore core })) l

/-! ### The end of units -/

/-- R146: the carve-out of a SIMT core, in bytes: the sum over its blocks, rounded up to 32 KiB. -/
def carveOf (s : State) (c : Nat) : Nat :=
  let sum := s.blocks.foldl (fun n x => match x.2 with
    | some b => if b.resident ∧ b.core = c then n + b.sharedSize else n
    | none => n) 0
  ceilDiv sum 32768 * 32768

/-- R146: sets a core's carve-out; the L1 discards the lines it has no room for. -/
def setCarve (s : State) (c : Nat) : State :=
  l1Trim (s.setCore c { s.core c with carve := carveOf s c }) c

/-- R375: pages of a partition's save area are free again. -/
def freePages (s : State) (p : Option Nat) (n : Nat) : State :=
  match p with
  | some p => s.setPart p { s.part p with reserved := (s.part p).reserved - n }
  | none => s

/-- R329: a core leaves hunger; once no core of its die is hungry, each may become hungry again. -/
def leaveHunger (s : State) (c : Nat) : State :=
  let k := s.core c
  if !k.hungry then s
  else
    let s := s.setCore c { k with hungry := false, served := true }
    let cs := coresOfSite (siteOfCore c)
    let mine (x : Nat) : Bool := decide (cs.1 ≤ x) && decide (x < cs.1 + cs.2)
    if s.cores.any fun x => mine x.1 && x.2.hungry then s
    else { s with cores := s.cores.map fun x => if mine x.1 then (x.1, { x.2 with served := false }) else x }

/-- R329: sets a core's WANT, and from when COUNT is below it. -/
def setWant (s : State) (c price : Nat) : State :=
  let k := s.core c
  s.setCore c { k with want := price, wantSince := if k.tokens < price then some s.cycles else none }

/-- R337: a reservation ends: the next pack that asked is granted it, with the price it waits to pay as WANT. -/
def nextReserve (s : State) (c : Nat) : State :=
  let s := leaveHunger s c
  let k := s.core c
  match k.reserveq with
  | [] => setWant (s.setCore c { k with reserve := none }) c 0
  | u :: r =>
    let price := match (s.ctx u).needs with
      | some n => n.1
      | none => 0
    setWant (s.setCore c { k with reserve := some u, reserveq := r }) c price

/-- R337: a pack is pre-empted: its reservation and its request for one end. -/
def endReserve (s : State) (u : Nat) : State :=
  let c := coreOf u
  let k := s.core c
  let s := s.setCore c { k with reserveq := k.reserveq.filter fun v => v != u }
  if k.reserve = some u then nextReserve s c else s

/-- R337, R339: a pack leaves its core. -/
def dropReserve (s : State) (u : Nat) : State :=
  let c := coreOf u
  let k := s.core c
  endReserve (s.setCore c { k with locKeep := k.locKeep.filter fun v => v != u }) u

/-- R317, step 4: a block whose last pack has left ends: its requests are dropped, its carve-out is freed, the grid counts it. -/
def endBlock (s : State) (b : Nat) (blk : Block) : State :=
  let s := freePages (setCarve (s.setBlock b none) blk.core) blk.part blk.pages
  let s := match blk.cohort with
    | some c => (match s.cohort c with
        | some x =>
          let rest := x.blocks.filter fun y => y != b
          if rest.isEmpty then freePages (s.setCohort c none) blk.part 1 else s.setCohort c (some { x with blocks := rest })
        | none => s)
    | none => s
  memberEnded s (some blk.launch) blk.core

/-- R317, steps 3 and 4: a pack settles its barriers and leaves its block. -/
def endPack (s : State) (u : Nat) : State :=
  let c := s.ctx u
  let s := freePages (dropReserve s u) c.part c.pages
  match c.block with
  | none => s.setCtx u {}
  | some b =>
    match s.block b with
    | none => s.setCtx u {}
    | some blk =>
      let blk := { blk with packs := blk.packs.filter fun x => x.1 != c.index }
      let blk := { blk with bars := blk.bars.map fun x => (x.1, x.2.leave (blockMembers b blk) (b, c.index)) }
      let s := (s.setBlock b (some blk)).setCtx u {}
      let s := match blk.cohort with
        | some k => (match s.cohort k with
            | some co => s.setCohort k (some { co with bar := co.bar.leave (cohortMembers s co) (b, c.index) })
            | none => s)
        | none => s
      if blk.packs.isEmpty then endBlock s b blk else s

/-- The owner tag of a slot. -/
def Core.slotOwner (k : Core) (slot : Nat) : BitVec 8 := Sparse.get (fun _ => 0xFF) k.owner slot

/-- R292: zeroes the slots of a tag, clears their SAT flags and frees them. -/
def freeSlots (k : Core) (tag : BitVec 8) : Core :=
  let mine (slot : Nat) : Bool := k.slotOwner slot == tag
  if tag = 0xFF then k
  else
    { k with
      slots := k.slots.filter fun x => !mine (x.1 / 4096)
      sat := k.sat.filter fun x => !mine x.1
      held := k.held.filter fun x => !mine x.1
      owner := k.owner.filter fun x => x.2 != tag
      tagctx := k.tagctx.filter fun x => x.tag != tag.toNat }

/-- R298: a context gives up the array and its request. -/
def dropLeash (k : Core) (c : Nat) : Core :=
  { k with
    leashHolder := if k.leashHolder = some c then none else k.leashHolder
    busy := k.busy && k.leashHolder != some c
    held := if k.leashHolder = some c then [] else k.held
    leashReqs := k.leashReqs.filter fun r => r.ctx != c
    faultq := k.faultq.filter fun e => e.1.ctx != c
    tokq := k.tokq.filter fun e => e.1 != c }

/-- R255, R292: the end of a task: its Leash, slots, Canvas and context are free. -/
def endTask (s : State) (u : Nat) : State :=
  let c := s.ctx u
  let core := coreOf u
  let s := freePages s c.part c.pages
  let k := freeSlots (dropLeash (s.core core) (u % 128)) (field c.accsave 0 8)
  memberEnded ((s.setCore core k).setCtx u {}) c.launch core

/-- R255, R361: the end of a host thread: the core's former values return. -/
def endHost (s : State) (u : Nat) : State :=
  let c := s.ctx u
  let old := Sparse.get (fun _ => ({} : Ctx)) s.former u
  let s := freePages s c.part c.pages
  memberEnded { s.setCtx u old with former := Sparse.erase s.former u } c.launch (coreOf u)

/-- R314: the end of any unit of a launch. -/
def endUnit (s : State) (u : Nat) : State :=
  match kindOf u with
  | .pack => endPack s u
  | .host => endHost s u
  | _ => endTask s u

end Sys2Proof.Machine
end

