-- ==== Sys2Proof/Machine/Rehang.lean ====
section
/-! DEFINITION. What Rehang and the partition reset share: ring entries (R82), units and their owner fields (R379, R380), the plan (R386),
scope-group tables (R384), the walk of REHASH (R390) and the steps of COMMIT (R391). -/

namespace Sys2Proof.Machine

/-! ### Command rings (R82) -/

/-- R82: completes a ring's entry: STATUS, HEAD, and an event to the operating system's ring. A ring in the pool is metered (R90). -/
def finishEntry (s : State) (ring entry status : Nat) : State :=
  let s := (homeWrite (dirDrop (poolMeter s entry) (lineOf entry)) (entry + 2) [BitVec.ofNat 8 status] none).1
  presentEvent (setHubF s (ring + 0x10) 0 32 (ringHead s ring + 1)) 1 0 0 none 0 (BitVec.ofNat 64 entry)

/-- A word of a ring entry; an unreadable one reads zero. -/
def entryWord (s : State) (entry i : Nat) : Word :=
  match (homeRead s (entry + 8 * i) 8).2 with
  | .ok bs => ofBytes 64 bs
  | .error _ => 0

/-! ### Units (R379) -/

/-- R380: offset and first bit of the owner field of every unit but a tenant entry. -/
def PUnit.fieldOf : PUnit → Nat × Nat
  | .host i => (0x2C10 + 8 * (i / 8), 8 * (i % 8))
  | .simt _ => (0, 0)
  | .ctx i j => (0x3000 + 8 * i, 8 * j)
  | .ma i => (0x3000 + 8 * i, 32)
  | .ve i => (0x3000 + 8 * i, 40)
  | .rt i => (0x3000 + 8 * i, 48)
  | .set lp k => ((if lp then 0x2C60 else 0x2C50) + 8 * (k / 8), 8 * (k % 8))

/-- The code of an owner. -/
def ownerCode (o : Option Nat) : Nat := match o with
  | some p => 16 + p
  | none => 0

/-- Writes a tenant entry of a SIMT core. -/
def setTenant (s : State) (c e : Nat) (o : Option Nat) (weight : Nat) : State :=
  setHubF s (simtShr c (e / 4)) (16 * (e % 4)) 16 (ownerCode o + 256 * weight)

/-- A free tenant entry of a SIMT core, of the hub's own choice (log 38). -/
def freeTenant (s : State) (c : Nat) : Option Nat :=
  match (rangeFrom 0 8).filter fun e => (tenantOwner s c e).isNone with
  | [] => none
  | e :: r => some ((e :: r).getD (Config.choice s.free % (r.length + 1)) e)

/-- Gives a unit to a partition; a tenant entry takes `weight`. -/
def giveUnit (s : State) (u : PUnit) (p weight : Nat) : State :=
  match u with
  | .simt i => (match freeTenant s (64 + i) with
      | some e => setTenant s.takeFree (64 + i) e (some p) weight
      | none => s)
  | u => setHubF s u.fieldOf.1 u.fieldOf.2 8 (ownerCode (some p))

/-- Frees a unit of a partition. -/
def freeUnit (s : State) (u : PUnit) (p : Nat) : State :=
  match u with
  | .simt i => (match tenantOf s (64 + i) p with
      | some e => setTenant s (64 + i) e none 0
      | none => s)
  | u => setHubF s u.fieldOf.1 u.fieldOf.2 8 0

/-- Does the partition hold the unit? -/
def holdsUnit (s : State) (p : Nat) (u : PUnit) : Bool :=
  match u with
  | .simt i => (tenantOf s (64 + i) p).isSome
  | u => ownerOf (hubF s u.fieldOf.1 u.fieldOf.2 8) == some p

/-- Every unit there is, but slices. -/
def allUnits : List PUnit :=
  (rangeFrom 0 64).map .host ++ (rangeFrom 0 192).map .simt ++
  (rangeFrom 0 128).flatMap (fun i => (rangeFrom 0 4).map (.ctx i)) ++
  (rangeFrom 0 128).flatMap (fun i => [.ma i, .ve i, .rt i]) ++
  (rangeFrom 0 16).map (.set false) ++ (rangeFrom 0 16).map (.set true)

/-- The control context of a systolic core that a partition owns (R379: at most one). -/
def ctxOwned (s : State) (p i : Nat) : Option Nat := (rangeFrom 0 4).find? fun j => sysOwner s (256 + i) j == some p

/-! ### The plan (R386) -/

/-- WEIGHT. -/
def planWeight (plan : BitVec 2048) : Nat := fieldNat plan 0 8

/-- Is a unit the partition holds named in the plan? A context stands for its core. -/
def planned (plan : BitVec 2048) : PUnit → Bool
  | .host i => bitAt plan (64 + i)
  | .simt i => bitAt plan (128 + i)
  | .ctx i _ => bitAt plan (320 + i)
  | .ma i => bitAt plan (448 + i)
  | .ve i => bitAt plan (576 + i)
  | .rt i => bitAt plan (704 + i)
  | .set lp k => bitAt plan ((if lp then 1232 else 1216) + k)

/-- The slice bitmap of a site, 1 to 6. -/
def planSlices (plan : BitVec 2048) (site : Nat) : Word := field plan (64 * site + 768) 64

/-- The units a plan takes away. -/
def leavingUnits (s : State) (p : Nat) (plan : BitVec 2048) : List PUnit :=
  allUnits.filter fun u => holdsUnit s p u && !planned plan u

/-- R387: the units a plan adds; a joining context is the lowest free one of its core. -/
def joiningUnits (s : State) (p : Nat) (plan : BitVec 2048) : List PUnit :=
  allUnits.filter fun u =>
    planned plan u && !holdsUnit s p u &&
    (match u with
      | .ctx i j => (ctxOwned s p i).isNone && (rangeFrom 0 4).find? (fun k => (sysOwner s (256 + i) k).isNone) == some j
      | _ => true)

/-! ### Scope-group tables (R198, R384, R392) -/

/-- The partition's cores. -/
def partCores (s : State) (p : Nat) : CoreMap :=
  BitVec.ofNat 384 ((rangeFrom 0 384).foldl (fun n c => if partHasCore s p c then n + 2 ^ c else n) 0)

/-- The holder of a unit's entries 8 to 31: a SIMT core's tenant, or the unit itself. -/
def holderOf (s : State) (u : Nat) : Nat :=
  if kindOf u = .pack then coreOf u * 128 + 64 + (partOf s u).getD 0 else u

/-- An entry of a holder. -/
def scopeEnt (s : State) (holder n : Nat) : ScopeEnt := Sparse.get (fun _ => {}) s.scopes (holder * 32 + n)

/-- Replaces an entry. -/
def setScopeEnt (s : State) (holder n : Nat) (e : ScopeEnt) : State :=
  { s with scopes := Sparse.put (fun _ => ({} : ScopeEnt)) s.scopes (holder * 32 + n) e }

/-- R384: entry `n` as the table gives it. -/
def tableScope (s : State) (p n : Nat) (cores : CoreMap) : State × ScopeEnt :=
  let a := (field (s.hubR (pBase p + 0x20)) 6 46).toNat * 64 + 64 * (n - 8)
  let reg : Word := BitVec.ofNat 64 (a % 2 ^ 57 / 64 * 64)
  match shepherdRead s p (BitVec.ofNat 64 a) 8 with
  | (s, .ok [w0, w1, w2, w3, w4, w5, w6, w7]) =>
    if w7 ≠ 0 ∨ field w6 1 63 ≠ 0 ∨ !bitAt w6 0 then (s, { reg := reg })
    else (s, { reg := reg ||| 1, snap := (w5 ++ w4 ++ w3 ++ w2 ++ w1 ++ w0) &&& cores })
  | (s, _) => (s, { reg := reg })

/-- R384: loads the entries of a list of a holder from the partition's table; during a Rehang each keeps its former bits (R392). -/
def loadScopes (p holder : Nat) (cores : CoreMap) (keep : Bool) : List Nat → State → State
  | [], s => s
  | n :: r, s =>
    match tableScope s p n cores with
    | (s, e) =>
      let old := scopeEnt s holder n
      let e := if keep && bitAt old.reg 0 then { reg := e.reg ||| 1, snap := (old.snap ||| e.snap) &&& cores } else e
      loadScopes p holder cores keep r (setScopeEnt s holder n e)

/-- A holder's entries 8 to 31 are invalid again. -/
def clearScopes (s : State) (holder : Nat) : State :=
  { s with scopes := s.scopes.filter fun x => !(x.1 / 32 == holder) }

/-- Is a unit's holder another resident unit's too? Only the packs of a tenant share one (R198). -/
def holderShared (s : State) (u : Nat) : Bool := s.ctxs.any fun x => x.1 != u && x.2.live && holderOf s x.1 == holderOf s u

/-- R384, R392: the restore of a unit of a partition, or the load after a start. -/
def loadHolder (s : State) (p holder : Nat) : State :=
  let keep := match s.rehang with
    | some r => r.part == p
    | none => false
  loadScopes p holder (partCores s p) keep (rangeFrom 8 24) s

/-- R384, R392: the start of a unit: what earlier work left in its holder is none of its own. -/
def startHolder (s : State) (p u : Nat) : State :=
  loadHolder (if holderShared s u then s else clearScopes s (holderOf s u)) p (holderOf s u)

/-- The holders of a partition that are resident: those of its units, and the host cores it owns (R198). -/
def partHolders (s : State) (p : Nat) : List Nat :=
  (((s.ctxs.filter fun x => x.2.live && (x.2.part == some p || (kindOf x.1 == .host && hostOwner s (coreOf x.1) == some p))).map
    fun x => holderOf s x.1)).eraseDups

/-- The holder of a unit of R379, where it has one. -/
def PUnit.holder (p : Nat) : PUnit → Option Nat
  | .host i => some (unitId i 0)
  | .simt i => some ((64 + i) * 128 + 64 + p)
  | .ctx i j => some (unitId (256 + i) j)
  | .ma _ | .ve _ | .rt _ | .set _ _ => none

/-- R384, R391: the saved entries of a holder as the table gives them now. -/
def reloadSaved (p : Nat) (keep : Bool) (cores : CoreMap) :
    List (Nat × Word × CoreMap) → State → State × List (Nat × Word × CoreMap)
  | [], s => (s, [])
  | e :: r, s =>
    match tableScope s p e.1 cores with
    | (s, t) =>
      match reloadSaved p keep cores r s with
      | (s, es) =>
        (s, (if keep && bitAt e.2.1 0 then (e.1, t.reg ||| 1, (e.2.2 ||| t.snap) &&& cores) else (e.1, t.reg, t.snap)) :: es)

/-- The saved images, those of the partition with their entries reloaded. -/
def reloadImages (p : Nat) (keep : Bool) (cores : CoreMap) : List Saved → State → State × List Saved
  | [], s => (s, [])
  | v :: r, s =>
    match (if v.part = p then reloadSaved p keep cores v.scopes s else (s, v.scopes)) with
    | (s, es) =>
      match reloadImages p keep cores r s with
      | (s, vs) => (s, { v with scopes := es } :: vs)

/-- R391, step 5: every holder of the partition, resident or saved, reloads entries 8 to 31. -/
def reloadScopes (s : State) (p : Nat) (keep : Bool) (cores : CoreMap) : State :=
  let s := (partHolders s p).foldl (fun s h => loadScopes p h cores keep (rangeFrom 8 24) s) s
  match reloadImages p keep cores s.saved s with
  | (s, vs) => { s with saved := vs }

/-! ### REHASH and COMMIT -/

/-- R390, step 1: every die whose slice set changes takes the planned set, and keeps the former one in L2OLD. -/
def beginRehash (s : State) (p : Nat) (plan : BitVec 2048) : State :=
  (rangeFrom 1 6).foldl (fun s site =>
    let old := s.winR site (0x100000 + 8 * p)
    if old = planSlices plan site then s
    else setL2 (s.setWin site (0x100080 + 8 * p) old) site p (planSlices plan site)) s

/-- What the slices of a bitmap hold on a die, as slice and line: of every kind (R151, R149, R163, R160). -/
def heldIn (s : State) (site : Nat) (slices : Word) : List (Nat × Nat) :=
  ((s.mem.ncf.filterMap fun x => if x.site = site then some (x.slice, x.line) else none) ++
   (s.mem.rem.filterMap fun x => if x.site = site then some (x.slice, x.line) else none) ++
   (s.mem.dir.filterMap fun h => if h.agent = site + 1 then some (h.slice, h.line) else none) ++
   (s.mem.partials.filterMap fun x => if x.agent = site + 1 then some (x.slice, x.line) else none)).eraseDups.filter fun x =>
    slices.toNat.testBit x.1

/-- R390, step 5: the walk of a die's former slices: each line whose new slice differs is moved, or else written back and invalidated. -/
def walkDie (s : State) (p site : Nat) (old : Word) : State :=
  let moves (s : State) : List (Nat × Nat) := (heldIn s site old).filter fun x => sliceFor s site (some p) (64 * x.2) != some x.1
  let s := (moves s).foldl (fun s x => rehashLine s site (some p) (64 * x.2)) s
  (moves s).foldl (fun s x => sliceEvict s site x.1 x.2) s

/-- R390, steps 5 and 6: the walk of the former slices. -/
def walkSlices (s : State) (p : Nat) : State :=
  (rangeFrom 1 6).foldl (fun s site =>
    let old := s.winR site (0x100080 + 8 * p)
    if old = 0 then s else (walkDie s p site old).setWin site (0x100080 + 8 * p) 0) s

/-- The core a unit stands on, where it has one. -/
def PUnit.core : PUnit → Option Nat
  | .host i => some i
  | .simt i => some (64 + i)
  | .ctx i _ | .ma i | .ve i | .rt i => some (256 + i)
  | .set _ _ => none

/-- Drops every translation of a VMID on the cores of a list (R391, step 4). -/
def dropVmid (s : State) (vmid : BitVec 16) (cores : List Nat) : State :=
  dropEntries s fun h => h.vmid == vmid && cores.contains h.core

/-- R380: VMID of a partition's units. -/
def partVmid (s : State) (p : Nat) : BitVec 16 := field (s.hubR (pBase p + 0x10)) 16 16

/-- The interleave sets among units. -/
def setsAmong (us : List PUnit) : List (Bool × Nat) := us.filterMap fun u => match u with
  | .set lp k => some (lp, k)
  | _ => none

/-- R391, step 6: every tenant entry of the partition takes the weight. -/
def setWeights (s : State) (p w : Nat) : State :=
  (rangeFrom 64 192).foldl (fun s c => match tenantOf s c p with
    | some e => setTenant s c e (some p) w
    | none => s) s

/-- R385, R387: a phase is entered: PSTATE.PHASE and the entry's PHASE field show it. -/
def enterPhase (s : State) (p entry n : Nat) : State :=
  (homeWrite (dirDrop (poolMeter (setHubF s (pBase p) 4 3 n) entry) (lineOf entry)) (entry + 3) [BitVec.ofNat 8 n] none).1

/-- R391, step 4: a core keeps no data of work that has ended there: the registers of contexts that hold nothing now, the shadow context's
among them, and the Canvas lines outside every live allocation. A host core that the partition owns keeps no register of the partition's
work (R198); another host core's own values are none of a launch's (R361). What a shadow context holds while it serves another partition is
that partition's (`shadowCtx`). -/
def wipeCore (p : Nat) (s : State) (core : Nat) : State :=
  if core < Config.simtBase then
    (if hostOwner s core = some p then s.setCtx (unitId core 0) { s.ctx (unitId core 0) with gpr := [] } else s)
  else
    let k := s.core core
    let used (a : Nat) : Bool := (rangeFrom 0 4).any fun j =>
      let x := s.ctx (unitId core j)
      x.live && decide (x.cbase ≤ a) && decide (a < x.cbase + x.csize)
    let s := { s with ctxs := s.ctxs.filter fun x => !(coreOf x.1 == core && !x.2.live) }
    s.setCore core { k with
      canvas := k.canvas.filter fun x => used x.1
      cdesc := k.cdesc.filter fun x => used (64 * x.1)
      cpoison := k.cpoison.filter fun x => used (64 * x.1) }

/-- R391: COMMIT. A saved task's Canvas left its core with it (R373), and its slots were spilled. -/
def commitRehang (s : State) (r : Rehang) : State :=
  let s := enterPhase s r.part r.entry 5
  let s := walkSlices s r.part
  let leaving := leavingUnits s r.part r.plan
  let sets := setsAmong leaving
  let s := sets.foldl (fun s x => freeUnit s (.set x.1 x.2) r.part) s
  let s := zeroSets s sets
  let s := dropVmid s (partVmid s r.part) (leaving.filterMap PUnit.core)
  let s := (leaving.filterMap PUnit.core).eraseDups.foldl (wipeCore r.part) s
  let s := (leaving.filterMap (PUnit.holder r.part)).foldl clearScopes s
  let rest := leaving.filter fun u => (setsAmong [u]).isEmpty
  let s := reloadScopes s r.part false (partCores (rest.foldl (fun s u => freeUnit s u r.part) s) r.part)
  let s := if planWeight r.plan = 0 then s else setWeights s r.part (planWeight r.plan)
  let s := rest.foldl (fun s u => freeUnit s u r.part) s
  let s := setHubF s (pBase r.part) 4 3 0
  finishEntry { s with rehang := none } 0x840 r.entry 1

/-- R393: a Rehang abandoned by a reset: joining sets are zeroed, joining units freed, and the command fails. -/
def abandonRehang (s : State) (r : Rehang) : State :=
  let s := zeroSets s (setsAmong r.joined)
  let s := r.joined.foldl (fun s u => freeUnit s u r.part) s
  let s := setHubF s (pBase r.part) 4 3 0
  finishEntry { s with rehang := none } 0x840 r.entry 7

end Sys2Proof.Machine
end

