-- ==== Sys2Proof/Machine/Quiesce.lean ====
section
/-! DEFINITION. The reset of one partition: the fabric quiesce and its eight steps (R377, R378), with a Rehang of the partition settled
as R393 lays down. -/

namespace Sys2Proof.Machine

/-- Does a unit run work of a partition's launches? -/
def workOf (p : Nat) (c : Ctx) : Bool := c.live && c.part == some p && c.launch.isSome

/-- R378, steps 2 and 5: one unit stops, nothing of it is saved, and its storage is zeroed. -/
def stopUnit (p : Nat) (s : State) (u : Nat) : State :=
  let c := s.ctx u
  let core := coreOf u
  let s := match c.launch with
    | some l => (match s.launch l with
        | some x => s.setLaunch l (some { x with lastAgent := agentOfCore core })
        | none => s)
    | none => s
  match kindOf u with
  | .host => { s.setCtx u (Sparse.get (fun _ => ({} : Ctx)) s.former u) with former := Sparse.erase s.former u }
  | .pack =>
    let s := match c.block with
      | some b => s.setBlock b none
      | none => s
    setCarve (dropReserve (s.setCtx u {}) u) core
  | .ctl =>
    let k := freeSlots (dropLeash (s.core core) (u % 128)) (field c.accsave 0 8)
    let inCanvas (a : Nat) : Bool := decide (c.cbase ≤ a) && decide (a < c.cbase + c.csize)
    let k := { k with
      canvas := k.canvas.filter fun x => !inCanvas x.1
      cdesc := k.cdesc.filter fun x => !inCanvas (64 * x.1)
      cpoison := k.cpoison.filter fun x => !inCanvas (64 * x.1) }
    (s.setCore core k).setCtx u {}
  | .shadow => if c.part = some p then s.setCtx u {} else s

/-- R378, step 5: the slots that still bear tags of the partition's tasks are zeroed and freed on every core. -/
def freePartSlots (s : State) (p : Nat) : State :=
  { s with cores := s.cores.map fun x =>
      (x.1, (x.2.tagctx.filter fun t => t.part == some p).foldl (fun k t => freeSlots k (BitVec.ofNat 8 t.tag)) x.2) }

/-- R378, step 6: a launch or a waiting packet completes with an error: the fault event, the decrement, the completion event. -/
def completeWithError (s : State) (p q agent : Nat) (cause : BitVec 8) (signal : Word) : State :=
  let s := presentEvent s 2 agent cause (some p) q 0
  let s := decrementSignal s p signal
  presentEvent s 1 agent cause (some p) q signal

/-- R341: the partition a queue belongs to. -/
def queuePart (s : State) (q : Nat) : Nat := hubF s (0x4000 + 8 * q) 1 4

/-- R378, step 6, for every started launch. Where no unit of it has ended, R33 names no agent: AGENT is 0 (log 45). -/
def failLaunches (s : State) (p : Nat) (cause : BitVec 8) : State :=
  (s.launches.filterMap fun x => match x.2 with
    | some l => if l.part = p then some (x.1, l) else none
    | none => none).foldl (fun s x => completeWithError (s.setLaunch x.1 none) p x.2.queue x.2.lastAgent cause (pkSignal x.2.packet)) s

/-- R378, step 6, for every barrier packet that waits for its signals, and every packet that has not started. -/
def failQueues (s : State) (p : Nat) (cause : BitVec 8) : State :=
  let mine := s.depWait.filter fun x => queuePart s x.1 == p
  let s := { s with depWait := s.depWait.filter fun x => queuePart s x.1 != p }
  let s := mine.foldl (fun s x => completeWithError s p x.1 0 cause (pkSignal x.2.packet)) s
  (s.queues.filter fun x => queuePart s x.1 == p).foldl
    (fun s x => x.2.foldl (fun s w => completeWithError s p x.1 0 cause (pkSignal w.packet)) (s.setQueue x.1 [])) s

/-- R378, steps 1 to 3: units stop, their blocks and cohorts vanish, saved units are dropped, engine faults waiting are forgotten. -/
def stopAll (s : State) (p : Nat) : State :=
  let s := setHubF s (fBase p + 0x20) 1 1 1
  let us := (s.ctxs.filter fun x => workOf p x.2 || (kindOf x.1 == .shadow && x.2.part == some p)).map (·.1)
  let s := us.foldl (stopUnit p) s
  let gone := (s.launches.filterMap fun x => match x.2 with
    | some l => if l.part = p then some x.1 else none
    | none => none)
  { s with
    saved := s.saved.filter fun v => v.part != p
    blocks := s.blocks.filter fun x => match x.2 with
      | some b => !gone.contains b.launch
      | none => true
    cohorts := s.cohorts.filter fun x => match x.2 with
      | some c => !gone.contains c.launch
      | none => true }

/-- R378, steps 4 to 8. `reason` is PCTL.REASON. -/
def finishReset (s : State) (p reason : Nat) : State :=
  let cause : BitVec 8 := if reason = 2 then cWATCHDOG else 0
  let s := freePartSlots (settleCaches s p) p
  let s := failQueues (failLaunches s p cause) p cause
  let s := dropEntries s fun h => h.vmid == partVmid s p
  let s := setHubF (setHubF (s.setPart p {}) (fBase p + 0x20) 1 1 0) (fBase p + 0x20) 8 8 reason
  presentTo s [16, p] 4 0 0 (some p) 0 (s.hubR (fBase p + 0x20))

/-- R377, R378, R393: resets a partition. A reset requested while one is in progress has no further effect. -/
def resetPartition (s : State) (p reason : Nat) : State :=
  if pQuiesce s p then s
  else
    match s.rehang with
    | some r =>
      if r.part = p then
        (if pPhase s p ≤ 3 then finishReset (stopAll (abandonRehang s r) p) p reason
         else finishReset (commitRehang (stopAll s p) r) p reason)
      else finishReset (stopAll s p) p reason
    | none => finishReset (stopAll s p) p reason

end Sys2Proof.Machine
end

