-- ==== Sys2Proof/Machine/Sites.lean ====
section
/-! DEFINITION. Boot, enumeration, isolation and attestation (R18 to R30, R35 to R38): the sites' state machine and its events. -/

namespace Sys2Proof.Machine

/-- Outcomes of the model's meanings. -/
abbrev Out := Host.Outcome State Fault Refusal

/-! ### The capability table (R20) -/

/-- One step of CRC-32 (IEEE 802.3, reflected) over a byte. -/
def crcByte (c : BitVec 32) (b : Byte) : BitVec 32 :=
  (rangeFrom 0 8).foldl (fun c _ => if bitAt c 0 then (c >>> 1) ^^^ 0xEDB88320 else c >>> 1) (c ^^^ b.setWidth 32)

/-- CRC-32 of bytes. -/
def crc32 (bs : List Byte) : BitVec 32 := ~~~ (bs.foldl crcByte 0xFFFFFFFF)

/-- R20: does the hub accept the table of a site? -/
def tableOk (n : Nat) (t : BitVec 2048) : Bool :=
  field t 0 32 == 0x57434150 && field t 32 8 == 0x06 && fieldNat t 40 4 == classOfSite n && field t 2016 32 == crc32 (toBytes t 252)

/-- MEAS. -/
def tableMeas (t : BitVec 2048) : BitVec 384 := field t 768 384
/-- FEATOFF word `j`. -/
def tableFeat (t : BitVec 2048) (j : Nat) : Word := field t (256 + 64 * j) 64

/-! ### States of a site (R25, R26) -/

/-- Sets bits of SITECTL. -/
def setSiteBits (s : State) (n lo w v : Nat) : State := setHubF s (siteCtl n) lo w v

/-- R26, R37: moves a site to a state; a change of state is an event of kind 0x05. -/
def moveSite (s : State) (n st : Nat) : State :=
  let s := setSiteBits s n 0 3 st
  presentEvent s 5 0 0 none 0 (s.hubR (siteCtl n))

/-- R30: FEATACC of a class is frozen once a site of the class has been RUNNING. -/
def featFrozen (s : State) (cls : Nat) : Bool := (rangeFrom 0 8).any fun n => classOfSite n == cls && (s.site n).granted

/-- R29: does an offer lack a bit that FEATACC holds? -/
def lacksFeature (s : State) (cls : Nat) (t : BitVec 2048) : Bool :=
  (rangeFrom 0 8).any fun j => s.hubR (0x200 + 64 * cls + 8 * j) &&& ~~~ (tableFeat t j) != 0

/-- BOOTST: the last stage completed. -/
def bootStage (s : State) (n : Nat) : State := setHubF s 0x10 0 8 n
/-- BOOTST: the stage that failed. -/
def bootFail (s : State) (n : Nat) : State := setHubF s 0x10 8 8 n
/-- R35: has boot stopped? -/
def bootStopped (s : State) : Bool := hubF s 0x10 8 8 != 0

/-- R18: the default class of a site. -/
def defaultClass (n : Nat) : Nat := if n ≤ 2 then 0 else if n ≤ 6 then 2 else 1

/-- R18: the classes a site accepts. -/
def classAccepted (n c : Nat) : Bool :=
  if n = 0 then c == 0 else if n ≤ 2 then c == 0 || c == 1 else if n ≤ 6 then c == 2 || c == 1 else c == 1

/-! ### Commands and events -/

/-- Discards everything a chiplet's own caches and TLBs hold. -/
def dropChiplet (s : State) (n : Nat) : State :=
  s.setMem { s.mem with
    l1 := s.mem.l1.filter fun x => siteOfCore x.core != n
    code := s.mem.code.filter fun x => siteOfCore x.core != n
    tlb := s.mem.tlb.filter fun x => !(decide (x.core < 384) && siteOfCore x.core == n)
    ncf := s.mem.ncf.filter fun x => x.site != n
    rem := s.mem.rem.filter fun x => x.site != n
    dir := s.mem.dir.filter fun x => x.agent != n + 1
    partials := s.mem.partials.filter fun x => x.agent != n + 1 }

/-- Poisons a line at home (R28, R162). -/
def poisonLine (s : State) (line : Nat) : State :=
  match homeKey s (64 * line) with
  | some key => s.setMem (putPoison s.mem key true)
  | none => s

/-- R28, R162: a site is lost with what it holds: M and O lines and lines with partials are poisoned, dirty NCF bytes are lost. -/
def loseSite (s : State) (n : Nat) : State :=
  let owned := (s.mem.dir.filter fun h => h.agent == n + 1 && (h.st == .m || h.st == .o)).map (·.line)
  let parts := (s.mem.partials.filter fun x => x.agent == n + 1).map (·.line)
  let s := (owned ++ parts).eraseDups.foldl poisonLine s
  s.setMem { s.mem with
    ncf := s.mem.ncf.filter fun x => x.site != n
    rem := s.mem.rem.filter fun x => x.site != n
    dir := s.mem.dir.filter fun x => x.agent != n + 1
    partials := s.mem.partials.filter fun x => x.agent != n + 1 }

/-- Has a partition blocks, tasks or control contexts resident on the site's cores (R27)? -/
def residentOn (s : State) (p n : Nat) : Bool :=
  s.ctxs.any fun x => x.2.live && x.2.part == some p && siteOfCore (coreOf x.1) == n && kindOf x.1 != .host

/-- Does a Rehang of the partition join or leave a unit of the site, a slice included (R393)? -/
def rehangOn (s : State) (p n : Nat) : Bool :=
  match s.rehang with
  | some r => r.part == p && (r.dies.contains n || (r.joined ++ leavingUnits s p r.plan).any fun u => match u.core with
      | some c => siteOfCore c == n
      | none => false)
  | none => false

/-- R393: the units of a partition on a site, its slices included, are freed. -/
def freeSiteUnits (n : Nat) (s : State) (p : Nat) : State :=
  let here (u : PUnit) : Bool := match u.core with
    | some c => siteOfCore c == n
    | none => false
  let s := (allUnits.filter fun u => holdsUnit s p u && here u).foldl (fun s u => freeUnit s u p) s
  if 1 ≤ n ∧ n ≤ 6 then setL2 s n p 0 else s

/-- R27: the start of a drain: partitions with work there are reset, partials are gathered, clean copies leave the directory. -/
def startDrain (s : State) (n : Nat) : State :=
  let hit := (rangeFrom 0 16).filter fun p => rehangOn s p n
  let s := ((rangeFrom 0 16).filter fun p => residentOn s p n || rehangOn s p n).foldl (fun s p => resetPartition s p 4) s
  let s := hit.foldl (freeSiteUnits n) s
  let s := gatherLines s ((s.mem.partials.filter fun x => x.agent == n + 1).map (·.line)).eraseDups
  s.setMem { s.mem with dir := s.mem.dir.filter fun h => !(h.agent == n + 1 && (h.st == .e || h.st == .s)) }

/-- R26: ISO. -/
def siteIsoOp (s : State) (n : Nat) : State :=
  let st := siteState s n
  if st = 1 ∨ st = 2 then moveSite s n 5
  else if st = 3 then
    let s := s.setSite n { s.site n with drainStart := some s.cycles }
    startDrain (moveSite s n 4) n
  else s

/-- R26: RST. The units, core storage and caches of the chiplet do not survive its reset; its window registers, slice ports, rings and scope
entries keep their values (log 43). -/
def siteRstOp (s : State) (n : Nat) : State :=
  if siteState s n = 5 then
    let cs := coresOfSite n
    let mine (c : Nat) : Bool := decide (cs.1 ≤ c) && decide (c < cs.1 + cs.2)
    let s := dropChiplet s n
    moveSite { s with
      ctxs := s.ctxs.filter fun x => !mine (coreOf x.1)
      cores := s.cores.filter fun x => !mine x.1
      former := s.former.filter fun x => !mine (coreOf x.1) } n 6
  else s

/-- The measurements the attestation key is derived from (R36): stage 1's, then each site's. -/
def measurements (s : State) : List (BitVec 384) := s.fwMeas :: (rangeFrom 0 8).map fun n => tableMeas (s.site n).table

/-- The digest of the measurements as they stand. -/
def measNow (s : State) : BitVec 384 := Config.measurementDigest s.fwMeas (measurements s)

/-- R36: the digest that this boot's attestation key is derived from. The key is derived at the first enumeration, which ends stage 2, once:
no later change of a site's table changes it (log 12). -/
def measDigest (s : State) : BitVec 384 := s.attMeas.getD (measNow s)

/-- R21, R23, R30: ENUM of a DESCRIBED site. Three points are the model's choice (log 43): a site first enumerated after a higher-numbered
one takes the block after all identifiers granted so far; with none left its block is empty and QBASE is 0; and once boot has
stopped (R35) no site is enumerated, though sites go on training. -/
def siteEnumOp (s : State) (n : Nat) : State :=
  if siteState s n ≠ 2 ∨ bootStopped s then s
  else
    let s := { s with attMeas := some (measDigest s) }
    let x := s.site n
    let t := x.table
    let want := 16 * fieldNat t 104 8
    let wl := fieldNat t 128 8
    let used := (rangeFrom 0 8).foldl (fun k m => k + hubF s (siteCtl m) 48 11) 0
    let s :=
      if x.granted then (if want > hubF s (siteCtl n) 48 11 ∨ wl > x.winlog then setSiteBits s n 10 1 1 else s)
      else
        let s := setSiteBits s n 16 8 (n + 1)
        let s := setSiteBits s n 32 10 (used % 1024)
        setSiteBits s n 48 11 (min want (1024 - used))
    let sel := hubF s (siteCtl n) 3 2
    let ok := classAccepted n sel && bitAt t (96 + sel)
    let cls := if ok then sel else defaultClass n
    let s := if ok then s else setSiteBits s n 10 1 1
    let s := (rangeFrom 0 8).foldl (fun s j =>
      let off := 0x200 + 64 * classOfSite n + 8 * j
      s.setHub off (s.hubR off &&& tableFeat t j)) s
    moveSite (s.setSite n { s.site n with cls := BitVec.ofNat 2 cls, granted := true, winlog := if x.granted then x.winlog else wl }) n 3

/-- R78, R148, R380: what hub firmware writes at boot: the sets, partition 0's slices and its units. -/
def bootWrites (s : State) : State :=
  let s := ((s.setHub 0x408 (BitVec.allOnes 64)).setHub 0x410 (BitVec.allOnes 64)).setHub 0x400 1
  let s := (s.setHub 0x608 0xFFFFFFFF).setHub 0x600 1
  let s := (rangeFrom 1 6).foldl (fun s n => s.setWin n 0x100000 (BitVec.allOnes 64)) s
  let s := (rangeFrom 0 8).foldl (fun s k => s.setHub (0x2C10 + 8 * k) 0x1010101010101010) s
  let s := setHubF (setHubF s 0x2C50 0 8 16) 0x2C60 0 8 16
  let s := (rangeFrom 0 128).foldl (fun s i => s.setHub (0x3000 + 8 * i) 0x0010101000000010) s
  (rangeFrom 0 192).foldl (fun s i => s.setHub (0x3400 + 16 * i) 0x1010) s

/-- R30: a write of FEATACC by hub firmware, before the class is frozen. -/
def featAccOp (s : State) (cls j : Nat) (v : Word) : State := if featFrozen s cls then s else s.setHub (0x200 + 64 * cls + 8 * j) v

/-- R35, R26, R30: package reset is released. `policy` is the feature policy of the firmware's signed image, by class and word. -/
def execPackageResetRelease (fwOk : Bool) (fwMeas : BitVec 384) (policy : List (List Word)) (s : State) : Out :=
  .next (
    if siteState s 0 ≠ 0 ∨ bootStopped s then s
    else if !fwOk then bootFail s 1
    else
      let s := bootWrites (bootStage { s with fwMeas := fwMeas } 1)
      let s := (rangeFrom 0 4).foldl (fun s c => (rangeFrom 0 8).foldl (fun s j =>
        featAccOp s c j ((policy.getD c []).getD j (BitVec.allOnes 64))) s) s
      (rangeFrom 0 8).foldl (fun s n => moveSite s n 1) s)

/-- R20, R29, R35: a site's link trains. `sigOk` and `digest` are what the firmware finds of the chiplet's image, `loaderOk` of the host
boot loader's signature (stage 3). Stage 2 counts as completed once site 0 is accepted, whatever the other sites do, and BOOTST is written
during boot alone, before site 0 is first enumerated (log 43). -/
def execLinkTrained (site : Nat) (table : BitVec 2048) (sigOk : Bool) (digest : BitVec 384) (loaderOk : Bool) (s : State) : Out :=
  .next (
    if siteState s site ≠ 1 ∨ 8 ≤ site then s
    else if !tableOk site table then moveSite (setSiteBits s site 8 1 1) site 5
    else if !sigOk || digest != tableMeas table then
      let s := moveSite (setSiteBits s site 9 1 1) site 5
      if site = 0 ∧ !(s.site 0).granted then bootFail s 2 else s
    else if featFrozen s (classOfSite site) && lacksFeature s (classOfSite site) table then moveSite (setSiteBits s site 10 1 1) site 5
    else
      let s := s.setSite site { s.site site with table := table }
      let s := if site = 0 ∧ !(s.site 0).granted then (if loaderOk then bootStage s 3 else bootFail (bootStage s 2) 3) else s
      moveSite s site 2)

/-- R26. -/
def execChipletResetComplete (site : Nat) (s : State) : Out :=
  .next (if siteState s site = 6 then moveSite s site 1 else s)

/-- R26, R28: the link of a RUNNING or DRAINING site fails. -/
def execSiteLinkFailure (site : Nat) (s : State) : Out :=
  .next (if siteState s site = 3 ∨ siteState s site = 4 then moveSite (loseSite s site) site 5 else s)

/-- The lines a site's slices hold that home has not been sent: dirty NCF lines. -/
def dirtyNcf (s : State) (n : Nat) : List NcfLine := s.mem.ncf.filter fun x => x.site == n && x.owes
/-- And the M and O lines of a FULL chiplet. -/
def dirtyOwned (s : State) (n : Nat) : List Holder := s.mem.dir.filter fun h => h.agent == n + 1 && (h.st == .m || h.st == .o)

/-- R27, step 3: every dirty byte of the site's slices is written back. -/
def drainSlices (s : State) (n : Nat) : State :=
  let s := (dirtyNcf s n).foldl ncfWriteBack s
  let s := writeOwned s (dirtyOwned s n)
  s.setMem { s.mem with
    ncf := s.mem.ncf.filter fun x => x.site != n
    rem := s.mem.rem.filter fun x => x.site != n
    dir := s.mem.dir.filter fun h => h.agent != n + 1 }

/-- R26: the drain of a site completes. -/
def execSiteDrainComplete (site : Nat) (s : State) : Out :=
  .next (if siteState s site = 4 then moveSite (drainSlices s site) site 5 else s)

/-- R27, R28: what of a site's dirty lines had reached home when the drain timed out is not stated: each line in turn is a free choice
(log 43). -/
def partDrain (s : State) : List NcfLine → State
  | [] => s
  | x :: r =>
    if Config.choice s.free % 2 = 0 then partDrain (ncfErase (ncfWriteBack s.takeFree x) x.site x.slice x.line) r else partDrain s.takeFree r

/-- The same of the M and O lines of a FULL chiplet: one that had been written back is recorded no longer, and is not poisoned. -/
def partOwned (s : State) : List Holder → State
  | [] => s
  | h :: r =>
    if Config.choice s.free % 2 = 0 then
      let t := writeOwned s.takeFree [h]
      partOwned (t.setMem { t.mem with dir := t.mem.dir.filter fun x => x != h }) r
    else partOwned s.takeFree r

/-- R26, R28: 1 ms of hub time has elapsed in DRAINING. -/
def execSiteDrainTimeout (site : Nat) (s : State) : Out :=
  .next (
    if siteState s site = 4 then
      let s := match (s.site site).drainStart with
        | some c => { s with cycles := max s.cycles (c + 2000000) }
        | none => s
      let s := partDrain s (dirtyNcf s site)
      let s := partOwned s (dirtyOwned s site)
      moveSite (loseSite (setSiteBits s site 11 1 1) site) site 5
    else s)

/-- R26: software writes ISO. -/
def execSiteIso (site : Nat) (s : State) : Out := .next (siteIsoOp s site)
/-- R26: software writes RST. -/
def execSiteRst (site : Nat) (s : State) : Out := .next (siteRstOp s site)
/-- R26: firmware or software writes ENUM. -/
def execSiteEnum (site : Nat) (s : State) : Out := .next (siteEnumOp s site)
/-- R30: hub firmware writes a FEATACC word. -/
def execFeatAccWrite (cls j : Nat) (v : Word) (s : State) : Out := .next (if cls < 4 ∧ j < 8 then featAccOp s cls j v else s)

/-! ### Attestation (R36 to R38) -/

/-- Digests and signature components stand in the byte order of their standards: most significant first. -/
def bigBytes {w : Nat} (x : BitVec w) (n : Nat) : List Byte := (toBytes x n).reverse

/-- Zero bytes. -/
def zeros (n : Nat) : List Byte := List.replicate n 0

/-- R38: is OUT an address a report may be written to? -/
def outOk (s : State) (a : Nat) : Bool := a % 4096 == 0 && (setOf s a).isSome

/-- Writes bytes of a 4 KiB-aligned buffer, 64 at a time. -/
def writeLines (s : State) (pa : Nat) (bs : List Byte) : Nat → State
  | 0 => s
  | n + 1 =>
    match bs with
    | [] => s
    | _ => writeLines (homeWrite (dirDrop s (lineOf pa)) pa (bs.take 64) none).1 (pa + 64) (bs.drop 64) n

/-- R38: bytes 0 to 831 of a report. A site that has not been enumerated has no class yet: its class byte is 0; one
whose table has never been accepted has MEAS 0 (log 43). -/
def reportBody (s : State) (w0 : Word) (nonce : List Byte) : List Byte :=
  let forPart := bitAt w0 12
  let p := if forPart then fieldNat w0 8 4 else 0
  toBytes (0x52544136 : BitVec 32) 4 ++ toBytes (1 : BitVec 16) 2 ++ [BitVec.ofNat 8 p, if forPart then 1 else 0] ++ nonce ++
  bigBytes s.fwMeas 48 ++
  (rangeFrom 0 8).flatMap (fun n =>
    bigBytes (tableMeas (s.site n).table) 48 ++
    [BitVec.ofNat 8 (siteState s n), BitVec.ofNat 8 (hubF s (siteCtl n) 16 8), BitVec.ofNat 8 (cohClass s n)] ++ zeros 5) ++
  (rangeFrom 0 32).flatMap (fun k => toBytes (s.hubR (0x200 + 8 * k)) 8) ++
  toBytes (s.hubR 8) 8 ++ toBytes (BitVec.ofNat 64 (s.seq - 1)) 8 ++ toBytes (if forPart then s.hubR (pBase p) else 0) 8

/-- The ring of attestation commands. -/
def attRing : Nat := 0x6A40

/-- The entry the hub takes next from a command ring stands at that address: else the command is not there. -/
def ringHeadAt (s : State) (ring size entry : Nat) : Bool :=
  !ringEmpty s ring && ringEntry s ring size (ringHead s ring) == entry

/-- A command of the ATTCMD ring: `op` is the operation the row stands for; an operation no row stands for completes
with BADCMD. -/
def attCommand (s : State) (entry : Nat) (op : Nat) (body : State → Word → List Byte) : State :=
  if !ringHeadAt s attRing 128 entry then s
  else
    let s := gatherSpan s entry 2
    let w0 := entryWord s entry 0
    let out := (entryWord s entry 1).toNat
    let o := fieldNat w0 0 8
    if o ≠ op then (if 1 ≤ o ∧ o ≤ 3 then s else finishEntry s attRing entry 6)
    else if !outOk s out then finishEntry s attRing entry 2
    else finishEntry (writeLines s out (body s w0) 80) attRing entry 1

/-- The nonce of an entry. -/
def entryNonce (s : State) (entry : Nat) : List Byte := (rangeFrom 2 6).flatMap fun i => toBytes (entryWord s entry i) 8

/-- R37, R38: OP 1. -/
def execAttestationReport (entry : Nat) (s : State) : Out :=
  .next (attCommand s entry 1 fun s w0 =>
    let b := reportBody s w0 (entryNonce s entry)
    let sig := Config.attestationSignature (measDigest s) b
    b ++ bigBytes (field sig 384 384) 48 ++ bigBytes (field sig 0 384) 48 ++ zeros 96)

/-- R36, R38: OP 2. -/
def execAttestationKeyCertificate (entry : Nat) (s : State) : Out :=
  .next (attCommand s entry 2 fun s _ =>
    let key := Config.attestationKey (measDigest s)
    let b := bigBytes (field key 384 384) 48 ++ bigBytes (field key 0 384) 48 ++ bigBytes (measDigest s) 48
    let sig := Config.identitySignature b
    b ++ bigBytes (field sig 384 384) 48 ++ bigBytes (field sig 0 384) 48 ++ zeros 784)

/-- R36, R38: OP 3. -/
def execDeviceIdentityCertificate (entry : Nat) (s : State) : Out :=
  .next (attCommand s entry 3 fun _ _ =>
    let c := Config.identityCertificate.take 4096
    toBytes (BitVec.ofNat 32 c.length) 4 ++ c)

end Sys2Proof.Machine
end

