-- ==== Sys2Proof/Machine/Regs.lean ====
section
/-! DEFINITION. Writes to the hub register block and to the registers of chiplet windows: the write rule of R19, the access codes of R15,
and the effects the registers' own rules give a write. -/

namespace Sys2Proof.Machine

/-- R19: who may write. -/
def writerAccepted : Writer → Bool
  | .firmware => true
  | .host m => m != 0
  | .other => false

/-- R381, R409: who may write the registers of hypervisor mode. -/
def writerHyper : Writer → Bool
  | .firmware => true
  | .host m => m == 2
  | .other => false

/-- The register with the bits of `mask` written. -/
def mergeBits (old v mask : Word) : Word := (old &&& ~~~ mask) ||| (v &&& mask)

/-- Writes the bits of `mask`. -/
def putBits (s : State) (off : Nat) (v mask : Word) : State := s.setHub off (mergeBits (s.hubR off) v mask)

/-- The mask of `n` bits from `lo`. -/
def maskAt (lo n : Nat) : Word := BitVec.ofNat 64 ((2 ^ n - 1) * 2 ^ lo)

/-- Writes a field if its value is admitted. -/
def putField (s : State) (off : Nat) (v : Word) (lo n : Nat) (ok : Nat → Bool) : State :=
  if ok (fieldNat v lo n) then setHubF s off lo n (fieldNat v lo n) else s

/-- A number from `lo` to `hi`. -/
def between (lo hi n : Nat) : Bool := decide (lo ≤ n) && decide (n ≤ hi)

/-! ### Pre-emption requests (R366) -/

/-- A pre-emption request reaches a unit. -/
def preemptUnit (s : State) (u : Nat) : State :=
  let c := s.ctx u
  if c.preempt.isSome then s else s.setCtx u { c with preempt := some s.hubTime }

/-- R366: requests pre-emption of every resident unit of a partition's launches. -/
def preemptPartition (s : State) (p : Nat) : State :=
  ((s.ctxs.filter fun x => workOf p x.2 && kindOf x.1 != .shadow).map (·.1)).foldl preemptUnit s

/-! ### Interleave sets (R77, R78, R81) -/

/-- Do two ranges overlap? -/
def overlaps (a n b m : Nat) : Bool := decide (a < b + m) && decide (b < a + n)

/-- R78: must an enable of a set be refused? -/
def setRefused (s : State) (lp : Bool) (k : Nat) : Bool :=
  let chs := setChannels s lp k
  let base := setBase s lp k
  let len := setLen s lp k
  chs.isEmpty || decide ((if lp then 2 ^ 41 else 2 ^ 40) < base + len) ||
  (rangeFrom 0 16).any fun j => j != k && setEnabled s lp j &&
    ((setChannels s lp j).any (fun c => chs.contains c) || overlaps base len (setBase s lp j) (setLen s lp j))

/-- R78, R81: a write of a set's control register. -/
def setCtlWrite (s : State) (lp : Bool) (k : Nat) (v : Word) : State :=
  let off := setCtl lp k
  if setEnabled s lp k then (if bitAt v 0 then s else setHubF s off 0 1 0)
  else
    let s := setHubF s off 30 10 (fieldNat v 30 10)
    if !bitAt v 0 then s
    else if setRefused s lp k then setHubF s 0x7C0 48 1 1
    else setHubF s off 0 1 1

/-! ### Rings (R34, R82) -/

/-- A write of one of a ring's four registers: `hubProduces` for the event rings and MIGREQ. -/
def ringWrite (s : State) (base idx : Nat) (v : Word) (hubProduces events : Bool) : State :=
  if idx = 0 then
    (if !ringEmpty s base then s
     else
       let s := putBits s base v (maskAt 12 40)
       if events then setHubF s (base + 8) 32 16 0 else s)
  else if idx = 1 then (if ringEmpty s base then putField s (base + 8) v 0 4 (between 4 15) else s)
  else if idx = 2 then (if hubProduces then putBits s (base + 0x10) v (maskAt 0 32) else s)
  else if hubProduces then s else putBits s (base + 0x18) v (maskAt 0 32)

/-! ### Single registers -/

/-- R85: MIGCTL. -/
def migctlWrite (s : State) (v : Word) : State :=
  let base := hubF s 0x708 28 24 * 2 ^ 28
  let inNear := match setOf s base with
    | some (false, k) => decide (base + 2 ^ 28 ≤ setBase s false k + setLen s false k)
    | _ => false
  let en := bitAt v 0 && (hubF s 0x700 0 1 == 1 || inNear)
  setHubF (putBits s 0x700 v (maskAt 1 1 ||| maskAt 8 8 ||| maskAt 16 4 ||| maskAt 32 16)) 0x700 0 1 (if en then 1 else 0)

/-- R89: POOLCTL. -/
def poolctlWrite (s : State) (v : Word) : State :=
  let s := if hubF s 0x780 0 1 = 1 then s else setHubF s 0x780 1 1 (fieldNat v 1 1)
  if bitAt v 0 then setHubF (setHubF s 0x780 2 1 0) 0x780 0 1 1 else setHubF s 0x780 0 1 0

/-- R107, R108: LEASECTL. -/
def leasectlWrite (s : State) (v : Word) : State :=
  let old := hubF s 0x800 0 32
  if s.hubTime < s.mem.pendEnd ∨ !between 1000 1000000 (fieldNat v 0 32) then s
  else
    let s := setHubF s 0x800 0 32 (fieldNat v 0 32)
    s.setMem { s.mem with oldLmax := old, pendEnd := s.hubTime + old }

/-- R332: PWRCTL. -/
def pwrctlWrite (s : State) (v : Word) : State :=
  let s := putField s 0xA00 v 0 16 (between 1000 3200)
  let s := putBits s 0xA00 v (maskAt 16 16)
  let s := putField s 0xA00 v 32 16 (between (hubF s 0xA00 0 16) 3600)
  putField s 0xA00 v 48 8 (between 1 100)

/-! ### Operating points (R350, R351) -/

/-- Arithmetic clock of a point in units of 12.5 MHz. -/
def arithClock (c f r : Nat) : Nat := if c < 64 then 2 * f else if r = 0 then f else if r = 1 then 2 * f else 4 * f

/-- CORECTL's offset. -/
def corectl (c : Nat) : Nat := 0x1000 + 8 * c

/-- R351: the lesser of the request, CEIL and any thermal cap. -/
def pointFreq (s : State) (c : Nat) : Nat :=
  let f := min (hubF s (corectl c) 8 8) (hubF s (corectl c) 48 8)
  if hubF s (corectl c) 41 1 = 1 then min f (hubF s (0xA80 + 8 * siteOfCore c) 32 8) else f

/-- R351: the table's voltage for a point. -/
def pointVolt (c f r : Nat) : Nat := Config.voltage c (arithClock c f r)

/-- The voltage now. -/
def voltNow (s : State) (c : Nat) : Nat :=
  match (s.core c).volt with
  | some v => v
  | none => pointVolt c (hubF s (corectl c) 32 8) (s.core c).ratio

/-- R351: the request that FREQ, RATIO, CEIL and the thermal cap make. A lower one takes effect at once, a higher one when the voltage
has settled; each supersedes every earlier one. -/
def requestPoint (s : State) (c : Nat) : State :=
  let f := pointFreq s c
  let r := if c < 64 then 1 else hubF s (corectl c) 0 2
  let cur := hubF s (corectl c) 32 8
  let k := s.core c
  let v := voltNow s c
  if f ≤ cur ∧ arithClock c f r ≤ arithClock c cur k.ratio then
    let s := setHubF s (corectl c) 32 8 f
    let s := setHubF s (corectl c) 40 1 (if v = pointVolt c f r then 0 else 1)
    s.setCore c { k with ratio := r, pending := none, volt := some v }
  else setHubF (s.setCore c { k with pending := some (f, r), volt := some v }) (corectl c) 40 1 1

/-- The cores of a site. -/
def coresAt (n : Nat) : List Nat := rangeFrom (coresOfSite n).1 (coresOfSite n).2

/-- R352: a write of THERM: while the throttle is engaged a new TFREQ is a new cap, and so a new request for every core of the die. -/
def thermWrite (s : State) (n : Nat) (v : Word) : State :=
  let off := 0xA80 + 8 * n
  let t := putField (putField s off v 0 8 (between 60 110)) off v 32 8 (between 20 80)
  if hubF t off 16 1 = 1 ∧ hubF t off 32 8 ≠ hubF s off 32 8 then (coresAt n).foldl requestPoint t else t

/-- R350: a write of CORECTL. -/
def corectlWrite (s : State) (c : Nat) (v : Word) : State :=
  let s :=
    if c < 64 then putField s (corectl c) v 8 8 (between 40 120)
    else putField (putField (putField s (corectl c) v 0 2 (between 0 2)) (corectl c) v 8 8 (between 20 80)) (corectl c) v 16 16 (between 1536 4096)
  requestPoint s c

/-! ### Ownership (R380, R381) -/

/-- The owner fields of an ownership register, by first bit and width (a tenant entry's weight is part of it). -/
def ownerFields (off : Nat) : List (Nat × Nat) :=
  if 0x3400 ≤ off then [(0, 16), (16, 16), (32, 16), (48, 16)]
  else if 0x3000 ≤ off then [(0, 8), (8, 8), (16, 8), (24, 8), (32, 8), (40, 8), (48, 8)]
  else [(0, 8), (8, 8), (16, 8), (24, 8), (32, 8), (40, 8), (48, 8), (56, 8)]

/-- Does a field name an enabled partition? -/
def namesEnabled (s : State) (f : Nat) : Bool := match ownerOf (f % 256) with
  | some p => pEnabled s p
  | none => false

/-- A list names no partition twice. -/
def noTwice (l : List (Option Nat)) : Bool :=
  let ps := l.filterMap id
  ps.eraseDups.length == ps.length

/-- R381: must the write of an ownership register be ignored whole? `v` has its RES bits cleared. -/
def ownershipRefused (s : State) (off : Nat) (v : Word) : Bool :=
  let old := s.hubR off
  (ownerFields off).any (fun f =>
    let a := fieldNat old f.1 f.2
    let b := fieldNat v f.1 f.2
    a != b && (namesEnabled s a || namesEnabled s b)) ||
  (if 0x3400 ≤ off then
    let other := s.hubR (if off % 16 = 0 then off + 8 else off - 8)
    let es := (rangeFrom 0 4).map fun e => ownerOf (fieldNat v (16 * e) 8)
    let os := (rangeFrom 0 4).map fun e => ownerOf (fieldNat other (16 * e) 8)
    !noTwice (es ++ os) || (rangeFrom 0 4).any fun e => (ownerOf (fieldNat v (16 * e) 8)).isSome && fieldNat v (16 * e + 8) 8 == 0
   else if 0x3000 ≤ off then !noTwice ((rangeFrom 0 4).map fun j => ownerOf (fieldNat v (8 * j) 8))
   else false)

/-- The writable bits of an ownership register. -/
def ownershipMask (off : Nat) : Word :=
  if 0x3400 ≤ off then 0xFF1FFF1FFF1FFF1F else if 0x3000 ≤ off then 0x001F1F1F1F1F1F1F else 0x1F1F1F1F1F1F1F1F

/-- R380, R381: a write of an ownership register. -/
def ownershipOp (s : State) (off : Nat) (v : Word) : State :=
  if off = 0x2C70 then putBits s off v (maskAt 0 32)
  else
    let v := v &&& ownershipMask off
    if ownershipRefused s off v then s else s.setHub off v

/-! ### Partitions' registers (R361, R375, R383, R396, R397) -/

/-- Does a partition have a unit resident or saved? -/
def partBusy (s : State) (p : Nat) : Bool := s.ctxs.any (fun x => workOf p x.2) || s.saved.any (fun v => v.part == p)

/-- Does a packet wait in a queue of the partition? -/
def partQueued (s : State) (p : Nat) : Bool := s.queues.any fun x => !x.2.isEmpty && queuePart s x.1 == p

/-- R396: PAUSE is set. During a Rehang of the partition it takes effect after the command (R393). -/
def pauseOp (s : State) (p : Nat) : State :=
  let s := setHubF s (pBase p) 2 1 1
  if pPhase s p = 0 then preemptPartition s p else s

/-- R396, R397: PAUSE is cleared: guest time is settled before any unit is restored. During a Rehang of the partition a pause has had no effect
yet, so there is none to end (R393). -/
def resumeOp (s : State) (p : Nat) : State :=
  if pPhase s p ≠ 0 then setHubF s (pBase p) 2 1 0
  else
  let was := pPaused s p
  let s := setHubF (setHubF s (pBase p) 2 1 0) (pBase p) 3 1 0
  let s := { s with ctxs := s.ctxs.map fun x => if workOf p x.2 then (x.1, { x.2 with preempt := none, draining := false, flash := none }) else x }
  if was ∧ s.hubR (fBase p + 0x38) ≠ BitVec.allOnes 64 then
    s.setHub (fBase p + 0x28) (s.hubR (fBase p + 0x30) + s.hubR (fBase p + 0x38) - BitVec.ofNat 64 s.hubTime)
  else s

/-- R383: PSTATE. -/
def pstateWrite (s : State) (p : Nat) (v : Word) : State :=
  if !bitAt v 0 && pEnabled s p && (partQueued s p || partBusy s p || pPhase s p != 0) then s
  else
    let s := setHubF s (pBase p) 0 1 (fieldNat v 0 1)
    let s := if bitAt v 1 then (if ttbEn (s.hubR (pBase p + 0x18)) then setHubF s (pBase p) 1 1 1 else s) else setHubF s (pBase p) 1 1 0
    if bitAt v 2 && !pPause s p then pauseOp s p
    else if !bitAt v 2 && pPause s p then resumeOp s p
    else s

/-- R361, R397: the registers of a partition's R361 block. -/
def faultRegWrite (s : State) (p idx : Nat) (v : Word) (w : Writer) : State :=
  let off := fBase p + 8 * idx
  if idx = 0 then putBits s off v (maskAt 16 48)
  else if idx = 1 then putBits s off v (maskAt 3 61)
  else if idx = 2 then (if writerHyper w then putBits s off v (maskAt 16 48) else s)
  else if idx = 3 then (if writerHyper w then putBits s off v (maskAt 3 61) else s)
  else if idx = 4 then
    let s := putField s off v 16 16 (between 10 10000)
    let s := putBits s off v (maskAt 32 16)
    if bitAt v 0 then resetPartition s p 5 else s
  else if writerHyper w && (pPaused s p || !pGuest s p) then s.setHub off v
  else s

/-- R383, R375: the registers of a partition's R383 block. -/
def partRegWrite (s : State) (p idx : Nat) (v : Word) (w : Writer) : State :=
  let off := pBase p + 8 * idx
  if !writerHyper w then s
  else if idx = 0 then pstateWrite s p v
  else if idx = 5 then putBits s off v (maskAt 0 32)
  else if idx = 6 then (if partBusy s p then s else putBits s off v (maskAt 12 40))
  else if idx = 7 then (if partBusy s p then s else putBits s off v (maskAt 0 32))
  else if pEnabled s p then s
  else if idx = 1 ∨ idx = 3 then putBits s off v (maskAt 0 1 ||| maskAt 12 40)
  else if idx = 2 then putBits s off v (maskAt 0 32)
  else if idx = 4 then putBits s off v (maskAt 6 46)
  else s.setHub off v

/-- R410: is a task of the partition that holds a spill index resident or saved? -/
def spillLive (s : State) (p : Nat) : Bool :=
  s.ctxs.any (fun x => workOf p x.2 && x.2.spillIdx.isSome) || s.saved.any (fun v => v.part == p && v.ctx.spillIdx.isSome)

/-- R341: QCTL. -/
def qctlWrite (s : State) (q : Nat) (v : Word) : State :=
  let off := 0x4000 + 8 * q
  let busy := !(s.queue q).isEmpty || s.launches.any (fun x => match x.2 with
    | some l => l.queue == q
    | none => false)
  putBits s off v (if busy then maskAt 0 1 ||| maskAt 5 3 else maskAt 0 8)

/-- R25, R26: SITECTL. When a write sets more than one command bit, ISO alone acts. -/
def sitectlWrite (s : State) (n : Nat) (v : Word) : State :=
  let s := putField s (siteCtl n) v 3 2 (between 0 2)
  let s := s.setHub (siteCtl n) (s.hubR (siteCtl n) &&& ~~~ (v &&& maskAt 8 4))
  if bitAt v 5 then siteIsoOp s n
  else if bitAt v 6 && !bitAt v 7 then siteRstOp s n
  else if bitAt v 7 && !bitAt v 6 then siteEnumOp s n
  else s

/-- A write the hub accepts to its register block, at an offset that is a multiple of 8. One of FEATACC from the host, which R30 does not
accept, is ignored and completes as a write to a read-only register does (log 43). -/
def hubWriteReg (s : State) (off : Nat) (v : Word) (w : Writer) : State :=
  if off = 0x8 then putBits s off v (maskAt 0 6)
  else if 0x100 ≤ off ∧ off < 0x140 then sitectlWrite s ((off - 0x100) / 8) v
  else if 0x200 ≤ off ∧ off < 0x300 then
    (if w = .firmware then featAccOp s ((off - 0x200) / 64) (off % 64 / 8) v else s)
  else if 0x400 ≤ off ∧ off < 0x600 then
    let k := (off - 0x400) / 32
    if off % 32 = 0 then setCtlWrite s false k v
    else if off % 32 = 24 ∨ setEnabled s false k then s
    else s.setHub off v
  else if 0x600 ≤ off ∧ off < 0x700 then
    let k := (off - 0x600) / 16
    if off % 16 = 0 then setCtlWrite s true k v
    else if setEnabled s true k then s
    else putBits s off v (maskAt 0 32)
  else if off = 0x700 then migctlWrite s v
  else if off = 0x708 then putBits s off v (maskAt 28 24)
  else if 0x720 ≤ off ∧ off < 0x740 then ringWrite s 0x720 ((off - 0x720) / 8) v true false
  else if 0x740 ≤ off ∧ off < 0x760 then ringWrite s 0x740 ((off - 0x740) / 8) v false false
  else if off = 0x780 then poolctlWrite s v
  else if off = 0x788 then putBits s off v (maskAt 0 24 ||| maskAt 32 32)
  else if 0x7A0 ≤ off ∧ off < 0x7C0 then ringWrite s 0x7A0 ((off - 0x7A0) / 8) v false false
  else if off = 0x7C0 then s.setHub off (s.hubR off &&& ~~~ (v &&& maskAt 48 1))
  else if off = 0x800 then leasectlWrite s v
  else if 0x820 ≤ off ∧ off < 0x840 then ringWrite s 0x820 ((off - 0x820) / 8) v false false
  else if 0x840 ≤ off ∧ off < 0x860 then ringWrite s 0x840 ((off - 0x840) / 8) v false false
  else if off = 0xA00 then pwrctlWrite s v
  else if 0xA48 ≤ off ∧ off < 0xA78 then putField s off v 0 16 (between 1 65535)
  else if 0xA88 ≤ off ∧ off < 0xAB8 then thermWrite s ((off - 0xA80) / 8) v
  else if 0xB00 ≤ off ∧ off < 0xB80 then putBits s off v (maskAt 0 3)
  else if off = 0xB80 then
    let s := putField s off v 0 16 (between 100 65535)
    putField s off v 16 16 (between 10 (hubF s off 0 16 / 2))
  else if 0xC00 ≤ off ∧ off < 0x1000 then faultRegWrite s ((off - 0xC00) / 64) (off % 64 / 8) v w
  else if 0x1000 ≤ off ∧ off < 0x1C00 then corectlWrite s ((off - 0x1000) / 8) v
  else if (0x2C10 ≤ off ∧ off < 0x2C78) ∨ (0x3000 ≤ off ∧ off < 0x4000) then (if writerHyper w then ownershipOp s off v else s)
  else if 0x4000 ≤ off ∧ off < 0x6000 then qctlWrite s ((off - 0x4000) / 8) v
  else if 0x6000 ≤ off ∧ off < 0x6800 then partRegWrite s ((off - 0x6000) / 128) (off % 128 / 8) v w
  else if 0x6800 ≤ off ∧ off < 0x6A20 then ringWrite s (off / 32 * 32) (off % 32 / 8) v true true
  else if 0x6A40 ≤ off ∧ off < 0x6A60 then ringWrite s 0x6A40 ((off - 0x6A40) / 8) v false false
  else if 0x6B00 ≤ off ∧ off < 0x6B80 then
    (if writerHyper w && !spillLive s ((off - 0x6B00) / 8) then putBits s off v (maskAt 23 41) else s)
  else s

/-! ### Chiplet windows (R148, R166, R340) -/

/-- R387, R390, R391: the slices of a die that a Rehang in progress of another partition than `p` keeps to itself: those reserved to join it,
and those that leave it, which are free at the end of COMMIT alone. -/
def reservedSlices (s : State) (site p : Nat) : Word :=
  match s.rehang with
  | some r => if r.part = p then 0 else planSlices r.plan site ||| ((r.former.find? fun x => x.1 == site).map (·.2)).getD 0
  | none => 0

/-- R148, R381, R387: a write of L2SET is ignored where it would overlap another partition's or a slice reserved to join one, and where the
partition is enabled, whose slices only Rehang changes; a bucket that comes to take part starts from 0 (R167). -/
def l2setOp (s : State) (site p : Nat) (v : Word) : State :=
  if pEnabled s p || reservedSlices s site p &&& v != 0 ||
      (rangeFrom 0 16).any fun q => q != p && (s.winR site (0x100000 + 8 * q) &&& v != 0) then s
  else setL2 s site p v

/-- A write the hub's rule accepts to a chiplet window. -/
def winWriteReg (s : State) (site off : Nat) (v : Word) : State :=
  let put (mask : Word) : State := s.setWin site off (mergeBits (s.winR site off) v mask)
  if site = 0 ∨ site = 7 then s
  else if 0x100000 ≤ off ∧ off < 0x100080 then l2setOp s site ((off - 0x100000) / 8) v
  else if 0x100100 ≤ off ∧ off < 0x100180 then put (maskAt 0 32)
  else if off = 0x100180 then put (maskAt 0 16)
  else if site ≤ 2 ∧ 0x100200 ≤ off ∧ off < 0x100500 then
    let x := mergeBits (s.winR site off) v (maskAt 32 17)
    s.setWin site off (if bitAt x 48 then x else setField x 16 7 64)
  else s

/-- One 8-byte write to a register address: an error completion leaves the register unchanged (R19). -/
def regWrite (s : State) (pa : Nat) (v : Word) (w : Writer) : State × Option (BitVec 8) :=
  if !writerAccepted w then (s, some cFABRIC)
  else
    match devOf s pa with
    | .hub off => (hubWriteReg s off v w, none)
    | .win site off => (winWriteReg s site off v, none)
    | .none => (s, some cFABRIC)

/-- The address of a hub register. -/
def hubAddr (off : Nat) : Nat := Config.hubBase + off
/-- The address of a register of a chiplet's window. -/
def winAddr (site off : Nat) : Nat := slotBase + site * 2 ^ 40 + off

/-! ### The events of the table -/

/-- R15, R19: software or firmware writes a register. -/
def execRegisterWrite (pa : Nat) (v : Word) (w : Writer) (s : State) : Out := .next (regWrite s (pa / 8 * 8) v w).1
/-- R34: a write of an event ring's BASE. -/
def execEvringBaseWrite (ring : Nat) (v : Word) (w : Writer) (s : State) : Out :=
  .next (if ring ≤ 16 then (regWrite s (hubAddr (ringBase ring)) v w).1 else s)
/-- R34: records that waited are written as room appears. -/
def execEventRingDrain (ring : Nat) (s : State) : Out := .next (drainRing s ring 64)
/-- R78: a write of a set's control register with EN set. -/
def execInterleaveSetEnable (lp : Bool) (k : Nat) (v : Word) (w : Writer) (s : State) : Out :=
  .next (if k < 16 then (regWrite s (hubAddr (setCtl lp k)) (v ||| 1) w).1 else s)
/-- R78: a write of a set's control register with EN clear. -/
def execInterleaveSetDisable (lp : Bool) (k : Nat) (v : Word) (w : Writer) (s : State) : Out :=
  .next (if k < 16 then (regWrite s (hubAddr (setCtl lp k)) (setField v 0 1 0) w).1 else s)
/-- R84, R85: a write of MIGCTL. -/
def execMigctlEn (v : Word) (w : Writer) (s : State) : Out := .next (regWrite s (hubAddr 0x700) v w).1
/-- R89: a write of POOLCTL. -/
def execPoolEn (v : Word) (w : Writer) (s : State) : Out := .next (regWrite s (hubAddr 0x780) v w).1
/-- R108: a write of LEASECTL. -/
def execLmaxWrite (v : Word) (w : Writer) (s : State) : Out := .next (regWrite s (hubAddr 0x800) v w).1
/-- R108: the former LMAX has elapsed: PEND reads 0 from now on. -/
def execLmaxPendEnd (s : State) : Out :=
  .next (if s.hubTime < s.mem.pendEnd then { s with cycles := 2 * s.mem.pendEnd } else s)
/-- R148: a write of L2SET. -/
def execL2setWrite (site p : Nat) (v : Word) (w : Writer) (s : State) : Out :=
  .next (if p < 16 ∧ site < 8 then (regWrite s (winAddr site (0x100000 + 8 * p)) v w).1 else s)
/-- R381: a write of an ownership register. -/
def execOwnershipWrite (off : Nat) (v : Word) (w : Writer) (s : State) : Out :=
  .next (if (0x2C10 ≤ off ∧ off < 0x2C78) ∨ (0x3000 ≤ off ∧ off < 0x4000) then (regWrite s (hubAddr (off / 8 * 8)) v w).1 else s)
/-- R383: a write of PSTATE that sets or clears EN; GUEST and PAUSE as they stand. -/
def execPstateEnWrite (p : Nat) (v : Word) (w : Writer) (s : State) : Out :=
  .next (if p < 16 then (regWrite s (hubAddr (pBase p)) (mergeBits (s.hubR (pBase p)) v 1) w).1 else s)
/-- R383: a write of PSTATE that sets or clears GUEST. -/
def execPstateGuestWrite (p : Nat) (v : Word) (w : Writer) (s : State) : Out :=
  .next (if p < 16 then (regWrite s (hubAddr (pBase p)) (mergeBits (s.hubR (pBase p)) v 2) w).1 else s)
/-- R377: a write of PCTL.RST. -/
def execPctlRst (p : Nat) (s : State) : Out := .next (if p < 16 then resetPartition s p 5 else s)
/-- R396: PAUSE is set. -/
def execPause (p : Nat) (s : State) : Out := .next (if p < 16 ∧ !pPause s p then pauseOp s p else s)
/-- R396: every unit of a pausing partition is saved: PAUSED, GSAVE and GJUMP are written (R397). -/
def execPauseComplete (p : Nat) (s : State) : Out :=
  .next (
    if pPause s p ∧ !pPaused s p ∧ pPhase s p = 0 ∧ !(s.ctxs.any fun x => workOf p x.2) then
      let s := setHubF s (pBase p) 3 1 1
      let s := s.setHub (fBase p + 0x30) (BitVec.ofNat 64 s.hubTime + s.hubR (fBase p + 0x28))
      s.setHub (fBase p + 0x38) (BitVec.allOnes 64)
    else s)
/-- R396, R397: PAUSE is cleared. -/
def execResume (p : Nat) (s : State) : Out := .next (if p < 16 ∧ pPause s p then resumeOp s p else s)

end Sys2Proof.Machine
end

