-- ==== Sys2Proof/Machine/Ops.lean ====
section
/-! DEFINITION. What instructions share: the register file with its banks, the gate of R55, R199 and R247, scopes, accesses of a unit
through translation, taking an exception (R358 to R364) and returning from one (R253), waits, tokens and side effects. -/

namespace Sys2Proof.Machine

/-! ### Registers of the acting unit -/

/-- R59, R247: register `n` as the context's mode sees it; `s0` reads zero. -/
def Ctx.reg (c : Ctx) (n : Nat) : Word :=
  if n = 0 then 0
  else if n < 56 ∨ c.mode = 0 then Sparse.get (fun _ => 0) c.gpr n
  else if c.mode = 1 then Sparse.get (fun _ => 0) c.supBank n
  else Sparse.get (fun _ => 0) c.hypBank n

/-- R59, R247: writes register `n` of the mode's bank; a write to `s0` is discarded. -/
def Ctx.setReg (c : Ctx) (n : Nat) (v : Word) : Ctx :=
  if n = 0 then c
  else if n < 56 ∨ c.mode = 0 then { c with gpr := Sparse.put (fun _ => 0) c.gpr n v }
  else if c.mode = 1 then { c with supBank := Sparse.put (fun _ => 0) c.supBank n v }
  else { c with hypBank := Sparse.put (fun _ => 0) c.hypBank n v }

/-- Scalar register `r` of the acting unit. -/
def State.rs (s : State) (r : SReg) : Word := s.me.reg r.toNat

/-- Writes scalar register `r` of the acting unit. -/
def State.ws (s : State) (r : SReg) (v : Word) : State := s.setMe (s.me.setReg r.toNat v)

/-- R39: the next instruction, 8 bytes on; a wait is over. -/
def State.advance (s : State) : State := s.setMe { s.me with pc := s.me.pc + 8, wait := .none }

/-- Continues at an address; a wait is over. -/
def State.jump (s : State) (t : Word) : State := s.setMe { s.me with pc := t, wait := .none }

/-- The instruction waits at its PC, and looks again when the unit next runs. -/
def State.stall (s : State) (w : Wait) : State := s.setMe { s.me with wait := w }

/-- The effect of an instruction that writes one scalar register. -/
def State.setS (s : State) (sd : SReg) (v : Word) : State := (s.ws sd v).advance

/-- R368: a side effect has committed. Host cores keep no point state (R257). -/
def State.dirtied (s : State) : State :=
  match kindOf s.cur with
  | .pack | .ctl => s.setMe { s.me with dirty := true }
  | _ => s

/-- A lane register of the acting pack. -/
def State.rv (s : State) (r lane : Nat) : W32 := Sparse.get (fun _ => 0) s.me.vreg (r * 64 + lane)

/-- The pair of lane registers from an even one, the even register in the low half (R58). -/
def State.rv64 (s : State) (r lane : Nat) : Word := s.rv (r + 1) lane ++ s.rv r lane

/-- Writes a lane register. -/
def Ctx.setLane (c : Ctx) (r lane : Nat) (v : W32) : Ctx := { c with vreg := Sparse.put (fun _ => 0) c.vreg (r * 64 + lane) v }

/-- Writes a pair of lane registers. -/
def Ctx.setLane64 (c : Ctx) (r lane : Nat) (v : Word) : Ctx := (c.setLane r lane (field v 0 32)).setLane (r + 1) lane (field v 32 32)

/-- R308: threads of a pack. -/
def Ctx.width (c : Ctx) : Nat := if c.narrow then 32 else 64

/-- R252: every enabled lane of a pack, as a mask. -/
def Ctx.enabled (c : Ctx) : Word := if c.narrow then 0xFFFFFFFF else BitVec.allOnes 64

/-- R16: the mask of the active lanes under mask field `sm`; 0 names no register. -/
def State.activeMask (s : State) (sm : SReg) : Word := if sm = 0 then s.me.enabled else s.rs sm &&& s.me.enabled

/-- R16: the active lanes, ascending. -/
def State.activeLanes (s : State) (sm : SReg) : List Nat := bitsOf (s.activeMask sm).toNat 64

/-! ### Scopes (R197 to R199) -/

/-- R198: the extent of an entry: 0 core, 1 chiplet, 2 package, 3 system. -/
def scopeExtent (s : State) (u n : Nat) : Nat :=
  if n ≤ 2 then 0 else if n ≤ 4 then 1 else if n = 5 ∨ n = 7 then 2 else if n = 6 then 3
  else
    let cs := bitsOf (scopeEnt s (holderOf s u) n).snap.toNat 384
    match cs with
    | [] => 0
    | c :: r => if r.all (fun d => d == c) then 0 else if r.all (fun d => siteOfCore d == siteOfCore c) then 1 else 2

/-- R199: why naming an entry faults. -/
def scopeFails (s : State) (u n : Nat) : Option Cause :=
  if n < 8 then none
  else
    let e := scopeEnt s (holderOf s u) n
    if !bitAt e.reg 0 then some (cSCOPE, 0)
    else if !bitAt e.snap (coreOf u) then some (cSCOPE, 1)
    else none

/-- R207: a scope of package or system extent. -/
def wideScope (s : State) (u n : Nat) : Bool := decide (2 ≤ scopeExtent s u n)

/-- R145: does an acquire at an entry discard the L1? -/
def acquireDrops (s : State) (u n : Nat) : Bool :=
  if n < 3 then false
  else if n < 8 then true
  else (bitsOf (scopeEnt s (holderOf s u) n).snap.toNat 384).any fun c => c != coreOf u

/-- R203, R145: the acquire part of an access or fence of the acting unit. -/
def acquirePoint (s : State) (n : Nat) : State := if acquireDrops s s.cur n then l1Clear s (coreOf s.cur) else s

/-- R214, R227: may a release at an entry be performed now? Every access of the model is performed in its step, so only the
invalidations outstanding at peers are waited for, at system scope. -/
def releaseReady (s : State) (n : Nat) : Bool := !systemScope n || acknowledged s

/-! ### Translation and accesses of a unit -/

/-- R97, R103: the tables and tags of a unit, in a mode. -/
def unitTrans (s : State) (u : Nat) (mode : BitVec 2) : TransCtx :=
  let c := s.ctx u
  { core := coreOf u, part := partOf s u, ttb1 := c.ttb1, ttb2 := c.ttb2, ctxid := c.ctxid, vmid := c.vmid, mode := mode }

/-- R101: checks an access of the acting unit; `plain` is true for scalar and lane loads, stores and atomics. -/
def checkVa (s : State) (k : AccKind) (plain : Bool) (va : Word) : State × Except Cause Trans :=
  translate s (unitTrans s s.cur s.me.mode) k plain va

/-- A request of the acting unit. -/
def State.req (s : State) (tr : Trans) (wide : Bool) : Req := { u := s.cur, part := partOf s s.cur, wide := wide, dev := tr.dev }

/-- A load of the acting unit at a translated address, within one line. -/
def loadAt (s : State) (tr : Trans) (n : Nat) (wide : Bool) : State × Except (BitVec 8) (List Byte) := physRead s (s.req tr wide) tr.pa n

/-- R19: as whom a unit writes registers. -/
def writerOf (s : State) (u : Nat) : Writer := if kindOf u = .host then .host (s.ctx u).mode else .other

/-- A store of the acting unit at a translated address, within one line. -/
def storeAt (s : State) (tr : Trans) (bs : List Byte) (wide : Bool) : State × Option (BitVec 8) :=
  if isDevice tr.pa then
    (if bs.length = 8 then regWrite s tr.pa (ofBytes 64 bs) (writerOf s s.cur) else (s, some cFABRIC))
  else physWrite s (s.req tr wide) tr.pa bs none

/-- R208, R225: one atomic access: `f` gives the new bytes, or none to write nothing. The old bytes are answered, and are what the core's
L1 holds of them from then on (R201). Registers implement no atomic (R19). It takes one port token (R167) and reaches home once, one to a
versioned region too, which home refuses (R92). -/
def atomicAt (s : State) (tr : Trans) (n : Nat) (wide : Bool) (f : List Byte → Option (List Byte)) :
    State × Except (BitVec 8) (List Byte) :=
  if isDevice tr.pa then (s, .error cFABRIC)
  else
    let r := { s.req tr wide with atom := true }
    if versionedAt s tr.pa then ((atHome (takeToken s r tr.pa) r tr.pa).1, .error cFABRIC)
    else
    let again := isRemote tr.pa || tr.dev || (liveRange s tr.pa).isSome || r.atHome s tr.pa || !sliceHolds s r tr.pa fun _ => true
    match physRead s { r with engine := true } tr.pa n with
    | (s', .error c) => (s', .error c)
    | (s', .ok old) =>
      match f old with
      | none => (l1Update s' (coreOf r.u) tr.pa old, .ok old)
      | some new =>
        match physWrite s' { r with paid := true, again := again } tr.pa new none with
        | (s'', none) => (s'', .ok old)
        | (s'', some c) => (s'', .error c)

/-! ### Fetch (R39 to R41) -/

/-- The lines of code a core holds words of. -/
def codeLines (s : State) (core : Nat) : List Nat :=
  (s.mem.code.filter fun x => x.core == core).foldl (fun l x => if l.contains (lineOf x.pa) then l else lineOf x.pa :: l) []

/-- R144: the instruction L1 of a host or control core holds 1,024 lines; a full one drops another's words: which, is not stated
(log 9). -/
def codeRoom (s : State) (core line : Nat) : State :=
  let held := codeLines s core
  if (decide (Config.simtBase ≤ core) && decide (core < Config.sysBase)) || decide (held.length < 1024) || held.contains line then s
  else
    let out := held.getD (Config.choice s.free % held.length) 0
    s.takeFree.setMem { s.mem with code := s.mem.code.filter fun x => !(x.core == core && lineOf x.pa == out) }

/-- R41: reads a code word at home; the core holds it from then on. -/
def fetchHome (s : State) (u pa : Nat) : State × Except Cause Word :=
  match homeLineFor s { u := u, part := partOf s u, engine := true } pa with
  | (s, .error c) => (s, .error (c, 0))
  | (s, .ok l) =>
    let w := ofBytes 64 (lineBytes l.1 pa 8)
    let s := codeRoom s (coreOf u) (lineOf pa)
    (s.setMem { s.mem with
      code := ⟨coreOf u, pa, w⟩ :: s.mem.code.filter fun x => !(x.core == coreOf u && x.pa == pa) }, .ok w)

/-- R40, R41: fetches the word at a virtual address for a unit in a mode. A core may still hold the word as it once fetched it (log 9). -/
def fetchWord (s : State) (u : Nat) (mode : BitVec 2) (va : Word) : State × Except Cause Word :=
  match translate s (unitTrans s u mode) .fetch true va with
  | (s, .error c) => (s, .error c)
  | (s, .ok tr) =>
    match s.mem.code.find? fun x => x.core == coreOf u && x.pa == tr.pa with
    | some x => if Config.fetchKeeps s.free then (s.takeFree, .ok x.word) else fetchHome s.takeFree u tr.pa
    | none => fetchHome s u tr.pa

/-- R40, R364: fetches an instruction at a virtual address: both words of a long one. -/
def fetchWhole (s : State) (u : Nat) (mode : BitVec 2) (va : Word) : State × Except Cause Unit :=
  match fetchWord s u mode va with
  | (s, .error c) => (s, .error c)
  | (s, .ok w) =>
    if !isLongFirst w then (s, .ok ())
    else
      match fetchWord s u mode (va + 8) with
      | (s, .error c) => (s, .error c)
      | (s, .ok _) => (s, .ok ())

/-! ### Taking an exception (R358 to R364) -/

/-- One entry of the per-lane arrays of a fault record. -/
structure LaneFault where
  lane : Nat
  cause : Cause
  addr : Word
  deriving DecidableEq, Repr

/-- What a fault record says besides what the entry itself knows (R362, R363). -/
structure Trap where
  cause : Cause
  addr : Word := 0
  late : Bool := false
  /-- EPC and the trap's return are the next instruction: a late fault of a write, and TRAP -/
  after : Bool := false
  kind : Nat
  lanes : Word
  perLane : List LaneFault := []
  maskreg : Nat := 0
  trapno : Nat := 0
  /-- mode in which it was taken: for records, that of the pushing context -/
  frm : BitVec 2
  word : Word := 0
  queue : Nat := 0
  tag : Nat := 0
  otag : Nat := 0
  slot : Nat := 0
  done : Nat := 0
  record : Rec512 := 0
  deriving DecidableEq, Repr

/-- R358: the mode a fault enters. -/
def enteredMode (mode : BitVec 2) (c : Cause) : BitVec 2 :=
  if c = (cNOTPRESENT, 2) ∨ c = (cPERM, 5) ∨ mode = 2 then 2 else 1

/-- Writes 8-bit entries into a 512-bit array. -/
def byteArray (l : List (Nat × BitVec 8)) : Rec512 := l.foldl (fun x e => setElem x 1 e.1 e.2.toNat) 0

/-- R362: the eight lines of the record ahead of its engine block, then the rest: 16 lines of 64 bytes. -/
def recordLines (t : Trap) (pc : Word) : List Rec512 :=
  let head : Word := BitVec.ofNat 64
    (t.cause.1.toNat + 2 ^ 8 * t.cause.2.toNat + (if t.late then 2 ^ 16 else 0) + 2 ^ 20 * t.kind + 2 ^ 24 * t.maskreg +
     2 ^ 30 * t.frm.toNat + 2 ^ 32 * t.trapno)
  let l0 : Rec512 := (0 : BitVec 192) ++ t.word ++ t.addr ++ t.lanes ++ head ++ pc
  let l1 := byteArray (t.perLane.map fun e => (e.lane, e.cause.1))
  let addrLine (k : Nat) : Rec512 :=
    t.perLane.foldl (fun x e => if e.lane / 8 = k then setElem x 8 (e.lane % 8) e.addr.toNat else x) 0
  let subs := byteArray (t.perLane.map fun e => (e.lane, e.cause.2))
  let eng : Word := BitVec.ofNat 64 (t.queue + 2 ^ 8 * t.tag + 2 ^ 16 * t.otag + 2 ^ 32 * t.slot)
  let l11 : Rec512 := (0 : BitVec 384) ++ BitVec.ofNat 64 t.done ++ eng
  [l0, l1] ++ (rangeFrom 0 8).map addrLine ++ [subs, l11, t.record, 0, 0, 0]

/-- Writes the lines of a record from a translated address; true where every line was written. -/
def writeRecordLines (s : State) (r : Req) (pa : Nat) : List Rec512 → State × Bool
  | [] => (s, true)
  | l :: rest =>
    match physWrite s r pa (toBytes l 64) none with
    | (s, none) => writeRecordLines s r (pa + 64) rest
    | (s, some _) => (s, false)

/-- The exception registers of a mode. -/
def Ctx.exc (c : Ctx) (m : BitVec 2) : ExcRegs := if m = 2 then c.hyp else c.sup

/-- Replaces them. -/
def Ctx.setExc (c : Ctx) (m : BitVec 2) (e : ExcRegs) : Ctx := if m = 2 then { c with hyp := e } else { c with sup := e }

/-- R364: the entry cannot be completed: the unit's partition is reset with REASON 1, and the unit, where it belongs to no launch, stops
(log 22). -/
def failEntry (s : State) (u : Nat) : State :=
  let s := match partOf s u with
    | some p => resetPartition s p 1
    | none => s
  if (s.ctx u).live ∧ (s.ctx u).launch.isNone then s.setCtx u { s.ctx u with live := false } else s

/-- R360: what an entry leaves in the unit, once its record is written. -/
def enterCtx (c : Ctx) (forRecord : Bool) (m : BitVec 2) (t : Trap) : Ctx :=
  let e := c.exc m
  let pc := if forRecord then 0 else c.pc
  let cause : Word := BitVec.ofNat 64 (t.cause.1.toNat + 2 ^ 8 * t.cause.2.toNat + (if t.late then 2 ^ 16 else 0) + 2 ^ 32 * t.trapno)
  let c := c.setExc m { e with epc := if forRecord then 0 else if t.after then c.pc + 8 else c.pc, cause := cause, faddr := t.addr }
  let c := { c with pmode := c.mode, mode := m, wait := .none }
  { ((c.setReg 56 t.lanes).setReg 57 e.frbase).setReg 58 pc with pc := e.fhandler }

/-- R252, R360, R364: a unit takes an exception: the record is written at FRBASE of the entered mode, the state of the unit is saved
there, and the unit continues at FHANDLER. -/
def enterTrap (s : State) (u : Nat) (m : BitVec 2) (t : Trap) : State :=
  let c := s.ctx u
  let e := c.exc m
  let forRecord := decide (4 ≤ t.kind ∧ t.kind ≤ 6)
  if e.fhandler = 0 then failEntry s u
  else
    match translate s (unitTrans s u m) .write false e.frbase with
    | (s, .error _) => failEntry s u
    | (s, .ok tr) =>
      if isDevice tr.pa then failEntry s u
      else
        match writeRecordLines s { u := u, part := partOf s u, dev := tr.dev } tr.pa
            (recordLines t (if forRecord then 0 else c.pc)) with
        | (s, false) => failEntry s u
        | (s, true) =>
          match fetchWhole s u m e.fhandler with
          | (s, .error _) => failEntry s u
          | (s, .ok _) => s.setCtx u (enterCtx c forRecord m t)

/-- R252, R363: LANES of a fault of an S- or E-class instruction or a fetch. -/
def State.unitLanes (s : State) : Word := if kindOf s.cur = .pack then s.me.enabled else 1

/-- R360: a precise or late fault of a scalar or engine instruction of the acting unit (KIND 1). -/
def trapScalar (s : State) (c : Cause) (addr : Word) (late after : Bool) : State :=
  enterTrap s s.cur (enteredMode s.me.mode c)
    { cause := c, addr := addr, late := late, after := after, kind := 1, lanes := s.unitLanes, perLane := [⟨0, c, addr⟩], frm := s.me.mode,
      word := s.word }

/-- A precise fault of a scalar instruction. -/
def trapS (s : State) (c : Cause) (addr : Word) : State := trapScalar s c addr false false

/-- R363: ILLEGAL, PRIV or SCOPE of a lane instruction: the cause in every active lane. -/
def trapAllLanes (s : State) (sm : SReg) (c : Cause) : State :=
  enterTrap s s.cur (enteredMode s.me.mode c)
    { cause := c, kind := 0, lanes := s.activeMask sm, perLane := (s.activeLanes sm).map fun l => ⟨l, c, 0⟩, maskreg := sm.toNat,
      frm := s.me.mode, word := s.word }

/-- The mask of the lanes named. -/
def lanesMask (l : List LaneFault) : Word := BitVec.ofNat 64 (l.foldl (fun n e => n ||| 2 ^ e.lane) 0)

/-- R102, R358: the mode that a fault of several lanes enters: hypervisor mode where any of them failed in stage 2, since the record names
every failing lane and a guest observes no such failure (log 49); else the mode that the summary's cause enters. -/
def enteredLanes (mode : BitVec 2) (l : List LaneFault) (c : Cause) : BitVec 2 :=
  if l.any fun e => e.cause == (cNOTPRESENT, 2) || e.cause == (cPERM, 5) then 2 else enteredMode mode c

/-- R359, R363: the failing lanes of a lane instruction, ascending; the lowest gives the summary. Every failing lane is recorded. -/
def trapLanes (s : State) (sm : SReg) (l : List LaneFault) (late after : Bool) : State :=
  match l with
  | [] => s
  | e :: _ =>
    enterTrap s s.cur (enteredLanes s.me.mode l e.cause)
      { cause := e.cause, addr := e.addr, late := late, after := after, kind := 0, lanes := lanesMask l, perLane := l, maskreg := sm.toNat,
        frm := s.me.mode, word := s.word }

/-! ### The gate of an instruction (R55 to R59, R199, R247) -/

/-- What an instruction needs before its own checks. -/
structure Gate where
  host : Bool := true
  ctl : Bool := true
  shadow : Bool := true
  pack : Bool := true
  feats : List Nat := []
  /-- new in WIS-6 (R57) -/
  new6 : Bool := false
  /-- lane registers it names: the first and how many -/
  regs : List (Nat × Nat) := []
  /-- an odd register stands where a pair, octet, block or address pair is named -/
  odd : Bool := false
  priv : Bool := false
  scope : Option Nat := none
  deriving DecidableEq, Repr

/-- Does the kind of context execute it? -/
def Gate.kindOk (g : Gate) : Kind → Bool
  | .host => g.host
  | .ctl => g.ctl
  | .shadow => g.shadow
  | .pack => g.pack

/-- R58: does a register named lie at or above the allocation? -/
def Gate.overAlloc (g : Gate) (alloc : Nat) : Bool := g.regs.any fun r => decide (alloc < r.1 + r.2)

/-- R55: the cause that stops the instruction before its own checks, ILLEGAL first, then PRIV, then SCOPE. -/
def gateCause (s : State) (g : Gate) : Option Cause :=
  let c := s.me
  if !g.kindOk (kindOf s.cur) then some (cILLEGAL, 4)
  else if g.feats.any fun f => !hasFeature s s.cur f then some (cILLEGAL, 0)
  else if g.overAlloc c.vregs then some (cILLEGAL, 1)
  else if g.new6 && c.narrow then some (cILLEGAL, 2)
  else if g.odd then some (cILLEGAL, 3)
  else if g.priv && c.mode == 0 then some (cPRIV, 0)
  else
    match g.scope with
    | some n => scopeFails s s.cur n
    | none => none

/-- R395: a refusal reported with subcause 0 because the guest's mask alone removes a feature is counted. -/
def gateCount (s : State) (g : Gate) (c : Cause) : State :=
  if c = (cILLEGAL, 0) ∧ (g.feats.filter fun f => !hasFeature s s.cur f).all (maskedFeature s s.cur) then countMasked s s.cur else s

/-- Runs a scalar or engine instruction's own effect behind its gate. -/
def gated (s : State) (g : Gate) (body : State → State) : State :=
  match gateCause s g with
  | some c => trapS (gateCount s g c) c 0
  | none => body s

/-! ### Tokens and issue (R326 to R329, R337) -/

/-- R308, R219: a full pack's price, halved and rounded up in narrow mode. -/
def Ctx.price (c : Ctx) (full : Nat) : Nat := if c.narrow then (full + 1) / 2 else full

/-- R327, R334, R337: may the acting pack issue at a price? -/
def canPay (s : State) (price : Nat) : Bool :=
  let k := s.core (coreOf s.cur)
  price == 0 || (decide (price ≤ k.tokens) && (k.reserve == none || k.reserve == some s.cur))

/-- R337: the acting pack waits to issue: from when its price exceeds COUNT, the core knows of it; a request for a reservation keeps its price
(R329). -/
def waitTokens (s : State) (price : Nat) : State :=
  let c := s.me
  let k := s.core (coreOf s.cur)
  let needs := if k.tokens < price then some (c.needs.getD (price, s.cycles)) else if k.reserveq.contains s.cur then c.needs else none
  s.setMe { c with wait := .issue, needs := needs }

/-- R327, R329: debits the price: the core's COUNT falls, the pack's TOKSPENT rises, a reservation of the pack ends with its hunger. -/
def debit (s : State) (price : Nat) : State :=
  if price = 0 then s
  else
    let c := coreOf s.cur
    let k := s.core c
    let s := s.setCore c { k with tokens := k.tokens - price }
    let s := if k.reserve = some s.cur then nextReserve s c else s
    s.setMe { s.me with tokspent := s.me.tokspent + BitVec.ofNat 64 price, needs := none }

/-- R55, R56, R327: runs a lane instruction. With an all-zero mask it is not issued and raises nothing (where lane instructions execute);
ILLEGAL and PRIV come before issue; a wide one waits for its price, which stands even where it then faults. -/
def laneGated (s : State) (g : Gate) (sm : SReg) (price : Nat) (body : State → State) : State :=
  let g := { g with host := false, ctl := false, shadow := false }
  if kindOf s.cur = .pack ∧ s.activeMask sm = 0 then s.advance
  else
    match gateCause s { g with scope := none } with
    | some c => trapAllLanes (gateCount s g c) sm c
    | none =>
      if !canPay s (s.me.price price) then waitTokens s (s.me.price price)
      else
        let s := debit s (s.me.price price)
        match gateCause s g with
        | some c => trapAllLanes s sm c
        | none => body s

/-! ### Returning from an exception (R253) -/

/-- R253: what ERET leaves in the unit: the mode of PMODE, at EPC. -/
def leaveCtx (c : Ctx) : Ctx := { c with mode := c.pmode, pc := (c.exc c.mode).epc, wait := .none }

/-! ### The end address (R314) -/

/-- R314: transfers control: in user mode, a transfer to the end address asks the unit to end. -/
def endsUnit (s : State) (t : Word) : Bool := s.me.mode == 0 && t == Config.endAddress && s.me.launch.isSome

end Sys2Proof.Machine
end

