-- ==== Sys2Proof/Machine/Flags.lean ====
section
/-! DEFINITION. Conditions: what comparisons compute, in scalar registers and over the lanes of a pack (R45, R237, R264, R269). -/

namespace Sys2Proof.Machine

/-- A scalar compare writes 0 or 1 (R236). -/
def flag {n : Nat} (b : Bool) : BitVec n := if b then 1 else 0

/-- R45, R264: an integer condition. -/
def condInt (c : Cond) (x y : Int) : Bool :=
  match c with
  | .eq => decide (x = y)
  | .ne => decide (x ≠ y)
  | .lt => decide (x < y)
  | .le => decide (x ≤ y)
  | .gt => decide (y < x)
  | .ge => decide (y ≤ x)
  | .un => false
  | .or => true

/-- R45, R269: a float condition; NE holds for unordered operands. -/
def condFloat (c : Cond) (x y : Val) : Bool :=
  match c, cmpVal x y with
  | .un, o => o.isNone
  | .or, o => o.isSome
  | .ne, o => o != some .eq
  | .eq, o => o == some .eq
  | .lt, o => o == some .lt
  | .le, o => o == some .lt || o == some .eq
  | .gt, o => o == some .gt
  | .ge, o => o == some .gt || o == some .eq

/-- R241, R264: the mask of the lanes among `ls` for which `f` holds. -/
def maskOf (ls : List Nat) (f : Nat → Bool) : Word := BitVec.ofNat 64 (ls.foldl (fun n l => if f l then n ||| 2 ^ l else n) 0)

/-- R241: what BZ and BNZ test: in narrow mode the low half only. -/
def maskTest (narrow : Bool) (v : Word) : Word := if narrow then v &&& 0xFFFFFFFF else v

end Sys2Proof.Machine
end

