-- ==== Sys2Proof/Machine/Operands.lean ====
section
/-! DEFINITION. Operand forms: the W bit (R236), immediates, branch targets (R244), effective addresses (R215, R221), the values of lane
registers by type (R229), and what the size codes give. -/

namespace Sys2Proof.Machine

/-- R236: an operation at 64 bits, or at 32 with its result sign-extended. -/
def atWidth (w : Bool) (f : (n : Nat) → BitVec n → BitVec n → BitVec n) (a b : Word) : Word :=
  if w then (f 32 (a.setWidth 32) (b.setWidth 32)).signExtend 64 else f 64 a b

/-- An operation of one operand, the same way. -/
def atWidth1 (w : Bool) (f : (n : Nat) → BitVec n → BitVec n) (a : Word) : Word :=
  if w then (f 32 (a.setWidth 32)).signExtend 64 else f 64 a

/-- The R form: `sd` := f(`sa`, `sb`). -/
def aluR (f : (n : Nat) → BitVec n → BitVec n → BitVec n) (w : Bool) (sd sa sb : SReg) (s : State) : State :=
  s.setS sd (atWidth w f (s.rs sa) (s.rs sb))

/-- The I40 form: `sd` := f(`sa`, sext(imm40)). -/
def aluI (f : (n : Nat) → BitVec n → BitVec n → BitVec n) (w : Bool) (sd sa : SReg) (imm : BitVec 40) (s : State) : State :=
  s.setS sd (atWidth w f (s.rs sa) (imm.signExtend 64))

/-- R239: a shift by an immediate amount. -/
def aluShift (f : (n : Nat) → BitVec n → BitVec n → BitVec n) (w : Bool) (sd sa : SReg) (amt : BitVec 6) (s : State) : State :=
  s.setS sd (atWidth w f (s.rs sa) (amt.setWidth 64))

/-- The unary form. -/
def alu1 (f : (n : Nat) → BitVec n → BitVec n) (w : Bool) (sd sa : SReg) (s : State) : State := s.setS sd (atWidth1 w f (s.rs sa))

/-- R244: the target of a displacement. -/
def target {n : Nat} (s : State) (disp : BitVec n) : Word := s.me.pc + disp.signExtend 64 * 8

/-- R215, R221: the indexed address. -/
def eaIndex (s : State) (k : BitVec 2) (sa sb : SReg) : Word := s.rs sa + (s.rs sb <<< k.toNat)

/-- R215, R221: the address with an immediate. -/
def eaImm (s : State) (sa : SReg) (imm : BitVec 32) : Word := s.rs sa + imm.signExtend 64

/-- R222: what a load writes. -/
def extended (sx : Bool) (bs : List Byte) : Word :=
  let n := 8 * bs.length
  if sx then (ofBytes n bs).signExtend 64 else ofBytes 64 bs

/-- R229: a lane's value of a type: 64-bit types in a pair. -/
def State.laneVal (s : State) (t : ETy) (r : LReg) (lane : Nat) : Word :=
  if t.is64 then s.rv64 r.toNat lane else (s.rv r.toNat lane).setWidth 64

/-- Writes a lane's value: a pair for 64-bit types. -/
def Ctx.setVal (c : Ctx) (t : ETy) (r : LReg) (lane : Nat) (v : Word) : Ctx :=
  if t.is64 then c.setLane64 r.toNat lane v else c.setLane r.toNat lane (v.setWidth 32)

/-- R58: the registers a field of a type names. -/
def regsOf (t : ETy) (r : LReg) : Nat × Nat := (r.toNat, if t.is64 then 2 else 1)

/-- R58, R55: an odd register where the type needs a pair. -/
def oddFor (t : ETy) (rs : List LReg) : Bool := t.is64 && rs.any fun r => r.getLsbD 0

/-- R394: Lane FP64 is needed where a type names f64. -/
def fp64 (ts : List ETy) : List Nat := if ts.contains .f64 then [0] else []

/-- R215: the address of a lane's global operand with a register offset. -/
def laneEa (s : State) (va vb : LReg) (lane : Nat) : Word := s.rv64 va.toNat lane + (s.rv vb.toNat lane).signExtend 64

/-- R215: the same with an immediate offset. -/
def laneEaImm (s : State) (va : LReg) (imm : BitVec 18) (lane : Nat) : Word := s.rv64 va.toNat lane + imm.signExtend 64

/-- R215: the shared offset of a lane's operand, modulo 2^32. -/
def laneSh (s : State) (va vb : LReg) (lane : Nat) : Nat := (s.rv va.toNat lane + s.rv vb.toNat lane).toNat

/-- R215: the same with an immediate offset. -/
def laneShImm (s : State) (va : LReg) (imm : BitVec 18) (lane : Nat) : Nat := (s.rv va.toNat lane + imm.signExtend 32).toNat

/-- R229: bytes of a type in memory. -/
def tyBytes (t : ETy) : Nat := t.width / 8

/-- R229: what a lane load writes: i8 and i16 sign-extended, the other narrow types zero-extended. -/
def laneLoaded (t : ETy) (bs : List Byte) : Word := extended (t == .i8 || t == .i16) bs

end Sys2Proof.Machine
end

