-- ==== Sys2Proof/Machine/Arith.lean ====
section
/-! DEFINITION. Scalar arithmetic and logic (R235 to R243) and the 64-bit move (R233): each operation once at any width, then one meaning
per instruction and form. -/

namespace Sys2Proof.Machine

/-! ### The operations, at 32 or 64 bits (R237 to R239) -/

/-- R237. -/
def addOp (n : Nat) (a b : BitVec n) : BitVec n := a + b
/-- R237. -/
def subOp (n : Nat) (a b : BitVec n) : BitVec n := a - b
/-- R237. -/
def mulOp (n : Nat) (a b : BitVec n) : BitVec n := a * b
/-- R237: the high half of the signed product. -/
def mulhOp (n : Nat) (a b : BitVec n) : BitVec n := BitVec.ofInt n (a.toInt * b.toInt / (2 ^ n : Nat))
/-- R237: the high half of the unsigned product. -/
def mulhuOp (n : Nat) (a b : BitVec n) : BitVec n := BitVec.ofNat n (a.toNat * b.toNat / 2 ^ n)
/-- R238: truncates towards zero; division by zero gives all ones, and −2^(n−1) / −1 wraps to the dividend. -/
def divOp (n : Nat) (a b : BitVec n) : BitVec n := if b = 0 then BitVec.allOnes n else BitVec.ofInt n (a.toInt.tdiv b.toInt)
/-- R238. -/
def divuOp (n : Nat) (a b : BitVec n) : BitVec n := if b = 0 then BitVec.allOnes n else BitVec.ofNat n (a.toNat / b.toNat)
/-- R238: the remainder has the sign of the dividend. -/
def remOp (n : Nat) (a b : BitVec n) : BitVec n := if b = 0 then a else BitVec.ofInt n (a.toInt.tmod b.toInt)
/-- R238. -/
def remuOp (n : Nat) (a b : BitVec n) : BitVec n := if b = 0 then a else BitVec.ofNat n (a.toNat % b.toNat)
/-- R237. -/
def andOp (n : Nat) (a b : BitVec n) : BitVec n := a &&& b
/-- R237. -/
def orOp (n : Nat) (a b : BitVec n) : BitVec n := a ||| b
/-- R237. -/
def xorOp (n : Nat) (a b : BitVec n) : BitVec n := a ^^^ b
/-- R237. -/
def andnOp (n : Nat) (a b : BitVec n) : BitVec n := a &&& ~~~ b
/-- R237. -/
def ornOp (n : Nat) (a b : BitVec n) : BitVec n := a ||| ~~~ b
/-- R237. -/
def xnorOp (n : Nat) (a b : BitVec n) : BitVec n := ~~~ (a ^^^ b)
/-- R237: signed. -/
def minOp (n : Nat) (a b : BitVec n) : BitVec n := if a.slt b then a else b
/-- R237: signed. -/
def maxOp (n : Nat) (a b : BitVec n) : BitVec n := if a.slt b then b else a
/-- R237: unsigned. -/
def minuOp (n : Nat) (a b : BitVec n) : BitVec n := if a.ult b then a else b
/-- R237: unsigned. -/
def maxuOp (n : Nat) (a b : BitVec n) : BitVec n := if a.ult b then b else a
/-- R237. -/
def seqOp (n : Nat) (a b : BitVec n) : BitVec n := flag (a == b)
/-- R237. -/
def sneOp (n : Nat) (a b : BitVec n) : BitVec n := flag (a != b)
/-- R237. -/
def sltOp (n : Nat) (a b : BitVec n) : BitVec n := flag (a.slt b)
/-- R237. -/
def sltuOp (n : Nat) (a b : BitVec n) : BitVec n := flag (a.ult b)
/-- R237. -/
def sleOp (n : Nat) (a b : BitVec n) : BitVec n := flag (a.sle b)
/-- R237. -/
def sleuOp (n : Nat) (a b : BitVec n) : BitVec n := flag (a.ule b)
/-- R239: the amount is taken modulo the width. -/
def shlOp (n : Nat) (a b : BitVec n) : BitVec n := a <<< (b.toNat % n)
/-- R239. -/
def shrOp (n : Nat) (a b : BitVec n) : BitVec n := a >>> (b.toNat % n)
/-- R239. -/
def sarOp (n : Nat) (a b : BitVec n) : BitVec n := a.sshiftRight (b.toNat % n)
/-- R239. -/
def rolOp (n : Nat) (a b : BitVec n) : BitVec n := (a <<< (b.toNat % n)) ||| (a >>> (n - b.toNat % n))
/-- R239. -/
def rorOp (n : Nat) (a b : BitVec n) : BitVec n := (a >>> (b.toNat % n)) ||| (a <<< (n - b.toNat % n))
/-- R239: counts the one bits. -/
def popcOp (n : Nat) (a : BitVec n) : BitVec n := BitVec.ofNat n (bitsOf a.toNat n).length
/-- R239: the zero bits above the highest one bit. -/
def clzOp (n : Nat) (a : BitVec n) : BitVec n := BitVec.ofNat n (if a = 0 then n else n - 1 - a.toNat.log2)
/-- R239: the zero bits below the lowest one bit. -/
def ctzOp (n : Nat) (a : BitVec n) : BitVec n := BitVec.ofNat n ((bitsOf a.toNat n).headD n)
/-- R239: the bits in reverse order. -/
def brevOp (n : Nat) (a : BitVec n) : BitVec n := BitVec.ofNat n ((bitsOf a.toNat n).foldl (fun r i => r + 2 ^ (n - 1 - i)) 0)

/-! ### Bit fields and masks (R240, R241) -/

/-- R240: the length of the field that starts at `lo`: bits above 63 do not exist. -/
def fieldLen (lo w : Nat) : Nat := min w (64 - lo)

/-- R240: BFX. -/
def bfxOf (a : Word) (lo w : Nat) : Word := if w = 0 then 0 else (field a lo (fieldLen lo w)).signExtend 64
/-- R240: BFXU. -/
def bfxuOf (a : Word) (lo w : Nat) : Word := if w = 0 then 0 else (field a lo (fieldLen lo w)).setWidth 64
/-- R240: BFI. -/
def bfiOf (old a : Word) (lo w : Nat) : Word := if w = 0 then old else setField old lo (fieldLen lo w) (fieldNat a 0 (fieldLen lo w))
/-- R240: the width of the R form. -/
def regWidth (x : Word) : Nat := min x.toNat 64
/-- R241: MLOW. -/
def mlowOf (a : Word) (n : Nat) : Word := a &&& BitVec.ofNat 64 (2 ^ min n 64 - 1)
/-- R241: MCLR. -/
def mclrOf (a : Word) (n : Nat) : Word := if n < 64 then a &&& ~~~ (BitVec.ofNat 64 (2 ^ n)) else a

/-! ### The instructions -/

/-- R237: ADD. -/
def execAdd (w : Bool) (sd sa sb : SReg) (s : State) : Out := .next (aluR addOp w sd sa sb s)
/-- R237: ADD with an immediate. -/
def execAddImm (w : Bool) (sd sa : SReg) (imm : BitVec 40) (s : State) : Out := .next (aluI addOp w sd sa imm s)
/-- R237: SUB. -/
def execSub (w : Bool) (sd sa sb : SReg) (s : State) : Out := .next (aluR subOp w sd sa sb s)
/-- R237: SUB with an immediate. -/
def execSubImm (w : Bool) (sd sa : SReg) (imm : BitVec 40) (s : State) : Out := .next (aluI subOp w sd sa imm s)
/-- R237: MUL. -/
def execMul (w : Bool) (sd sa sb : SReg) (s : State) : Out := .next (aluR mulOp w sd sa sb s)
/-- R237: MUL with an immediate. -/
def execMulImm (w : Bool) (sd sa : SReg) (imm : BitVec 40) (s : State) : Out := .next (aluI mulOp w sd sa imm s)
/-- R237: MULH. -/
def execMulh (w : Bool) (sd sa sb : SReg) (s : State) : Out := .next (aluR mulhOp w sd sa sb s)
/-- R237: MULH with an immediate. -/
def execMulhImm (w : Bool) (sd sa : SReg) (imm : BitVec 40) (s : State) : Out := .next (aluI mulhOp w sd sa imm s)
/-- R237: MULHU. -/
def execMulhu (w : Bool) (sd sa sb : SReg) (s : State) : Out := .next (aluR mulhuOp w sd sa sb s)
/-- R237: MULHU with an immediate. -/
def execMulhuImm (w : Bool) (sd sa : SReg) (imm : BitVec 40) (s : State) : Out := .next (aluI mulhuOp w sd sa imm s)
/-- R238: DIV. -/
def execDiv (w : Bool) (sd sa sb : SReg) (s : State) : Out := .next (aluR divOp w sd sa sb s)
/-- R238: DIV with an immediate. -/
def execDivImm (w : Bool) (sd sa : SReg) (imm : BitVec 40) (s : State) : Out := .next (aluI divOp w sd sa imm s)
/-- R238: DIVU. -/
def execDivu (w : Bool) (sd sa sb : SReg) (s : State) : Out := .next (aluR divuOp w sd sa sb s)
/-- R238: DIVU with an immediate. -/
def execDivuImm (w : Bool) (sd sa : SReg) (imm : BitVec 40) (s : State) : Out := .next (aluI divuOp w sd sa imm s)
/-- R238: REM. -/
def execRem (w : Bool) (sd sa sb : SReg) (s : State) : Out := .next (aluR remOp w sd sa sb s)
/-- R238: REM with an immediate. -/
def execRemImm (w : Bool) (sd sa : SReg) (imm : BitVec 40) (s : State) : Out := .next (aluI remOp w sd sa imm s)
/-- R238: REMU. -/
def execRemu (w : Bool) (sd sa sb : SReg) (s : State) : Out := .next (aluR remuOp w sd sa sb s)
/-- R238: REMU with an immediate. -/
def execRemuImm (w : Bool) (sd sa : SReg) (imm : BitVec 40) (s : State) : Out := .next (aluI remuOp w sd sa imm s)
/-- R237: AND. -/
def execAnd (w : Bool) (sd sa sb : SReg) (s : State) : Out := .next (aluR andOp w sd sa sb s)
/-- R237: AND with an immediate. -/
def execAndImm (w : Bool) (sd sa : SReg) (imm : BitVec 40) (s : State) : Out := .next (aluI andOp w sd sa imm s)
/-- R237: OR. -/
def execOr (w : Bool) (sd sa sb : SReg) (s : State) : Out := .next (aluR orOp w sd sa sb s)
/-- R237: OR with an immediate. -/
def execOrImm (w : Bool) (sd sa : SReg) (imm : BitVec 40) (s : State) : Out := .next (aluI orOp w sd sa imm s)
/-- R237: XOR. -/
def execXor (w : Bool) (sd sa sb : SReg) (s : State) : Out := .next (aluR xorOp w sd sa sb s)
/-- R237: XOR with an immediate. -/
def execXorImm (w : Bool) (sd sa : SReg) (imm : BitVec 40) (s : State) : Out := .next (aluI xorOp w sd sa imm s)
/-- R237: ANDN. -/
def execAndn (w : Bool) (sd sa sb : SReg) (s : State) : Out := .next (aluR andnOp w sd sa sb s)
/-- R237: ANDN with an immediate. -/
def execAndnImm (w : Bool) (sd sa : SReg) (imm : BitVec 40) (s : State) : Out := .next (aluI andnOp w sd sa imm s)
/-- R237: ORN. -/
def execOrn (w : Bool) (sd sa sb : SReg) (s : State) : Out := .next (aluR ornOp w sd sa sb s)
/-- R237: ORN with an immediate. -/
def execOrnImm (w : Bool) (sd sa : SReg) (imm : BitVec 40) (s : State) : Out := .next (aluI ornOp w sd sa imm s)
/-- R237: XNOR. -/
def execXnor (w : Bool) (sd sa sb : SReg) (s : State) : Out := .next (aluR xnorOp w sd sa sb s)
/-- R237: XNOR with an immediate. -/
def execXnorImm (w : Bool) (sd sa : SReg) (imm : BitVec 40) (s : State) : Out := .next (aluI xnorOp w sd sa imm s)
/-- R237: MIN. -/
def execMin (w : Bool) (sd sa sb : SReg) (s : State) : Out := .next (aluR minOp w sd sa sb s)
/-- R237: MIN with an immediate. -/
def execMinImm (w : Bool) (sd sa : SReg) (imm : BitVec 40) (s : State) : Out := .next (aluI minOp w sd sa imm s)
/-- R237: MAX. -/
def execMax (w : Bool) (sd sa sb : SReg) (s : State) : Out := .next (aluR maxOp w sd sa sb s)
/-- R237: MAX with an immediate. -/
def execMaxImm (w : Bool) (sd sa : SReg) (imm : BitVec 40) (s : State) : Out := .next (aluI maxOp w sd sa imm s)
/-- R237: MINU. -/
def execMinu (w : Bool) (sd sa sb : SReg) (s : State) : Out := .next (aluR minuOp w sd sa sb s)
/-- R237: MINU with an immediate. -/
def execMinuImm (w : Bool) (sd sa : SReg) (imm : BitVec 40) (s : State) : Out := .next (aluI minuOp w sd sa imm s)
/-- R237: MAXU. -/
def execMaxu (w : Bool) (sd sa sb : SReg) (s : State) : Out := .next (aluR maxuOp w sd sa sb s)
/-- R237: MAXU with an immediate. -/
def execMaxuImm (w : Bool) (sd sa : SReg) (imm : BitVec 40) (s : State) : Out := .next (aluI maxuOp w sd sa imm s)
/-- R237: SEQ. -/
def execSeq (w : Bool) (sd sa sb : SReg) (s : State) : Out := .next (aluR seqOp w sd sa sb s)
/-- R237: SEQ with an immediate. -/
def execSeqImm (w : Bool) (sd sa : SReg) (imm : BitVec 40) (s : State) : Out := .next (aluI seqOp w sd sa imm s)
/-- R237: SNE. -/
def execSne (w : Bool) (sd sa sb : SReg) (s : State) : Out := .next (aluR sneOp w sd sa sb s)
/-- R237: SNE with an immediate. -/
def execSneImm (w : Bool) (sd sa : SReg) (imm : BitVec 40) (s : State) : Out := .next (aluI sneOp w sd sa imm s)
/-- R237: SLT. -/
def execSlt (w : Bool) (sd sa sb : SReg) (s : State) : Out := .next (aluR sltOp w sd sa sb s)
/-- R237: SLT with an immediate. -/
def execSltImm (w : Bool) (sd sa : SReg) (imm : BitVec 40) (s : State) : Out := .next (aluI sltOp w sd sa imm s)
/-- R237: SLTU. -/
def execSltu (w : Bool) (sd sa sb : SReg) (s : State) : Out := .next (aluR sltuOp w sd sa sb s)
/-- R237: SLTU with an immediate. -/
def execSltuImm (w : Bool) (sd sa : SReg) (imm : BitVec 40) (s : State) : Out := .next (aluI sltuOp w sd sa imm s)
/-- R237: SLE. -/
def execSle (w : Bool) (sd sa sb : SReg) (s : State) : Out := .next (aluR sleOp w sd sa sb s)
/-- R237: SLE with an immediate. -/
def execSleImm (w : Bool) (sd sa : SReg) (imm : BitVec 40) (s : State) : Out := .next (aluI sleOp w sd sa imm s)
/-- R237: SLEU. -/
def execSleu (w : Bool) (sd sa sb : SReg) (s : State) : Out := .next (aluR sleuOp w sd sa sb s)
/-- R237: SLEU with an immediate. -/
def execSleuImm (w : Bool) (sd sa : SReg) (imm : BitVec 40) (s : State) : Out := .next (aluI sleuOp w sd sa imm s)
/-- R239: SHL. -/
def execShl (w : Bool) (sd sa sb : SReg) (s : State) : Out := .next (aluR shlOp w sd sa sb s)
/-- R239: SHL by an immediate amount. -/
def execShlImm (w : Bool) (sd sa : SReg) (amt : BitVec 6) (s : State) : Out := .next (aluShift shlOp w sd sa amt s)
/-- R239: SHR. -/
def execShr (w : Bool) (sd sa sb : SReg) (s : State) : Out := .next (aluR shrOp w sd sa sb s)
/-- R239: SHR by an immediate amount. -/
def execShrImm (w : Bool) (sd sa : SReg) (amt : BitVec 6) (s : State) : Out := .next (aluShift shrOp w sd sa amt s)
/-- R239: SAR. -/
def execSar (w : Bool) (sd sa sb : SReg) (s : State) : Out := .next (aluR sarOp w sd sa sb s)
/-- R239: SAR by an immediate amount. -/
def execSarImm (w : Bool) (sd sa : SReg) (amt : BitVec 6) (s : State) : Out := .next (aluShift sarOp w sd sa amt s)
/-- R239: ROL. -/
def execRol (w : Bool) (sd sa sb : SReg) (s : State) : Out := .next (aluR rolOp w sd sa sb s)
/-- R239: ROL by an immediate amount. -/
def execRolImm (w : Bool) (sd sa : SReg) (amt : BitVec 6) (s : State) : Out := .next (aluShift rolOp w sd sa amt s)
/-- R239: ROR. -/
def execRor (w : Bool) (sd sa sb : SReg) (s : State) : Out := .next (aluR rorOp w sd sa sb s)
/-- R239: ROR by an immediate amount. -/
def execRorImm (w : Bool) (sd sa : SReg) (amt : BitVec 6) (s : State) : Out := .next (aluShift rorOp w sd sa amt s)
/-- R239: POPC. -/
def execPopc (w : Bool) (sd sa : SReg) (s : State) : Out := .next (alu1 popcOp w sd sa s)
/-- R239: CLZ. -/
def execClz (w : Bool) (sd sa : SReg) (s : State) : Out := .next (alu1 clzOp w sd sa s)
/-- R239: CTZ. -/
def execCtz (w : Bool) (sd sa : SReg) (s : State) : Out := .next (alu1 ctzOp w sd sa s)
/-- R239: BREV. -/
def execBrev (w : Bool) (sd sa : SReg) (s : State) : Out := .next (alu1 brevOp w sd sa s)
/-- R237: SEL. -/
def execSel (sd sa sb sc : SReg) (s : State) : Out := .next (s.setS sd (if s.rs sa ≠ 0 then s.rs sb else s.rs sc))
/-- R237: MADD, one wrap at the end. -/
def execMadd (w : Bool) (sd sa sb sc : SReg) (s : State) : Out :=
  .next (s.setS sd (atWidth w addOp (atWidth w mulOp (s.rs sa) (s.rs sb)) (s.rs sc)))
/-- R237: ADDSH. -/
def execAddsh (w : Bool) (sd sa sb : SReg) (k : BitVec 6) (s : State) : Out :=
  .next (s.setS sd (atWidth w addOp (s.rs sa) (s.rs sb <<< k.toNat)))
/-- R240: BFX. -/
def execBfx (sd sa sb sc : SReg) (s : State) : Out := .next (s.setS sd (bfxOf (s.rs sa) (fieldNat (s.rs sb) 0 6) (regWidth (s.rs sc))))
/-- R240: BFX with an immediate field. -/
def execBfxImm (sd sa : SReg) (lo : BitVec 6) (wd : BitVec 7) (s : State) : Out := .next (s.setS sd (bfxOf (s.rs sa) lo.toNat wd.toNat))
/-- R240: BFXU. -/
def execBfxu (sd sa sb sc : SReg) (s : State) : Out := .next (s.setS sd (bfxuOf (s.rs sa) (fieldNat (s.rs sb) 0 6) (regWidth (s.rs sc))))
/-- R240: BFXU with an immediate field. -/
def execBfxuImm (sd sa : SReg) (lo : BitVec 6) (wd : BitVec 7) (s : State) : Out := .next (s.setS sd (bfxuOf (s.rs sa) lo.toNat wd.toNat))
/-- R240: BFI. -/
def execBfi (sd sa sb sc : SReg) (s : State) : Out :=
  .next (s.setS sd (bfiOf (s.rs sd) (s.rs sa) (fieldNat (s.rs sb) 0 6) (regWidth (s.rs sc))))
/-- R240: BFI with an immediate field. -/
def execBfiImm (sd sa : SReg) (lo : BitVec 6) (wd : BitVec 7) (s : State) : Out :=
  .next (s.setS sd (bfiOf (s.rs sd) (s.rs sa) lo.toNat wd.toNat))
/-- R241: MLOW. -/
def execMlow (sd sa sb : SReg) (s : State) : Out := .next (s.setS sd (mlowOf (s.rs sa) (s.rs sb).toNat))
/-- R241: MLOW with an immediate count. -/
def execMlowImm (sd sa : SReg) (n : BitVec 7) (s : State) : Out := .next (s.setS sd (mlowOf (s.rs sa) n.toNat))
/-- R241: MCLR. -/
def execMclr (sd sa sb : SReg) (s : State) : Out := .next (s.setS sd (mclrOf (s.rs sa) (s.rs sb).toNat))
/-- R241: MCLR with an immediate lane. -/
def execMclrImm (sd sa : SReg) (n : BitVec 7) (s : State) : Out := .next (s.setS sd (mclrOf (s.rs sa) n.toNat))
/-- R242: MOVI, sign-extending. -/
def execMovi (sd : SReg) (imm : BitVec 32) (s : State) : Out := .next (s.setS sd (imm.signExtend 64))
/-- R242: MOVI.n32, zero-extending. -/
def execMoviN32 (sd : SReg) (imm : BitVec 32) (s : State) : Out := .next (s.setS sd (imm.setWidth 64))
/-- R242: MOVI.hi, which keeps the low half. -/
def execMoviHi (sd : SReg) (imm : BitVec 32) (s : State) : Out := .next (s.setS sd (imm ++ field (s.rs sd) 0 32))
/-- R39, R233: MOVI64, two words long. -/
def execMovi64 (sd : SReg) (imm : BitVec 64) (s : State) : Out := .next ((s.setS sd imm).advance)
/-- R243: NOP. -/
def execNop (s : State) : Out := .next s.advance

end Sys2Proof.Machine
end

