-- ==== Sys2Proof/Machine/Control.lean ====
section
/-! DEFINITION. Branches and calls (R244 to R246), traps (R252), events, halting and time (R254 to R256), points (R257) and LAUNCH (R258). -/

namespace Sys2Proof.Machine

/-- R244: a branch. -/
def branch {n : Nat} (s : State) (taken : Bool) (disp : BitVec n) : State := if taken then s.jump (target s disp) else s.advance

/-- R244: BR. -/
def execBr (disp : BitVec 40) (s : State) : Out := .next (branch s true disp)
/-- R244: BEQ. -/
def execBeq (sa sb : SReg) (disp : BitVec 34) (s : State) : Out := .next (branch s (s.rs sa == s.rs sb) disp)
/-- R244: BNE. -/
def execBne (sa sb : SReg) (disp : BitVec 34) (s : State) : Out := .next (branch s (s.rs sa != s.rs sb) disp)
/-- R244: BLT. -/
def execBlt (sa sb : SReg) (disp : BitVec 34) (s : State) : Out := .next (branch s ((s.rs sa).slt (s.rs sb)) disp)
/-- R244: BGE. -/
def execBge (sa sb : SReg) (disp : BitVec 34) (s : State) : Out := .next (branch s ((s.rs sb).sle (s.rs sa)) disp)
/-- R244: BLTU. -/
def execBltu (sa sb : SReg) (disp : BitVec 34) (s : State) : Out := .next (branch s ((s.rs sa).ult (s.rs sb)) disp)
/-- R244: BGEU. -/
def execBgeu (sa sb : SReg) (disp : BitVec 34) (s : State) : Out := .next (branch s ((s.rs sb).ule (s.rs sa)) disp)
/-- R244, R241: BZ. -/
def execBz (sa : SReg) (disp : BitVec 34) (s : State) : Out := .next (branch s (maskTest s.me.narrow (s.rs sa) == 0) disp)
/-- R244, R241: BNZ. -/
def execBnz (sa : SReg) (disp : BitVec 34) (s : State) : Out := .next (branch s (maskTest s.me.narrow (s.rs sa) != 0) disp)
/-- R246: LOOP. -/
def execLoop (sa : SReg) (disp : BitVec 34) (s : State) : Out := .next (branch (s.ws sa (s.rs sa - 1)) (s.rs sa - 1 != 0) disp)

/-- R245: the return address goes to `s62` of the executing mode's bank. -/
def callTo (s : State) (t : Word) : State := (s.ws 62 (s.me.pc + 8)).jump t

/-- R245: CALL. -/
def execCall (disp : BitVec 40) (s : State) : Out := .next (callTo s (target s disp))
/-- R245, R40: CALLR; the target is read before any write. -/
def execCallr (sa : SReg) (s : State) : Out :=
  .next (if (s.rs sa).toNat % 8 = 0 then callTo s (s.rs sa) else trapS s (cMISALIGN, 0) (s.rs sa))
/-- R245, R40: JR. -/
def execJr (sa : SReg) (s : State) : Out :=
  .next (if (s.rs sa).toNat % 8 = 0 then s.jump (s.rs sa) else trapS s (cMISALIGN, 0) (s.rs sa))

/-- R252: TRAP enters privileged code; it is a side effect (R368). -/
def execTrap (n : BitVec 16) (s : State) : Out :=
  .next (
    enterTrap s.dirtied s.cur (if s.me.mode = 0 then 1 else 2)
      { cause := (cTRAP, 0), after := true, kind := 2, lanes := s.unitLanes, perLane := [⟨0, (cTRAP, 0), 0⟩], trapno := n.toNat,
        frm := s.me.mode, word := s.word })

/-! ### Events, halting and time -/

/-- R254: SEV: every host core, and the packs and control contexts of the executing partition. -/
def execSev (s : State) : Out :=
  .next (
    let s := setHostFlags s.dirtied
    (match partOf s s.cur with
      | some p => setPartFlags s p
      | none => s).advance)

/-- Takes the event flag, or waits for it. -/
def takeEvent (s : State) (w : Wait) : State := if s.me.evt then (s.setMe { s.me with evt := false }).advance else s.stall w

/-- R254: WFE. -/
def execWfe (s : State) : Out := .next (takeEvent s .event)

/-- Has every record that a control context pushed retired? -/
def recordsGone (c : Ctx) : Bool :=
  let none (q : List QEntry) : Bool := q.all fun e => match e with
    | .record .. => false
    | .marker _ => true
  c.flights.isEmpty && none c.lq && none c.sq && none c.mq && none c.vq

/-- R255: a control context's HALT: it waits for its records, discarding elements of `%oq`, and ends the task. -/
def haltTask (s : State) : State :=
  if recordsGone s.me then endTask s s.cur else (s.setMe { s.me with oq := [] }).stall .records

/-- R255: HALT. -/
def execHalt (s : State) : Out :=
  .next (gated s { pack := false, shadow := false } fun s =>
    match kindOf s.cur with
    | .host =>
      if s.me.launch.isSome then endHost s s.cur
      else if s.me.mode = 0 then trapS s (cPRIV, 0) 0
      else takeEvent s .halted
    | _ => haltTask s)

/-- R256: guest nanoseconds as the acting unit reads them. -/
def guestTime (s : State) : Word :=
  BitVec.ofNat 64 s.hubTime +
  (match partOf s s.cur with
    | some p => if pGuest s p then s.hubR (fBase p + 0x28) else 0
    | none => 0)

/-- R256: TIME. -/
def execTime (sd : SReg) (s : State) : Out := .next (s.setS sd (guestTime s))

/-- R257, R365, R367: PPOINT: a point of a pack or control context in user mode; nothing on other contexts and in other modes. -/
def execPpoint (k : BitVec 16) (s : State) : Out :=
  .next (gated s { new6 := true } fun s =>
    (if s.me.mode = 0 ∧ (kindOf s.cur = .pack ∨ kindOf s.cur = .ctl) then
      s.setMe { s.me with pointk := k, pointpc := s.me.pc, pvalid := true, dirty := false }
     else s).advance)

/-! ### LAUNCH (R258) -/

/-- R258, R21, R341: may the acting unit launch to a queue? One without a partition may in a privileged mode only. -/
def mayLaunch (s : State) (q : Nat) : Bool :=
  let own := siteOfCore (coreOf s.cur)
  let p := queuePart s q
  decide (q < 1024) && hubF s (siteCtl own) 48 11 != 0 && hubF s (0x4000 + 8 * q) 0 1 == 1 && pEnabled s p &&
  (match partOf s s.cur with
    | some x => x == p
    | none => s.me.mode != 0 && (rangeFrom 0 8).any fun n =>
        siteState s n == 3 && decide (hubF s (siteCtl n) 32 10 ≤ q) && decide (q < hubF s (siteCtl n) 32 10 + hubF s (siteCtl n) 48 11))

/-- A packet enters a queue of the Shepherd. -/
def enqueue (s : State) (q : Nat) (p : Rec512) : State :=
  { s.setQueue q (s.queue q ++ [{ packet := p, seq := s.nextId }]) with nextId := s.nextId + 1 }

/-- R258: a packet that has been read enters its queue, or waits for a free entry. -/
def launchPacket (s : State) (q : Nat) (p : Rec512) : State :=
  if 64 ≤ (s.queue q).length then s.stall (.launch q p) else (enqueue s q p).dirtied.advance

/-- R258: LAUNCH. An invalidation outstanding at a peer holds its release (R214). -/
def execLaunch (sa sb : SReg) (s : State) : Out :=
  .next (
    let q := (s.rs sa).toNat
    let a := s.rs sb
    match s.me.wait with
    | .launch q p => launchPacket s q p
    | _ =>
      if !mayLaunch s q then trapS s (cQUEUE, 1) 0
      else if pQuiesce s (queuePart s q) then trapS s (cQUEUE, 11) 0
      else if a.toNat % 64 ≠ 0 then trapS s (cMISALIGN, 0) a
      else
        match checkVa s .read false a with
        | (s, .error c) => trapS s c a
        | (s, .ok tr) =>
          if !acknowledged s then s.stall .release
          else
            match loadAt s tr 64 false with
            | (s, .error c) => trapScalar s (c, 0) a true false
            | (s, .ok bs) => launchPacket s q (ofBytes 512 bs))

end Sys2Proof.Machine
end

