-- ==== Sys2Proof/Machine/System.lean ====
section
/-! DEFINITION. Control registers (R247 to R251, with R97, R192, R198, R291, R309, R326), TLBI (R110) and LWAIT (R111). -/

namespace Sys2Proof.Machine

/-! ### Control registers -/

/-- R248: is a number assigned on a kind of context? -/
def cregAssigned (k : Kind) (n : Nat) : Bool :=
  decide (n ≤ 5) || n == 24 || (decide (32 ≤ n) && decide (n < 44)) || (decide (256 ≤ n) && decide (n < 288)) ||
  (decide (k = .pack) && ((decide (8 ≤ n) && decide (n ≤ 12)) || n == 16 || n == 17)) ||
  ((decide (k = .pack) || decide (k = .ctl)) && (n == 20 || n == 21)) ||
  (decide (k = .ctl) && decide (64 ≤ n) && decide (n < 68)) ||
  ((decide (k = .ctl) || decide (k = .shadow)) && n == 68)

/-- R248, R97: the lowest mode that may read. -/
def cregReadMode (k : Kind) (n : Nat) : Nat :=
  if 1 ≤ n ∧ n ≤ 5 then 1
  else if n = 40 ∨ n = 41 then 1
  else if n = 42 ∨ n = 43 then (if k = .host then 2 else 1)
  else 0

/-- R248, R97: the lowest mode that may write; a register nobody writes ignores the write from every mode. -/
def cregWriteMode (k : Kind) (n : Nat) : Nat :=
  if n ≤ 5 ∨ n = 21 ∨ n = 68 then 1
  else if n = 40 ∨ n = 41 then (if k = .host then 1 else 2)
  else if n = 42 ∨ n = 43 then 2
  else if 264 ≤ n ∧ n < 288 then 1
  else 0

/-- R249: STATUS. -/
def statusWord (s : State) : Word :=
  let c := s.me
  BitVec.ofNat 64 (c.mode.toNat + 4 * c.pmode.toNat + 16 * c.narrow.toNat + (if kindOf s.cur = .shadow then 32 else 0) + 64 * c.evt.toNat)

/-- R309: c8 to c12 of a pack. -/
def packWord (s : State) (n : Nat) : Word :=
  let c := s.me
  match c.block.bind s.block with
  | none => 0
  | some b =>
    BitVec.ofNat 64 (
      if n = 8 then c.index + 2 ^ 8 * c.quarter + 2 ^ 16 * coreOf s.cur
      else if n = 9 then b.x + 2 ^ 20 * b.y + 2 ^ 36 * b.z + 2 ^ 52 * b.cohidx
      else if n = 10 then c.width + 2 ^ 8 * b.maxpacks + 2 ^ 16 * b.cohblocks
      else if n = 11 then b.packs.length + 2 ^ 32 * b.packs.foldl (fun m p => m + 2 ^ p.1) 0
      else b.hint)

/-- R192: ACTAG. -/
def actagWord (c : Ctx) : Word :=
  BitVec.ofNat 64 ((rangeFrom 0 8).foldl (fun n t => n + 2 ^ (8 * t) * Sparse.get (fun _ => 0) c.actag t) 0)

/-- R326: ALLOW. -/
def allowWord (s : State) : Word :=
  let k := s.core (coreOf s.cur)
  BitVec.ofNat 64 (k.tokens + 2 ^ 16 * hubF s (corectl (coreOf s.cur)) 16 16 + 2 ^ 32 * k.want + 2 ^ 48 * k.hungry.toNat)

/-- R198: SCOPE0 to SCOPE31. -/
def scopeWord (s : State) (n : Nat) : Word :=
  BitVec.ofNat 64 (2 * scopeExtent s s.cur n) ||| (if n < 8 then 1 else (scopeEnt s (holderOf s s.cur) n).reg)

/-- R248: the value a control register reads. -/
def cregRead (s : State) (n : Nat) : Word :=
  let c := s.me
  let e := c.exc c.mode
  if n = 0 then statusWord s
  else if n = 1 then e.epc
  else if n = 2 then e.cause
  else if n = 3 then e.faddr
  else if n = 4 then e.frbase
  else if n = 5 then e.fhandler
  else if 8 ≤ n ∧ n ≤ 12 then packWord s n
  else if n = 16 then actagWord c
  else if n = 17 then c.actbar
  else if n = 20 then allowWord s
  else if n = 21 then c.tokspent
  else if n = 24 then guestTime s
  else if 32 ≤ n ∧ n < 40 then featWord s s.cur (n - 32)
  else if n = 40 then c.ttb1
  else if n = 41 then c.ctxid.setWidth 64
  else if n = 42 then c.ttb2
  else if n = 43 then c.vmid.setWidth 64
  else if n = 64 then c.lseq
  else if n = 65 then c.sseq
  else if n = 66 then c.mseq
  else if n = 67 then c.vseq
  else if n = 68 then c.accsave
  else if 256 ≤ n ∧ n < 288 then scopeWord s (n - 256)
  else 0

/-- R248, R251: ILLEGAL, then PRIV, for an access to a control register. -/
def cregGate (s : State) (n : Nat) (need : Kind → Nat → Nat) : Option Cause :=
  if !cregAssigned (kindOf s.cur) n then some (cILLEGAL, 0)
  else if s.me.mode.toNat < need (kindOf s.cur) n then some (cPRIV, 0)
  else none

/-- R251: MOVC. -/
def execMovc (sd : SReg) (n : BitVec 10) (s : State) : Out :=
  .next (match cregGate s n.toNat cregReadMode with
    | some c => trapS s c 0
    | none => s.setS sd (cregRead s n.toNat))

/-- R110: drops the held translations that `f` names, of the executing core. -/
def dropMine (s : State) (f : TlbEntry → Bool) : State := dropEntries s fun h => h.core == coreOf s.cur && f h

/-- R110: what `tlbi.ctx` drops. -/
def dropContext (s : State) : State := dropMine s fun h => h.vmid == s.me.vmid && (h.stage2 || h.glob || h.ctxid == s.me.ctxid)

/-- R291: what the owner tag of the acting context stands for follows its registers. -/
def retag (s : State) : State :=
  let c := s.me
  let tag := fieldNat c.accsave 0 8
  let core := coreOf s.cur
  let k := s.core core
  if kindOf s.cur = .ctl then
    s.setCore core { k with tagctx := k.tagctx.map fun t =>
      if t.tag = tag then { t with accsave := c.accsave, ttb1 := c.ttb1, ttb2 := c.ttb2, ctxid := c.ctxid, vmid := c.vmid } else t }
  else s

/-- R291, R408: ACCSAVE.ADDR is written; in the shadow context it is that of the task it acts for. -/
def writeAccsave (s : State) (v : Word) : State :=
  let new := mergeBits s.me.accsave v (maskAt 12 52)
  let s := retag (s.setMe { s.me with accsave := new })
  match kindOf s.cur, s.me.serving with
  | .shadow, some e =>
    let core := coreOf s.cur
    let k := s.core core
    let u := unitId e.1.core e.1.ctx
    let s := s.setCtx u { s.ctx u with accsave := new }
    s.setCore core { k with tagctx := k.tagctx.map fun t => if t.tag = fieldNat new 0 8 then { t with accsave := new } else t }
  | _, _ => s

/-- R251: a write of one of the translation registers. -/
def writeTrans (s : State) (f : Ctx → Ctx) : State :=
  let s := dropContext s
  retag (s.setMe (f s.me))

/-- R198: the address of a scope entry's bitmap. -/
def bitmapAddr (v : Word) : Word := (field v 6 51 ++ (0 : BitVec 6)).signExtend 64

/-- R198: an MTC of SCOPE8 to SCOPE31. -/
def writeScope (s : State) (n : Nat) (v : Word) : State :=
  let reg := v &&& (maskAt 6 51 ||| 1)
  let h := holderOf s s.cur
  if !bitAt v 0 then (setScopeEnt s h n { reg := reg, snap := 0 }).advance
  else
    let a := bitmapAddr v
    match checkVa s .read true a with
    | (s, .error c) => trapS s c a
    | (s, .ok tr) =>
      match loadAt s tr 64 false with
      | (s, .error c) => trapScalar s (c, 0) a true false
      | (s, .ok bs) =>
        let own := match partOf s s.cur with
          | some p => partCores s p
          | none => BitVec.allOnes 384
        (setScopeEnt s h n { reg := reg, snap := field (ofBytes 512 bs) 0 384 &&& own }).advance

/-- R249, R250, R251: what an MTC that passed its checks does; SCOPE and ACTBAR have faults of their own. -/
def cregWrite (s : State) (n : Nat) (v : Word) : State :=
  let c := s.me
  let e := c.exc c.mode
  let put (e : ExcRegs) : State := (s.setMe (c.setExc c.mode e)).advance
  if n = 0 then
    (let p := field v 2 2
     if p = 3 ∨ c.mode < p then s else s.setMe { c with pmode := p }).advance
  else if n = 1 then put { e with epc := v }
  else if n = 2 then put { e with cause := v &&& 0x0000FFFF0001FFFF }
  else if n = 3 then put { e with faddr := v }
  else if n = 4 then put { e with frbase := v &&& ~~~ 0x3FF }
  else if n = 5 then put { e with fhandler := v &&& ~~~ 7 }
  else if n = 17 then
    if v.toNat % 16 = 0 then (s.setMe { c with actbar := v &&& 0xFFFFFFFFFF }).advance
    else trapS s (cMISALIGN, 0) (v &&& 0xFFFFFFFF)
  else if n = 21 then (s.setMe { c with tokspent := v }).advance
  else if n = 40 then (writeTrans s fun c => { c with ttb1 := v &&& (maskAt 12 40 ||| 1) }).advance
  else if n = 41 then (writeTrans s fun c => { c with ctxid := field v 0 16 }).advance
  else if n = 42 then (writeTrans s fun c => { c with ttb2 := v &&& (maskAt 12 40 ||| 1) }).advance
  else if n = 43 then (writeTrans s fun c => { c with vmid := field v 0 16 }).advance
  else if n = 68 then (writeAccsave s v).advance
  else if 264 ≤ n ∧ n < 288 then writeScope s (n - 256) v
  else s.advance

/-- R251: MTC. -/
def execMtc (n : BitVec 10) (sa : SReg) (s : State) : Out :=
  .next (match cregGate s n.toNat cregWriteMode with
    | some c => trapS s c 0
    | none => cregWrite s n.toNat (s.rs sa))

/-! ### TLBI (R110) -/

/-- R110: TLBI's release fence at system scope comes before what it drops. -/
def tlbi (s : State) (drop : State → State) : State :=
  gated s { priv := true } fun s => if acknowledged s then (drop s).advance else s.stall .release

/-- R110: what `tlbi.page` drops: what R102 has a unit drop for an address, stage-2 entries of the VMID among it. -/
def dropPage (s : State) (a : Word) : State :=
  if !canonical a then s
  else
    dropEntries s (coversFor (unitTrans s s.cur s.me.mode) (a.toNat % 2 ^ 57))

/-- R110: TLBI of a page. -/
def execTlbiPage (sa : SReg) (s : State) : Out := .next (tlbi s fun s => dropPage s (s.rs sa))
/-- R110: TLBI of the context. -/
def execTlbiCtx (s : State) : Out := .next (tlbi s dropContext)
/-- R110: TLBI of the core; in hypervisor mode of every VMID. -/
def execTlbiAll (s : State) : Out := .next (tlbi s fun s => dropMine s fun h => s.me.mode == 2 || h.vmid == s.me.vmid)

/-! ### LWAIT (R111) -/

/-- R108: LMAX in force; while a change is pending, the larger of the two. -/
def lmaxInForce (s : State) : Nat :=
  let l := hubF s 0x800 0 32
  if s.hubTime < s.mem.pendEnd then max l s.mem.oldLmax else l

/-- R111: LWAIT. Every access of the model is performed in its step, so its end leaves no access to drain but ACPY lanes, whose lease is
checked again as they land (R105). -/
def execLwait (s : State) : Out :=
  .next (gated s { priv := true, new6 := true } fun s =>
    match s.me.wait with
    | .lwait d => if d ≤ s.hubTime then s.advance else s
    | _ => if acknowledged s then s.stall (.lwait (s.hubTime + lmaxInForce s + Config.lskew)) else s.stall .lwaitAck)

/-- R111: the wait of a unit ends. -/
def execLwaitExpiry (u : Nat) (s : State) : Out :=
  .next (match (s.ctx u).wait with
    | .lwait d =>
      let s := { s with cycles := max s.cycles (2 * d) }
      s.setCtx u { s.ctx u with wait := .none, pc := (s.ctx u).pc + 8 }
    | _ => s)

end Sys2Proof.Machine
end

