-- ==== Sys2Proof/Machine/Mem.lean ====
section
/-! DEFINITION. Scalar memory (R215 to R228): loads, stores, atomics, prefetch and fences; then cache maintenance (R154 to R156),
reduction ranges (R157 to R160) and line descriptors (R137 to R139). -/

namespace Sys2Proof.Machine

/-- R215, R101: the alignment and translation checks of a scalar access, then the access. -/
def checkedAt (s : State) (k : AccKind) (plain : Bool) (ea : Word) (nb : Nat) (go : State → Trans → State) : State :=
  if ea.toNat % nb ≠ 0 then trapS s (cMISALIGN, 0) ea
  else
    match checkVa s k plain ea with
    | (s, .error c) => trapS s c ea
    | (s, .ok tr) => go s tr

/-- R217: an error completion or POISON that answers an access after its checks, from outside the package's own storage: the cause, and
the lanes that meet it (bit 0 for a scalar access). None in every turn but that of LATE_FAULT. -/
abbrev Late := Option (BitVec 8 × Word)

/-- The late fault that a lane meets. -/
def lateAt (late : Late) (lane : Nat) : Option (BitVec 8) :=
  match late with
  | some (c, m) => if bitAt m lane then some c else none
  | none => none

/-- R222, R217: the load itself; a late fault is precise and writes nothing. -/
def loadTo (s : State) (late : Late) (tr : Trans) (ea : Word) (nb : Nat) (sx wide : Bool) (sd : SReg) : State :=
  match lateAt late 0, loadAt s tr nb wide with
  | some c, _ => trapScalar s (c, 0) ea true false
  | none, (s, .error c) => trapScalar s (c, 0) ea true false
  | none, (s, .ok bs) => s.setS sd (extended sx bs)

/-- R222, R217: the store itself; its late fault is taken after it. -/
def storeFrom (s : State) (late : Late) (tr : Trans) (ea : Word) (nb : Nat) (wide : Bool) (v : Word) : State :=
  match lateAt late 0, storeAt s tr (toBytes v nb) wide with
  | some c, _ => trapScalar s (c, 0) ea true true
  | none, (s, some c) => trapScalar s (c, 0) ea true true
  | none, (s, none) => s.dirtied.advance

/-- R222: LD. -/
def scalarLoad (s : State) (late : Late) (sz : Sz) (sx : Bool) (sd : SReg) (ea : Word) : State :=
  checkedAt s .read true ea sz.bytes fun s tr => loadTo s late tr ea sz.bytes sx false sd

/-- R222: ST. -/
def scalarStore (s : State) (late : Late) (sz : Sz) (sd : SReg) (ea : Word) : State :=
  checkedAt s .write true ea sz.bytes fun s tr => storeFrom s late tr ea sz.bytes false (s.rs sd)

/-- R222: LD with an index. -/
def execLd (sz : Sz) (sx : Bool) (k : BitVec 2) (sd sa sb : SReg) (s : State) : Out :=
  .next (scalarLoad s none sz sx sd (eaIndex s k sa sb))
/-- R222: LD with an immediate. -/
def execLdImm (sz : Sz) (sx : Bool) (sd sa : SReg) (imm : BitVec 32) (s : State) : Out :=
  .next (scalarLoad s none sz sx sd (eaImm s sa imm))
/-- R222: ST with an index. -/
def execSt (sz : Sz) (k : BitVec 2) (sd sa sb : SReg) (s : State) : Out := .next (scalarStore s none sz sd (eaIndex s k sa sb))
/-- R222: ST with an immediate. -/
def execStImm (sz : Sz) (sd sa : SReg) (imm : BitVec 32) (s : State) : Out := .next (scalarStore s none sz sd (eaImm s sa imm))

/-- R222, R203, R207: LDO, an acquire at its scope. -/
def orderedLoad (s : State) (late : Late) (sz : Sz) (sx : Bool) (scope : BitVec 5) (sd : SReg) (ea : Word) : State :=
  gated s { scope := some scope.toNat } fun s =>
    checkedAt s .read true ea sz.bytes fun s tr =>
      loadTo (acquirePoint s scope.toNat) late tr ea sz.bytes sx (wideScope s s.cur scope.toNat) sd

/-- R222, R203, R207: STO, a release at its scope. -/
def orderedStore (s : State) (late : Late) (sz : Sz) (scope : BitVec 5) (sd : SReg) (ea : Word) : State :=
  gated s { scope := some scope.toNat } fun s =>
    checkedAt s .write true ea sz.bytes fun s tr =>
      if releaseReady s scope.toNat then storeFrom s late tr ea sz.bytes (wideScope s s.cur scope.toNat) (s.rs sd)
      else s.stall .release

/-- R222: LDO. -/
def execLdo (sz : Sz) (sx : Bool) (scope : BitVec 5) (sd sa : SReg) (imm : BitVec 32) (s : State) : Out :=
  .next (orderedLoad s none sz sx scope sd (eaImm s sa imm))

/-- R222: STO. -/
def execSto (sz : Sz) (scope : BitVec 5) (sd sa : SReg) (imm : BitVec 32) (s : State) : Out :=
  .next (orderedStore s none sz scope sd (eaImm s sa imm))

/-! ### Atomics (R223 to R225) -/

/-- Does an order hold an acquire? -/
def acquires : MOrd → Bool
  | .acquire | .acqRel => true
  | _ => false

/-- Does an order hold a release? -/
def releases : MOrd → Bool
  | .release | .acqRel => true
  | _ => false

/-- R224: the new value of an atomic operation on `nb`-byte values. -/
def atomicOp (op : AOp) (old v nb : Nat) : Nat :=
  let w := 8 * nb
  let f := if nb = 8 then f64Fmt else f32Fmt
  match op with
  | .add => (old + v) % 2 ^ w
  | .and => old &&& v
  | .or => old ||| v
  | .xor => old ^^^ v
  | .min => if intOf true w v < intOf true w old then v else old
  | .max => if intOf true w old < intOf true w v then v else old
  | .minu => if v < old then v else old
  | .maxu => if old < v then v else old
  | .swap => v
  | .fadd => encodeFmt f .rne false (addVal .rne (decodeFmt f old) (decodeFmt f v))

/-- R225: the scalar atomic access: `f` gives the new value from the old, or none to write nothing. -/
def scalarAtomic (s : State) (late : Late) (sz : Sz) (ord : MOrd) (scope : BitVec 5) (sd sa : SReg) (f : State → Nat → Option Nat) : State :=
  gated s { scope := some scope.toNat } fun s =>
    let ea := s.rs sa
    checkedAt s .atomic true ea sz.bytes fun s tr =>
      if releases ord && !releaseReady s scope.toNat then s.stall .release
      else
        let s := if acquires ord then acquirePoint s scope.toNat else s
        match lateAt late 0, atomicAt s tr sz.bytes (wideScope s s.cur scope.toNat)
            (fun old => (f s (ofBytesNat old)).map fun v => toBytes (BitVec.ofNat 64 v) sz.bytes) with
        | some c, _ => trapScalar s (c, 0) ea true true
        | none, (s, .error c) => trapScalar s (c, 0) ea true true
        | none, (s, .ok old) => s.dirtied.setS sd (ofBytes 64 old)

/-- R225: what ATOM writes. -/
def atomNew (sz : Sz) (op : AOp) (sb : SReg) (s : State) (old : Nat) : Option Nat :=
  some (atomicOp op old (fieldNat (s.rs sb) 0 (8 * sz.bytes)) sz.bytes)

/-- R225: what CAS writes, bitwise compared. -/
def casNew (sz : Sz) (sb sc : SReg) (s : State) (old : Nat) : Option Nat :=
  if old = fieldNat (s.rs sb) 0 (8 * sz.bytes) then some (fieldNat (s.rs sc) 0 (8 * sz.bytes)) else none

/-- R225: ATOM. -/
def execAtom (sz : Sz) (op : AOp) (ord : MOrd) (scope : BitVec 5) (sd sa sb : SReg) (s : State) : Out :=
  .next (scalarAtomic s none sz ord scope sd sa (atomNew sz op sb))

/-- R225: CAS. -/
def execCas (sz : Sz) (ord : MOrd) (scope : BitVec 5) (sd sa sb sc : SReg) (s : State) : Out :=
  .next (scalarAtomic s none sz ord scope sd sa (casNew sz sb sc))

/-! ### Prefetch and fences (R226, R227) -/

/-- R79, R226: what a PREF of level 2 fills where it is not dropped: the line in the memory-side cache. A failed check, a device page, a
register, a remote line, a lost line and a line of a live range fill nothing. The check leaves no mark: PREF has no effect that a program can
observe, apart from time; a pool line that it fetches is metered (R90). -/
def prefetched (s : State) (va : Word) : State :=
  match (checkVa s .read true va).2 with
  | .error _ => s
  | .ok tr => if tr.dev || (homeKey s tr.pa).isNone || poolLost s tr.pa || (liveRange s tr.pa).isSome then s
    else fillMsc (poolMeter s tr.pa) tr.pa

/-- R226: PREF never faults and may be dropped at any time: at levels 0 and 1 it is, whatever its write intent; at level 2, by a free choice
(log 50). -/
def execPref (lvl : PrefLevel) (wr : Bool) (sa : SReg) (imm : BitVec 32) (s : State) : Out :=
  .next (match lvl, wr with
    | .msc, _ => (if Config.choice s.free % 2 = 0 then s.takeFree else prefetched s.takeFree (eaImm s sa imm)).advance
    | _, _ => s.advance)

/-- R227: FENCE. -/
def execFence (kind : FenceKind) (scope : BitVec 5) (s : State) : Out :=
  .next (gated s { scope := some scope.toNat } fun s =>
    if kind ≠ .acq ∧ !releaseReady s scope.toNat then s.stall .release
    else (if kind = .rel then s else acquirePoint s scope.toNat).advance)

/-! ### Reductions into live ranges (R157, R160, R161, R228) -/

/-- R157: a live range of the acting unit's partition at a physical address. -/
def rangeOf (s : State) (p : Option Nat) (pa : Nat) : Option Range :=
  match liveRange s pa with
  | some r => if r.part = p then some r else none
  | none => none

/-- R160: a fresh partial. -/
def newPartial (agent slice line : Nat) (r : Range) : Partial :=
  let w := rfmtBytes r.fmt
  { agent := agent, slice := slice, line := line, touched := 0,
    bytes := (rangeFrom 0 (64 / w)).foldl (fun x i => setElem x w i (identityR r.fmt r.op)) 0 }

/-- R160: one element combined into a partial. -/
def combineElem (r : Range) (p : Partial) (i v : Nat) : Partial :=
  let w := rfmtBytes r.fmt
  { p with bytes := setElem p.bytes w i (combineR r.fmt r.op (elemAt p.bytes w i) v), touched := p.touched ||| BitVec.ofNat 64 (2 ^ i) }

/-- R161: one element combined at home, last: a reduction of a requester without a partial. -/
def reduceHome (s : State) (r : Range) (pa v : Nat) : State × Option (BitVec 8) :=
  let w := rfmtBytes r.fmt
  match homeRead s pa w with
  | (s, .error c) => (s, some c)
  | (s, .ok bs) => homeWrite s pa (toBytes (BitVec.ofNat 64 (combineR r.fmt r.op (ofBytesNat bs) v)) w) none

/-- The partial of a line in a holder's slice. -/
def partialAt (s : State) (agent slice line : Nat) : Option Partial :=
  s.mem.partials.find? fun x => x.agent == agent && x.slice == slice && x.line == line

/-- Replaces or adds a partial. -/
def putPartial (s : State) (p : Partial) : State :=
  s.setMem { s.mem with
    partials := p :: s.mem.partials.filter fun x => !(x.agent == p.agent && x.slice == p.slice && x.line == p.line) }

/-- R160, R382: one element reduced by a core into the range `r`: into its slice's partial, for which the slice makes room (R144). -/
def reduceElem (s : State) (q : Req) (r : Range) (pa v : Nat) : State × Option (BitVec 8) :=
  let s := takeToken (rehashLine s q.site q.part pa) q pa
  match sliceFor s q.site q.part pa with
  | none =>
    (match atHome s q pa with
      | (s, true) => (s, some cFABRIC)
      | (s, false) => reduceHome s r pa v)
  | some sl =>
    let s := sliceRoom s q.site sl (lineOf pa)
    let p := (partialAt s (q.site + 1) sl (lineOf pa)).getD (newPartial (q.site + 1) sl (lineOf pa) r)
    (putPartial s (combineElem r p (pa % 64 / rfmtBytes r.fmt) v), none)

/-- R160: the elements that a value of `nb` bytes covers: one, or the two bf16 elements of a four-byte value. -/
def reduceInto (s : State) (q : Req) (r : Range) (pa nb v : Nat) : State × Option (BitVec 8) :=
  let w := rfmtBytes r.fmt
  if nb = 4 ∧ w = 2 then
    match reduceElem s q r pa (v % 65536) with
    | (s, some c) => (s, some c)
    | (s, none) => reduceElem s { q with paid := true, again := true } r (pa + 2) (v / 65536 % 65536)
  else reduceElem s q r pa (v % 2 ^ (8 * nb))

/-- R160: does a reduction of `nb` bytes match the range? Only a REDS of size 2 covers two bf16 elements. -/
def sizeMatches (r : Range) (reds : Bool) (nb : Nat) : Bool := nb == rfmtBytes r.fmt || (reds && nb == 4 && rfmtBytes r.fmt == 2)

/-- R218, R160: a reduction to a remote line is judged at its home package, whose ranges are not known here: it is answered with BOUNDS,
late, or takes effect there, with a result this package does not know. No copy of the line stays in the executing core's L1 (R213) nor in
the package's slices. -/
def reduceRemote (s : State) (q : Req) (pa nb : Nat) : State × Option Cause :=
  let s := takeToken s q pa
  match homeKey s pa with
  | none => (s, some (cFABRIC, 0))
  | some key =>
    let k := Config.choice s.free % 3
    if k = 0 then (s.takeFree, some (cBOUNDS, 6))
    else if k = 1 then (s.takeFree, some (cBOUNDS, 5))
    else if memPoison s.mem key then (s.takeFree, some (cPOISON, 0))
    else
      let s := remoteWritten (s.takeFree.setMem (putBytes s.mem key (toBytes (Config.value s.free) nb))) q pa fun _ => none
      (l1Drop s (coreOf q.u) fun l => l == lineOf pa, none)

/-- R216, row 5, R160: why a REDS of `nb` bytes may not reduce at an address of this package. -/
def redsRow (s : State) (nb pa : Nat) : Option Cause :=
  match rangeOf s (partOf s s.cur) pa with
  | none => some (cBOUNDS, 6)
  | some r => if sizeMatches r true nb then none else some (cBOUNDS, 5)

/-- R160, R218: the reduction of a value of `nb` bytes at a translated address, and its late fault. -/
def redsAt (s : State) (tr : Trans) (nb v : Nat) : State × Option Cause :=
  if isRemote tr.pa then reduceRemote s (s.req tr false) tr.pa nb
  else
    match rangeOf s (partOf s s.cur) tr.pa with
    | none => (s, some (cBOUNDS, 6))
    | some r =>
      match reduceInto s (s.req tr false) r tr.pa nb v with
      | (s, c) => (s, c.map fun c => (c, 0))

/-- R228, R217: REDS. -/
def scalarReduce (s : State) (late : Late) (sz : Sz) (sa sb : SReg) : State :=
  gated s { feats := [2], new6 := true } fun s =>
    let ea := s.rs sa
    checkedAt s .atomic false ea sz.bytes fun s tr =>
      match (if isRemote tr.pa then none else redsRow s sz.bytes tr.pa), lateAt late 0 with
      | some c, _ => trapS s c ea
      | none, some c => trapScalar s (c, 0) ea true true
      | none, none =>
        match redsAt s tr sz.bytes (fieldNat (s.rs sb) 0 (8 * sz.bytes)) with
        | (s, some c) => trapScalar s c ea true true
        | (s, none) => s.dirtied.advance

/-- R228: REDS. -/
def execReds (sz : Sz) (sa sb : SReg) (s : State) : Out := .next (scalarReduce s none sz sa sb)

/-! ### Ranges of virtual addresses -/

/-- A piece of a range within one 4 KiB page: its virtual and physical address and its lines. -/
structure Piece where
  va : Word
  pa : Nat
  lines : Nat
  dev : Bool
  deriving DecidableEq, Repr

/-- R154, R137: checks `n` pages of 4 KiB from a virtual address; `left` lines remain. The first failure is reported with its address;
a range that passes the top of the address space fails there. -/
def checkPieces (s : State) (k : AccKind) (plain : Bool) (va : Word) (left : Nat) : Nat → State × Except (Cause × Word) (List Piece)
  | 0 => (s, .ok [])
  | n + 1 =>
    if left = 0 then (s, .ok [])
    else
      match checkVa s k plain va with
      | (s, .error c) => (s, .error (c, va))
      | (s, .ok tr) =>
        let here := min left (64 - va.toNat % 4096 / 64)
        if here < left ∧ 2 ^ 64 ≤ va.toNat + 64 * here then (s, .error ((cBOUNDS, 0), 0))
        else
        match checkPieces s k plain (va + BitVec.ofNat 64 (64 * here)) (left - here) n with
        | (s, .ok ps) => (s, .ok (⟨va, tr.pa, here, tr.dev⟩ :: ps))
        | (s, .error e) => (s, .error e)

/-- The number of lines that bytes `[a, a + n)` touch. -/
def linesOf (a : Word) (n : Nat) : Nat := if n = 0 then 0 else ceilDiv (a.toNat % 64 + n) 64

/-! ### Maintenance (R154, R155) -/

/-- The three instructions of R154. -/
inductive Maint where
  | wb | inv | wbinv
  deriving DecidableEq, Repr

/-- R155: the write-back of an NCF line by a maintenance instruction: a refusal by home is the executing context's (R382). -/
def maintNcf (m : Maint) (acc : State × Option (BitVec 8)) (x : NcfLine) : State × Option (BitVec 8) :=
  match m with
  | .inv => (ncfErase acc.1 x.site x.slice x.line, acc.2)
  | .wb => ((ncfReturn acc.1 x).1, acc.2.or (ncfReturn acc.1 x).2)
  | .wbinv => (ncfErase (ncfReturn acc.1 x).1 x.site x.slice x.line, acc.2.or (ncfReturn acc.1 x).2)

/-- R155: maintains the lines of a piece: the executing core's L1 and fetched code, and the slices of its die that its partition's
requests look in. -/
def maintPiece (m : Maint) (acc : State × Option (BitVec 8)) (p : Piece) : State × Option (BitVec 8) :=
  let s := acc.1
  if p.dev || isDevice p.pa then acc
  else
    let core := coreOf s.cur
    let site := siteOfCore core
    let hit (line : Nat) : Bool := decide (p.pa ≤ 64 * line) && decide (64 * line < p.pa + 64 * p.lines)
    let live := ((s.mem.partials.map (·.line)) ++ (s.mem.ncf.map (·.line))).filter fun l => hit l && (liveRange s (64 * l)).isSome
    let s := gatherLines s live.eraseDups
    let s := if m = .wb then s else l1Drop s core hit
    let s := if m = .inv then
        s.setMem { s.mem with code := s.mem.code.filter fun x => !(x.core == core && hit (lineOf x.pa)) } else s
    let s := writeOwned s (s.mem.dir.filter fun h => h.agent == site + 1 && hit h.line)
    let s := if m = .wb then s else s.setMem { s.mem with rem := s.mem.rem.filter fun x => !(x.site == site && hit x.line) }
    let s := if m = .wb then
        s.setMem { s.mem with dir := s.mem.dir.map fun h =>
          if h.agent = site + 1 ∧ hit h.line then h.written else h }
      else s.setMem { s.mem with dir := s.mem.dir.filter fun h => !(h.agent == site + 1 && hit h.line) }
    (s.mem.ncf.filter fun x => x.site == site && hit x.line).foldl (maintNcf m) (s, acc.2)

/-- R154: the three maintenance instructions. -/
def maintain (s : State) (m : Maint) (sa sb : SReg) : State :=
  let a := s.rs sa
  let n := (s.rs sb).toNat
  if 0x40000000 < n then trapS s (cBOUNDS, 1) a
  else if n = 0 then s.dirtied.advance
  else
    let first := a - BitVec.ofNat 64 (a.toNat % 64)
    let lines := linesOf a n
    match checkPieces s (if m = .wb then .read else .write) true first lines (lines + 1) with
    | (s, .error (c, va)) => trapS s c va
    | (s, .ok ps) =>
      match ps.foldl (maintPiece m) (s, none) with
      | (s, none) => s.dirtied.advance
      | (s, some c) => trapScalar s.dirtied (c, 0) a true true

/-- R154: CWB. -/
def execCwb (sa sb : SReg) (s : State) : Out := .next (maintain s .wb sa sb)
/-- R154: CINV. -/
def execCinv (sa sb : SReg) (s : State) : Out := .next (maintain s .inv sa sb)
/-- R154: CWBI. -/
def execCwbi (sa sb : SReg) (s : State) : Out := .next (maintain s .wbinv sa sb)

/-! ### RRDEF and RRDROP (R158, R159) -/

/-- R158: the end of the page mapping that holds an address: of the stage-1 leaf, else of the stage-2 leaf, else none. -/
def mappingEnd (s : State) (t : TransCtx) (va : Word) : Option Nat :=
  let a := va.toNat % 2 ^ 57
  let sizeOf (e : Word) (level : Nat) : Nat := if bitAt e 7 then 65536 else 2 ^ levelShift level
  if ttbEn t.ttb1 then
    match (stage1 s t true a).2 with
    | .ok w => some ((a / sizeOf w.entry w.level + 1) * sizeOf w.entry w.level)
    | .error _ => none
  else if ttbEn t.ttb2 then
    match (stage2 s t true va.toNat).2 with
    | .ok w => some ((va.toNat / sizeOf w.entry w.level + 1) * sizeOf w.entry w.level)
    | .error _ => none
  else none

/-- R158: do the bytes lie in enabled near and LPDDR sets, outside every forwarding pair? The pieces are walked set by set. -/
def inSets (s : State) (pa len : Nat) : Nat → Bool
  | 0 => false
  | n + 1 =>
    if len = 0 then true
    else
      match setOf s pa with
      | none => false
      | some (lp, k) =>
        let here := min len (setBase s lp k + setLen s lp k - pa)
        inSets s (pa + here) (len - here) n

/-- R158: no byte of a range lies in a forwarding pair. -/
def clearOfPairs (s : State) (pa len : Nat) : Bool := s.mem.fwd.all fun f => !overlaps pa len f.src f.size && !overlaps pa len f.dst f.size

/-- R158: every cached copy of a range is written back and invalidated, in every L1 and die L2. -/
def flushRange (s : State) (pa len : Nat) : State :=
  let hit (line : Nat) : Bool := decide (pa ≤ 64 * line) && decide (64 * line < pa + len)
  let s := (s.mem.ncf.filter fun x => hit x.line).foldl (fun s x => ncfErase (ncfWriteBack s x) x.site x.slice x.line) s
  let s := writeOwned s (s.mem.dir.filter fun h => hit h.line)
  s.setMem { s.mem with
    l1 := s.mem.l1.filter fun x => !hit x.line
    code := s.mem.code.filter fun x => !hit (lineOf x.pa)
    dir := s.mem.dir.filter fun h => !hit h.line }

/-- R158: RRDEF. -/
def execRrdef (fmt : RFmt) (op : ROp) (sa sb : SReg) (s : State) : Out :=
  .next (gated s { feats := [2], new6 := true } fun s =>
    let a := s.rs sa
    let u := (s.rs sb).toNat
    if a.toNat % 2048 ≠ 0 then trapS s (cMISALIGN, 0) a
    else if u = 0 ∨ 524288 < u then trapS s (cBOUNDS, 1) a
    else
      match checkVa s .atomic false a with
      | (s, .error c) => trapS s c a
      | (s, .ok tr) =>
        let len := 2048 * u
        let past := match mappingEnd s (unitTrans s s.cur s.me.mode) a with
          | some e => decide (e < a.toNat % 2 ^ 57 + len)
          | none => false
        if past then trapS s (cBOUNDS, 1) a
        else if !inSets s tr.pa len 33 || !clearOfPairs s tr.pa len then trapS s (cBOUNDS, 7) a
        else if s.mem.ranges.any fun r => overlaps tr.pa len r.base r.len then trapS s (cBOUNDS, 2) a
        else if 256 ≤ s.mem.ranges.length then trapS s (cBOUNDS, 3) a
        else
          let s := flushRange s tr.pa len
          (s.setMem { s.mem with ranges := s.mem.ranges ++ [⟨partOf s s.cur, tr.pa, len, fmt, op⟩] }).dirtied.advance)

/-- R159: RRDROP. -/
def execRrdrop (sa : SReg) (s : State) : Out :=
  .next (gated s { feats := [2], new6 := true } fun s =>
    let a := s.rs sa
    match checkVa s .read false a with
    | (s, .error c) => trapS s c a
    | (s, .ok tr) =>
      match s.mem.ranges.find? fun r => r.part == partOf s s.cur && r.base == tr.pa with
      | none => trapS s (cBOUNDS, 4) a
      | some r =>
        let s := gatherRange s r
        (s.setMem { s.mem with ranges := s.mem.ranges.filter fun x => x != r }).dirtied.advance)

/-! ### Line descriptors (R137 to R139) -/

/-- R133. -/
def descOk (d : BitVec 16) : Bool :=
  let scale := field d 8 8
  if bitAt d 7 then fieldNat d 0 2 == 0 && fieldNat d 4 3 != 0 && scale != 0x80
  else fieldNat d 0 7 < 8 && scale == 0

/-- R137, R138: a line's descriptor written below the L1, as one relaxed store of its side bytes. -/
def descStore (s : State) (r : Req) (pa : Nat) (d : BitVec 16) : State × Option (BitVec 8) :=
  let s := gatherIfLive (takeToken (rehashLine s r.site r.part pa) r pa) pa
  match homeKey s pa with
  | none => (s, some cFABRIC)
  | some key =>
    if versionedAt s pa then (s, some cFABRIC)
    else if isPool pa then (s, none)
    else
      let ncf := cohClass s r.site == 2 && !isRemote pa && (liveRange s pa).isNone
      match (if ncf then sliceFor s r.site r.part pa else none) with
      | some sl =>
        let x := (ncfLookup s r.site r.part pa).getD
          { site := r.site, slice := sl, line := lineOf pa, bytes := 0, held := 0, dirty := 0, valid := false, desc := 0, descDirty := false, part := r.part }
        (ncfPut s { x with desc := d, descDirty := true }, none)
      | none =>
        match askHome s r pa with
        | (s, true) => (s, some cFABRIC)
        | (s, false) =>
          let s := if isRemote pa then remoteWritten s r pa fun x => some { x with desc := d }
            else if (liveRange s pa).isSome then dirDrop s (lineOf pa)
            else afterWrite s r pa
          if memPoison s.mem key then (s, none) else (invalidateSharers (s.setMem (putDesc s.mem key d)) pa, none)

/-- R137, R138, R145: a line's descriptor as one store: the core's own L1 copy takes it too. -/
def descWrite (s : State) (r : Req) (pa : Nat) (d : BitVec 16) : State × Option (BitVec 8) :=
  match descStore s r pa d with
  | (s, some c) => (s, some c)
  | (s, none) =>
    (s.setMem { s.mem with
      l1 := s.mem.l1.map fun x => if x.core = coreOf r.u ∧ x.line = lineOf pa ∧ !isPool pa then { x with desc := d } else x }, none)

/-- What writing the lines of a DSET has come to: the first late fault with its address, and whether any line has taken effect. -/
abbrev DescDone := State × Option (BitVec 8 × Word) × Bool

/-- R137: writes the lines of a piece; the first late fault is kept with its address. -/
def descPiece (d : BitVec 16) (acc : DescDone) (p : Piece) : DescDone :=
  (rangeFrom 0 p.lines).foldl (fun acc i =>
    match descWrite acc.1 { u := acc.1.cur, part := partOf acc.1 acc.1.cur } (p.pa + 64 * i) d with
    | (s, none) => (s, acc.2.1, true)
    | (s, some c) => (s, acc.2.1.or (some (c, p.va + BitVec.ofNat 64 (64 * i))), acc.2.2)) acc

/-- R137, R368: DSET. A late fault leaves it committed only where another line took effect. -/
def execDset (sa sb sc : SReg) (s : State) : Out :=
  .next (gated s { feats := [3], new6 := true } fun s =>
    let d := s.rs sc
    let a := s.rs sa
    let n := (s.rs sb).toNat
    if fieldNat d 16 48 ≠ 0 ∨ !descOk (field d 0 16) then trapS s (cMALFORMED, 0) a
    else if a.toNat % 64 ≠ 0 ∨ n % 64 ≠ 0 then trapS s (cMISALIGN, 0) a
    else if 0x200000 < n then trapS s (cBOUNDS, 1) a
    else
      match checkPieces s .write false a (n / 64) (n / 64 + 1) with
      | (s, .error (c, va)) => trapS s c va
      | (s, .ok ps) =>
        match ps.foldl (descPiece (field d 0 16)) (s, none, false) with
        | (s, none, _) => s.dirtied.advance
        | (s, some (c, va), took) => trapScalar (if took then s.dirtied else s) (c, 0) va true true)

/-- R139: DGET. -/
def execDget (sd sa : SReg) (s : State) : Out :=
  .next (gated s { feats := [3], new6 := true } fun s =>
    let a := s.rs sa
    match checkVa s .read false a with
    | (s, .error c) => trapS s c a
    | (s, .ok tr) =>
      match readLine s { s.req tr false with desc := true } (tr.pa / 64 * 64) (BitVec.allOnes 64) with
      | (s, .error c) => trapScalar s (c, 0) a true false
      | (s, .ok l) => s.setS sd (if isPool tr.pa then 0 else l.2.setWidth 64))

end Sys2Proof.Machine
end

