-- ==== Sys2Proof/Machine/Place.lean ====
section
/-! DEFINITION. Placement: the room a member needs (R315, R344, R345, R375, R382, R388), the registers a unit is given (R361, R383), and the
start state of packs, tasks and host threads (R313, R410). -/

namespace Sys2Proof.Machine

/-- R58: the lane register allocation of a `vregs` field. -/
def allocOf (vregs : Nat) : Nat := 16 * ceilDiv vregs 16

/-- R342: the effective priority of a packet in a queue. -/
def effPrio (s : State) (q : Nat) (p : Rec512) : Nat := min (pkPrio p) (hubF s (0x4000 + 8 * q) 5 3)

/-! ### The save area (R375) -/

/-- Do `n` bytes from a physical address lie in enabled sets that the partition owns or that SETSHR shares? -/
def areaOwned (s : State) (p pa n : Nat) : Nat → Bool
  | 0 => false
  | fuel + 1 =>
    if n = 0 then true
    else
      match setOf s pa with
      | none => false
      | some (lp, k) =>
        (setOwner s lp k == some p || setShared s lp k) &&
        (let here := min n (setBase s lp k + setLen s lp k - pa)
         areaOwned s p (pa + here) (n - here) fuel)

/-- R375: the pages of a partition's save area. -/
def savePages (s : State) (p : Nat) : Nat :=
  let n := hubF s (pBase p + 0x38) 0 32
  if areaOwned s p (hubF s (pBase p + 0x30) 12 40 * 4096) (n * 4096) 33 then n else 0

/-- R375: is there room for `n` pages more? -/
def pagesFit (s : State) (p n : Nat) : Bool := decide ((s.part p).reserved + n ≤ savePages s p)

/-- R375: reserves pages. -/
def takePages (s : State) (p n : Nat) : State := s.setPart p { s.part p with reserved := (s.part p).reserved + n }

/-- R375: pages of a pack's image. -/
def packPages (alloc : Nat) (narrow : Bool) : Nat := 1 + ceilDiv (alloc * (if narrow then 32 else 64) * 4) 4096
/-- R375: pages of a block's image. -/
def blockPages (shared : Nat) : Nat := 1 + ceilDiv shared 4096
/-- R375: pages of a task's image. -/
def taskPages (canvas : Nat) : Nat := 4 + ceilDiv canvas 4096

/-! ### Room (R315, R382, R388) -/

/-- Does a unit of a partition leave it by a Rehang that has reached DRAIN? -/
def leaves (s : State) (p : Nat) (u : PUnit) : Bool :=
  match s.rehang with
  | some r => r.part == p && decide (2 ≤ pPhase s p) && holdsUnit s p u && !planned r.plan u
  | none => false

/-- May the Shepherd place units of a partition at all (R378, R396)? -/
def mayPlace (s : State) (p : Nat) : Bool := pEnabled s p && !pQuiesce s p && !(pPause s p && pPhase s p == 0)

/-- The live packs of a core. -/
def livePacks (s : State) (c : Nat) : List (Nat × Ctx) := s.ctxs.filter fun x => x.2.live && coreOf x.1 == c

/-- Registers of 32 threads in use on a SIMT core (R308). -/
def regsUsed (s : State) (c : Nat) : Nat := (livePacks s c).foldl (fun n x => n + (if x.2.narrow then 1 else 2) * x.2.vregs) 0

/-- R315: room on a SIMT core for `n` packs of an allocation and `shared` bytes of carve-out. -/
def simtFits (s : State) (p c n alloc : Nat) (narrow : Bool) (shared : Nat) : Bool :=
  siteState s (siteOfCore c) == 3 && (tenantOf s c p).isSome && !leaves s p (.simt (c - 64)) &&
  decide ((livePacks s c).length + n ≤ 64) && decide (regsUsed s c + (if narrow then 1 else 2) * alloc * n ≤ 16384) &&
  decide (s.blocks.foldl (fun n x => match x.2 with
    | some b => if b.resident ∧ b.core = c then n + b.sharedSize else n
    | none => n) shared ≤ 524288)

/-- R315: is a host core idle and the partition's? -/
def hostFits (s : State) (p c : Nat) : Bool :=
  let x := s.ctx (unitId c 0)
  siteState s 0 == 3 && hostOwner s c == some p && !leaves s p (.host c) && x.launch.isNone && (!x.live || x.wait == .halted)

/-- R407: the bases at which an allocation may stand: multiples of 96 KiB that leave it inside the Canvas and clear of the live tasks. -/
def canvasBases (s : State) (c size : Nat) : List Nat :=
  [0, 0x18000, 0x30000, 0x48000].filter fun b =>
    decide (b + size ≤ 0x60000) &&
    (rangeFrom 0 4).all fun j =>
      let x := s.ctx (unitId c j)
      !(x.live && overlaps b size x.cbase x.csize)

/-- R407: the base of an allocation, of the Shepherd's own choice among them (log 38). -/
def canvasBase (s : State) (c size : Nat) : Option Nat :=
  match canvasBases s c size with
  | [] => none
  | b :: r => some ((b :: r).getD (Config.choice s.free % (r.length + 1)) b)

/-- R315, R382: does a systolic core admit a task of a partition? -/
def taskFits (s : State) (p c canvas accslots : Nat) : Bool :=
  let i := c - 256
  match ctxOwned s p i with
  | none => false
  | some j =>
    siteState s (siteOfCore c) == 3 && !leaves s p (.ctx i j) && !(s.ctx (unitId c j)).live && (canvasBase s c canvas).isSome &&
    (accslots == 0 || (sysOwner s c 4 == some p && !leaves s p (.ma i)))

/-- R291: does a core have an owner tag that no task holds? -/
def tagFree (s : State) (c : Nat) : Bool := (rangeFrom 0 255).any fun t => (s.core c).tagctx.all fun x => x.tag != t

/-! ### The choice of a core (R344, R345) -/

/-- The entry of a list with the least key, the first on a tie. -/
def leastBy (key : Nat → Nat) : List Nat → Option Nat
  | [] => none
  | x :: r =>
    match leastBy key r with
    | none => some x
    | some y => if key y < key x then some y else some x

/-- What a core's own sensor read last. -/
def sensorOf (s : State) (c : Nat) : Nat := (s.die (siteOfCore c)).sensors.getD (c - (coresOfSite (siteOfCore c)).1) 0

/-- The last temperature sample of a die. -/
def dieTemp (s : State) (site : Nat) : Nat := if 1 ≤ site ∧ site ≤ 6 then hubF s (0xA80 + 8 * site) 8 8 else 0

/-- The dies of a class in the order of R344. -/
def diesByTemp (s : State) : List Nat → Nat → List Nat
  | _, 0 => []
  | l, n + 1 =>
    match leastBy (dieTemp s) l with
    | none => []
    | some d => d :: diesByTemp s (l.filter fun x => x != d) n

/-- The dies of a packet's code. -/
def codeDies (code : Nat) : List Nat := if code = 0 then [0] else if code = 1 then [1, 2] else [3, 4, 5, 6]

/-- R345: the dies a member may be placed on, in the order of R344. -/
def diesFor (s : State) (p code prio : Nat) (noDefer : Bool) : List Nat :=
  (diesByTemp s (codeDies code) 4).filter fun d =>
    noDefer || decide (hubF s (0xB00 + 8 * p) 0 3 ≤ prio) || hubF s (0xA40 + 8 * d) 17 1 == 0 || d == 0

/-- The coolest core of a die that `f` admits. -/
def coreOn (s : State) (d : Nat) (f : Nat → Bool) : Option Nat :=
  leastBy (sensorOf s) ((rangeFrom (coresOfSite d).1 (coresOfSite d).2).filter f)

/-- The first die's coolest admitting core. -/
def coreAmong (s : State) (f : Nat → Bool) : List Nat → Option Nat
  | [] => none
  | d :: r =>
    match coreOn s d f with
    | some c => some c
    | none => coreAmong s f r

/-! ### What a unit is given (R361, R383, R384) -/

/-- R361, R383: the fault and translation registers that the Shepherd loads at every start and restore. -/
def loadRegs (s : State) (p u : Nat) (c : Ctx) : Ctx :=
  let slot : Word := BitVec.ofNat 64 (1024 * (64 * coreOf u + u % 128))
  { c with
    sup := { c.sup with frbase := s.hubR (fBase p) + slot, fhandler := s.hubR (fBase p + 8) }
    hyp := { c.hyp with frbase := s.hubR (fBase p + 0x10) + slot, fhandler := s.hubR (fBase p + 0x18) }
    ttb1 := s.hubR (pBase p + 8)
    ttb2 := s.hubR (pBase p + 0x18)
    ctxid := field (s.hubR (pBase p + 0x10)) 0 16
    vmid := field (s.hubR (pBase p + 0x10)) 16 16
    part := some p
    live := true }

/-- R39: an address as the PC takes it: bits [2:0] of the PC are always zero (log 47). -/
def pcOf (a : Word) : Word := a &&& ~~~ 7

/-- R313: the scalar registers of a start. -/
def startRegs (c : Ctx) (s1 args : Word) : Ctx := ((c.setReg 1 s1).setReg 2 args).setReg 62 Config.endAddress

/-- R145, R41: the start of work on a core discards its L1 lines and its fetched code. -/
def startWork (s : State) (c : Nat) : State :=
  let s := l1Clear s c
  s.setMem { s.mem with code := s.mem.code.filter fun x => x.core != c }

/-- The lowest free core slot of a SIMT core (R334). -/
def freeSlot (s : State) (c : Nat) : Option Nat := (rangeFrom 0 64).find? fun i => !(s.ctx (unitId c i)).live

/-- R307: the quarter that holds the fewest packs, the lowest on a tie. -/
def quarterFor (s : State) (c : Nat) : Nat :=
  (leastBy (fun q => ((livePacks s c).filter fun x => x.2.quarter == q).length) [0, 1, 2, 3]).getD 0

/-- R307, R313, R319: one pack becomes resident in a block, with its registers, image pages and scope entries. -/
def startPack (s : State) (b : Nat) (blk : Block) (i : Nat) (pc args : Word) : State :=
  match freeSlot s blk.core with
  | none => s
  | some k =>
    let p := blk.part.getD 0
    let u := unitId blk.core k
    let n := packPages blk.vregs blk.narrow
    let c : Ctx := loadRegs s p u { pc := pcOf pc, startpc := pcOf pc, narrow := blk.narrow, launch := some blk.launch, block := some b, member := i,
                                    index := i, quarter := quarterFor s blk.core, vregs := blk.vregs, age := s.cycles, pages := n }
    let s := takePages (s.setCtx u (startRegs c (BitVec.ofNat 64 i) args)) p n
    let s := s.setBlock b (some { blk with packs := blk.packs ++ [(i, u)] })
    startHolder s p u

/-- The packs of a new block, in index order. -/
def startPacks (s : State) (b : Nat) (pc args : Word) : List Nat → State
  | [] => s
  | i :: r =>
    match s.block b with
    | none => s
    | some blk => startPacks (startPack s b blk i pc args) b pc args r

/-- R346: the gang a new block joins: the resident one, or a new one. -/
def gangFor (s : State) (p : Nat) : State × Nat :=
  match (s.part p).resident with
  | some g => (s, g)
  | none =>
    let g := s.nextId
    ({ s.setPart p { s.part p with resident := some g, gangs := (s.part p).gangs ++ [g] } with nextId := g + 1 }, g)

/-- R313: one block of a launch starts on a core. -/
def startBlock (s : State) (l : Nat) (x : Launch) (idx core : Nat) (co : Option Nat) : State :=
  let pk := x.packet
  match gangFor s x.part with
  | (s, gang) =>
    let b := s.nextId
    let blk : Block :=
      { launch := l, core := core, part := some x.part, x := idx % pkX pk, y := idx / pkX pk % pkY pk, z := idx / pkX pk / pkY pk,
        cohidx := if pkCohort pk = 0 then 0 else idx % pkCohort pk, cohort := co, maxpacks := pkMax pk, cohblocks := pkCohort pk,
        narrow := x.narrow, vregs := allocOf (pkVregs pk), sharedSize := pkShared pk, gang := gang, pages := blockPages (pkShared pk) }
    let s := takePages { s.setBlock b (some blk) with nextId := b + 1 } x.part blk.pages
    let s := match co with
      | some k => (match s.cohort k with
          | some c => s.setCohort k (some { c with blocks := c.blocks ++ [b] })
          | none => s.setCohort k (some { launch := l, blocks := [b] }))
      | none => s
    startPacks (setCarve (startWork s core) core) b x.entry (pkArgs pk) (rangeFrom 0 (pkPacks pk))

/-- R410: the lowest spill index that no live task of the partition holds. -/
def freeSpill (s : State) (p : Nat) : Option Nat :=
  (rangeFrom 0 1024).find? fun k =>
    !(s.ctxs.any fun x => x.2.live && x.2.part == some p && x.2.spillIdx == some k) &&
    !(s.saved.any fun v => v.part == p && v.ctx.spillIdx == some k)

/-- R291: a free owner tag of a core, of the Shepherd's own choice. -/
def freeTag (s : State) (c : Nat) : Nat :=
  let free := (rangeFrom 0 255).filter fun t => (s.core c).tagctx.all fun x => x.tag != t
  free.getD (Config.choice s.free % free.length) 0

/-- R291: what a new owner tag of a core stands for. -/
def bindTag (k : Core) (tag j : Nat) (c : Ctx) : Core :=
  { k with tagctx := ⟨tag, some j, c.accsave, c.ttb1, c.ttb2, c.ctxid, c.vmid, c.part⟩ :: k.tagctx.filter fun t => t.tag != tag }

/-- R313: a Canvas range reads zero. -/
def clearCanvas (k : Core) (base size : Nat) : Core :=
  let hit (a : Nat) : Bool := decide (base ≤ a) && decide (a < base + size)
  { k with
    canvas := k.canvas.filter fun x => !hit x.1
    cdesc := k.cdesc.filter fun x => !hit (64 * x.1)
    cpoison := k.cpoison.filter fun x => !hit (64 * x.1) }

/-- R313, R291, R410: one task of a launch starts on a control context. -/
def startTask (s : State) (l : Nat) (x : Launch) (idx core : Nat) : State :=
  match ctxOwned s x.part (core - 256), canvasBase s core (pkCanvas x.packet) with
  | some j, some base =>
    let s := s.takeFree
    let u := unitId core j
    let pk := x.packet
    let n := taskPages (pkCanvas pk)
    let acc := decide (0 < pkAccslots pk)
    let tag := freeTag s core
    let idxS := if acc then freeSpill s x.part else none
    let area := s.hubR (0x6B00 + 8 * x.part)
    let addr : Word := match idxS with
      | some k => if area = 0 then 0 else area + BitVec.ofNat 64 (k * 2 ^ 23)
      | none => 0
    let s := startWork (if acc then s.takeFree else s) core
    let c : Ctx := loadRegs s x.part u { pc := pcOf x.entry, startpc := pcOf x.entry, launch := some l, member := idx, cbase := base, csize := pkCanvas pk,
                                         accslots := pkAccslots pk, accsave := if acc then addr ||| BitVec.ofNat 64 tag else 0xFF,
                                         spillIdx := idxS, age := s.cycles, pages := n }
    let k := clearCanvas (s.core core) base (pkCanvas pk)
    let s := s.setCore core (if acc then bindTag k tag j c else k)
    startHolder (takePages (s.setCtx u (startRegs c (BitVec.ofNat 64 idx) (pkArgs pk))) x.part n) x.part u
  | _, _ => s

/-- R313, R361: one host thread of a launch starts on a host core, whose own values are kept. -/
def startHost (s : State) (l : Nat) (x : Launch) (idx core : Nat) : State :=
  let u := unitId core 0
  let old := s.ctx u
  let s := startWork { s with former := Sparse.set s.former u old } core
  let c : Ctx := loadRegs s x.part u { pc := pcOf x.entry, startpc := pcOf x.entry, launch := some l, member := idx, age := s.cycles, pages := 1 }
  startHolder (takePages (s.setCtx u (startRegs c (BitVec.ofNat 64 idx) (pkArgs x.packet))) x.part 1) x.part u

/-! ### Members (R315, R343) -/

/-- Places the blocks `idx`, `idx + 1`, … of a cohort on cores of one die, or none of them. -/
def placeCohort (s : State) (l : Nat) (x : Launch) (d : Nat) (co : Option Nat) (idx : Nat) : Nat → Option State
  | 0 => some s
  | n + 1 =>
    match coreOn s d fun c => simtFits s x.part c (pkPacks x.packet) (allocOf (pkVregs x.packet)) x.narrow (pkShared x.packet) with
    | none => none
    | some c => placeCohort (startBlock s l x idx c co) l x d co (idx + 1) n

/-- The first die that takes a whole cohort. -/
def placeCohortOn (s : State) (l : Nat) (x : Launch) (co : Option Nat) (idx n : Nat) : List Nat → Option State
  | [] => none
  | d :: r =>
    match placeCohort s l x d co idx n with
    | some t => some t
    | none => placeCohortOn s l x co idx n r

/-- R315, R375: places the next member of a launch, or its next cohort: none where nothing admits it now. -/
def placeNext (s : State) (l : Nat) (x : Launch) : Option State :=
  let pk := x.packet
  let dies := diesFor s x.part x.code (effPrio s x.queue pk) x.noDefer
  let idx := x.placed
  let counted (n : Nat) (t : State) : State := match t.launch l with
    | some y => t.setLaunch l (some { y with placed := y.placed + n, deferredSince := none, noDefer := false })
    | none => t
  if x.members ≤ idx ∨ !mayPlace s x.part then none
  else if x.code = 1 then
    let n := max 1 (pkCohort pk)
    let need := n * (blockPages (pkShared pk) + pkPacks pk * packPages (allocOf (pkVregs pk)) x.narrow) + (if pkCohort pk = 0 then 0 else 1)
    if (s.part x.part).switchAt.isSome || !pagesFit s x.part need then none
    else if pkCohort pk = 0 then (placeCohortOn s l x none idx 1 dies).map (counted 1)
    else
      let co := s.nextId
      (placeCohortOn (takePages { s with nextId := co + 1 } x.part 1) l x (some co) idx n dies).map (counted n)
  else if x.code = 2 then
    if !pagesFit s x.part (taskPages (pkCanvas pk)) then none
    else (coreAmong s (fun c => taskFits s x.part c (pkCanvas pk) (pkAccslots pk) && (pkAccslots pk == 0 || tagFree s c)) dies).map fun c => counted 1 (startTask s l x idx c)
  else
    if !pagesFit s x.part 1 then none
    else (coreAmong s (fun c => hostFits s x.part c) dies).map fun c => counted 1 (startHost s l x idx c)

/-- The launches that have started, with their numbers. -/
def started (s : State) : List (Nat × Launch) := s.launches.filterMap fun x => x.2.map fun y => (x.1, y)

/-- R343: does a launch that started earlier, of the same class and of equal or higher effective priority, have members to place first? -/
def earlierFirst (s : State) (x : Launch) : Bool :=
  (started s).any fun y =>
    decide (y.2.seq < x.seq) && y.2.code == x.code && decide (y.2.placed < y.2.members) &&
    decide (effPrio s x.queue x.packet ≤ effPrio s y.2.queue y.2.packet)

end Sys2Proof.Machine
end

