-- ==== Sys2Proof/Machine/Exec.lean ====
section
/-! DEFINITION. Block and cohort barriers (R319, R320), the growing and shrinking of a block (R316, R317) and pauses (R321). -/

namespace Sys2Proof.Machine

/-- What runs on packs only. -/
def packGate : Gate := { host := false, ctl := false, shadow := false }

/-! ### Barriers -/

/-- The acting pack's block. -/
def myBlock (s : State) : Option (Nat × Block) :=
  match s.me.block with
  | none => none
  | some b => (s.block b).map fun blk => (b, blk)

/-- R319: replaces a barrier of a block. -/
def setBar (s : State) (b : Nat) (blk : Block) (i : Nat) (x : Bar) : State :=
  s.setBlock b (some { blk with bars := Sparse.set blk.bars i x })

/-- R320: an arrival at a block barrier, a release at block scope and a side effect; none where it is the second one. -/
def barArrive (s : State) (i : Nat) : Option State :=
  match myBlock s with
  | none => some s
  | some (b, blk) => ((blk.bar i).arrive (blockMembers b blk) (b, s.me.index)).map fun x => (setBar s b blk i x).dirtied

/-- R320: must the acting pack wait at a block barrier? -/
def barWaits (s : State) (i : Nat) : Bool :=
  match myBlock s with
  | none => false
  | some (b, blk) => (blk.bar i).waits (b, s.me.index)

/-- R320: BAR arrives once, then waits for that phase. -/
def execBar (b : BitVec 4) (s : State) : Out :=
  .next (gated s packGate fun s =>
    let go (s : State) : State := if barWaits s b.toNat then s.stall (.bar b.toNat) else s.advance
    if s.me.wait = .bar b.toNat then go s
    else
      match barArrive s b.toNat with
      | some s => go s
      | none => trapS s (cBARRIER, 0) 0)

/-- R320: BARARR. -/
def execBararr (b : BitVec 4) (s : State) : Out :=
  .next (gated s packGate fun s =>
    match barArrive s b.toNat with
    | some s => s.advance
    | none => trapS s (cBARRIER, 0) 0)

/-- R320: BARWT. -/
def execBarwt (b : BitVec 4) (s : State) : Out :=
  .next (gated s packGate fun s => if barWaits s b.toNat then s.stall (.barwt b.toNat) else s.advance)

/-- The acting pack's cohort. -/
def myCohort (s : State) : Option (Nat × Cohort) :=
  match myBlock s with
  | none => none
  | some (_, blk) =>
    match blk.cohort with
    | none => none
    | some k => (s.cohort k).map fun c => (k, c)

/-- The acting pack as barriers name it. -/
def myName (s : State) : PackName := (s.me.block.getD 0, s.me.index)

/-- R320: COHBAR; the departure acquires at cohort scope (R209). -/
def execCohbar (s : State) : Out :=
  .next (gated s { packGate with feats := [5], new6 := true } fun s =>
    match myCohort s with
    | none => trapS s (cBARRIER, 1) 0
    | some (k, c) =>
      let go (s : State) (x : Bar) : State := if x.waits (myName s) then s.stall .cohbar else (acquirePoint s 3).advance
      if s.me.wait = .cohbar then go s c.bar
      else
        match c.bar.arrive (cohortMembers s c) (myName s) with
        | some x => go (s.setCohort k (some { c with bar := x })).dirtied x
        | none => trapS s (cBARRIER, 0) 0)

/-! ### Growing and shrinking -/

/-- R316: packs that queued requests of a block still want. -/
def queuedPacks (b : Block) : Nat := b.attach.foldl (fun n r => n + r.1) 0

/-- R316: ATTACH queues a request; the pack continues at once. -/
def execAttach (sa : SReg) (disp : BitVec 34) (s : State) : Out :=
  .next (gated s { packGate with feats := [4], new6 := true } fun s =>
    let n := (s.rs sa).toNat
    if n = 0 then s.dirtied.advance
    else
      match myBlock s with
      | none => s.dirtied.advance
      | some (b, blk) =>
        if 32 < n ∨ blk.maxpacks < blk.packs.length + queuedPacks blk + n then trapS s (cBOUNDS, 12) 0
        else (s.setBlock b (some { blk with attach := blk.attach ++ [(n, target s disp)] })).dirtied.advance)

/-- The lowest index clear in MAP. -/
def freeIndex (blk : Block) : Nat := ((rangeFrom 0 32).find? fun i => !(blk.packs.any fun x => x.1 == i)).getD 0

/-- R316: the core frees registers, and one pack of the oldest request of a block becomes resident. -/
def execAttachGrant (block : Nat) (s : State) : Out :=
  .next (
    match s.block block with
    | none => s
    | some blk =>
      match blk.attach with
      | [] => s
      | (n, pc) :: r =>
        if !blk.resident || !mayPlace s (blk.part.getD 0) || !simtFits s (blk.part.getD 0) blk.core 1 blk.vregs blk.narrow 0 ||
            !pagesFit s (blk.part.getD 0) (packPages blk.vregs blk.narrow) then s
        else
          let args := match s.launch blk.launch with
            | some x => pkArgs x.packet
            | none => 0
          startPack s block { blk with attach := if n ≤ 1 then r else (n - 1, pc) :: r } (freeIndex blk) pc args)

/-- R193, R363: the failures recorded against a tag, lanes ascending, each lane's first. -/
def tagFailures (c : Ctx) (tag : Nat) : List LaneFault :=
  (rangeFrom 0 64).filterMap fun l => (c.acfail.find? fun f => f.tag == tag && f.lane == l).map fun f => ⟨l, (f.cause, f.sub), f.addr⟩

/-- R194, R317, R359, R363: the precise trap of a tag's recorded failures, which are then cleared. The lowest lane's gives the summary, and
with it LATE (R217, R362). -/
def trapTag (s : State) (tag : Nat) : State :=
  match tagFailures s.me tag with
  | [] => s
  | e :: r =>
    let late := (s.me.acfail.find? fun f => f.tag == tag && f.lane == e.lane).any fun f => f.late
    let s := s.setMe { s.me with acfail := s.me.acfail.filter fun f => f.tag != tag }
    enterTrap s s.cur (enteredLanes s.me.mode (e :: r) e.cause)
      { cause := e.cause, addr := e.addr, late := late, kind := 3, lanes := lanesMask (e :: r), perLane := e :: r, frm := s.me.mode,
        word := s.word }

/-- R317: DETACH waits for the pack's copies, traps on a recorded failure, and ends the pack. -/
def detachPack (s : State) : State :=
  if !s.me.aclanes.isEmpty then s.stall .copies
  else
    match s.me.acfail with
    | f :: _ => trapTag s f.tag
    | [] => endPack s s.cur

/-- R317: DETACH. -/
def execDetach (s : State) : Out := .next (gated s { packGate with feats := [4], new6 := true } detachPack)

/-- R314: the acting unit of a launch stands at the end address in user mode. -/
def standsAtEnd (s : State) : Bool := s.me.mode == 0 && s.me.pc == Config.endAddress && s.me.launch.isSome

/-- R314: the acting unit of a launch is at the end address: it ends as DETACH or HALT does. No instruction stands there: a fault record has
WORD 0 (log 49). -/
def atEnd (s : State) : State :=
  match kindOf s.cur with
  | .pack => detachPack { s with word := 0 }
  | .host => endHost s s.cur
  | _ => haltTask s

/-! ### Pauses -/

/-- R321: hub cycles of `n` front-end cycles of the acting unit's core; a host core waits n/2 ns. -/
def napCycles (s : State) (n : Nat) : Nat :=
  if kindOf s.cur = .host then n else ceilDiv (80 * n) (max 1 (hubF s (corectl (coreOf s.cur)) 32 8))

/-- R321: a NAP of `n` cycles. -/
def nap (s : State) (n : Nat) : State := if n = 0 then s.advance else s.advance.stall (.nap (s.cycles + napCycles s n))

/-- R321: NAP. -/
def execNap (sa : SReg) (s : State) : Out := .next (nap s (fieldNat (s.rs sa) 0 16))
/-- R321: NAP of an immediate count. -/
def execNapImm (n : BitVec 16) (s : State) : Out := .next (nap s n.toNat)

/-- R321: the interval of a NAP ends. -/
def execNapEnd (u : Nat) (s : State) : Out :=
  .next (match (s.ctx u).wait with
    | .nap d => { s.setCtx u { s.ctx u with wait := .none } with cycles := max s.cycles d }
    | _ => s)

/-- R321, R408: YIELD makes a pack the youngest of its tenant, and passes the control core on, the shadow context's too. -/
def execYield (s : State) : Out :=
  .next (match kindOf s.cur with
    | .pack => (s.setMe { s.me with age := s.cycles }).advance
    | .ctl | .shadow =>
      let c := coreOf s.cur
      (s.setCore c { s.core c with yielded := some (s.cur % 128) }).advance
    | .host => s.advance)

end Sys2Proof.Machine
end

