-- ==== Sys2Proof/Machine/TBar.lean ====
section
/-! DEFINITION. Canvas and block-shared bytes; the transaction barrier (R188 to R190); the copies of SIMT packs (R191 to R194). -/

namespace Sys2Proof.Machine

/-! ### Storage of a core and of a block -/

/-- Bytes of a Canvas from an absolute offset. -/
def canvasBytes (k : Core) (a n : Nat) : List Byte := (rangeFrom a n).map fun i => Sparse.get byte0 k.canvas i

/-- Stores Canvas bytes. -/
def putCanvas (k : Core) (a : Nat) : List Byte → Core
  | [] => k
  | b :: r => putCanvas { k with canvas := Sparse.put byte0 k.canvas a b } (a + 1) r

/-- Bytes of a block's shared memory. -/
def sharedBytes (b : Block) (a n : Nat) : List Byte := (rangeFrom a n).map fun i => Sparse.get byte0 b.shared i

/-- Stores shared bytes. -/
def putShared (b : Block) (a : Nat) : List Byte → Block
  | [] => b
  | x :: r => putShared { b with shared := Sparse.put byte0 b.shared a x } (a + 1) r

/-- R292, R408: the unit whose task a unit acts for. -/
def taskOf (s : State) (u : Nat) : Nat :=
  match (s.ctx u).serving with
  | some e => unitId e.1.core e.1.ctx
  | none => u

/-! ### The barrier (R188, R189) -/

/-- PHASE. -/
def tbPhase (x : BitVec 128) : Nat := fieldNat x 0 4
/-- ARRIVE. -/
def tbArrive (x : BitVec 128) : Nat := fieldNat x 4 16
/-- EXPECT. -/
def tbExpect (x : BitVec 128) : Nat := fieldNat x 20 16
/-- SECT. -/
def tbSect (x : BitVec 128) : Int := (field x 36 32).toInt
/-- FAULTS. -/
def tbFaults (x : BitVec 128) : Nat := fieldNat x 68 4
/-- The must-be-zero bits. -/
def tbMbz (x : BitVec 128) : Nat := fieldNat x 72 56

/-- A barrier from its fields. -/
def tbMake (phase arrive expect : Nat) (sect : Int) (faults : Nat) : BitVec 128 :=
  BitVec.ofNat 128 (phase % 16 + 2 ^ 4 * arrive + 2 ^ 20 * expect + 2 ^ 36 * (BitVec.ofInt 32 sect).toNat + 2 ^ 68 * faults)

/-- R189: the advance test, on a barrier whose counts are as given. It holds whatever brings it about, though a record of the barrier is halted
(log 51). -/
def tbAdvance (phase arrive expect : Nat) (sect : Int) (faults : Nat) : BitVec 128 :=
  if arrive = 0 ∧ sect ≤ 0 then tbMake (phase + 1) expect expect 0 (if sect < 0 then min (faults + 1) 15 else faults)
  else tbMake phase arrive expect sect faults

/-- R185, R187, R193: sectors are subtracted; a failed copy counts a fault. -/
def tbLand (x : BitVec 128) (sectors : Nat) (failed : Bool) : BitVec 128 :=
  tbAdvance (tbPhase x) (tbArrive x) (tbExpect x) (tbSect x - sectors) (if failed then min (tbFaults x + 1) 15 else tbFaults x)

/-- R185: sectors land one after another. -/
def tbLands (x : BitVec 128) : Nat → BitVec 128
  | 0 => x
  | n + 1 => tbLands (tbLand x 1 false) n

/-- Where a unit's barriers live, and how far its offsets reach: the block's shared memory, or the task's Canvas. -/
def tbRoom (s : State) : Nat :=
  match kindOf s.cur with
  | .pack => (match myBlock s with
      | some (_, blk) => blk.sharedSize
      | none => 0)
  | _ => (s.ctx (taskOf s s.cur)).csize

/-- The barrier at an offset of the acting unit. -/
def tbRead (s : State) (a : Nat) : BitVec 128 :=
  match kindOf s.cur with
  | .pack => (match myBlock s with
      | some (_, blk) => ofBytes 128 (sharedBytes blk a 16)
      | none => 0)
  | _ => ofBytes 128 (canvasBytes (s.core (coreOf s.cur)) ((s.ctx (taskOf s s.cur)).cbase + a) 16)

/-- Stores the barrier at an offset of the acting unit. -/
def tbWrite (s : State) (a : Nat) (x : BitVec 128) : State :=
  match kindOf s.cur with
  | .pack => (match myBlock s with
      | some (b, blk) => s.setBlock b (some (putShared blk a (toBytes x 16)))
      | none => s)
  | _ => s.setCore (coreOf s.cur) (putCanvas (s.core (coreOf s.cur)) ((s.ctx (taskOf s s.cur)).cbase + a) (toBytes x 16))

/-- R190: the gate and the operand checks of the three barrier instructions. -/
def tbChecked (s : State) (sa : SReg) (body : State → Nat → State) : State :=
  gated s { host := false, feats := [6], new6 := true } fun s =>
    let a := s.rs sa
    if a.toNat % 16 ≠ 0 then trapS s (cMISALIGN, 0) a
    else if tbRoom s < a.toNat + 16 then trapS s (cBOUNDS, if kindOf s.cur = .pack then 8 else 11) a
    else body s a.toNat

/-- R190: TBINIT. -/
def execTbinit (sa sb : SReg) (s : State) : Out :=
  .next (tbChecked s sa fun s a =>
    let n := (s.rs sb).toNat
    if n = 0 ∨ 65535 < n then trapS s (cBARRIER, 0) (s.rs sa)
    else (tbWrite s a (tbMake 0 n n 0 0)).dirtied.advance)

/-- R190: TBARR. -/
def execTbarr (sa sb : SReg) (s : State) : Out :=
  .next (tbChecked s sa fun s a =>
    let x := tbRead s a
    let n := (s.rs sb).toNat
    if tbMbz x ≠ 0 ∨ tbExpect x = 0 ∨ tbArrive x = 0 ∨ 2 ^ 31 - 1 < n ∨ (2 ^ 31 : Int) - 1 < tbSect x + n then trapS s (cBARRIER, 0) (s.rs sa)
    else
      (tbWrite s a (tbAdvance (tbPhase x) (tbArrive x - 1) (tbExpect x) (tbSect x + n) (tbFaults x))).dirtied.advance)

/-- R190: TBWAIT. -/
def execTbwait (sd sa sb : SReg) (s : State) : Out :=
  .next (tbChecked s sa fun s a =>
    let x := tbRead s a
    if tbMbz x ≠ 0 ∨ tbExpect x = 0 then trapS s (cBARRIER, 0) (s.rs sa)
    else if tbPhase x = fieldNat (s.rs sb) 0 4 then s.setS sd (BitVec.ofNat 64 (tbFaults x))
    else s.stall (.tbwait a (fieldNat (s.rs sb) 0 4)))

/-! ### Pacing of the Retrievers (R91) -/

/-- R91: I, the least distance in hub cycles between two pool requests of a core's Retriever. -/
def poolInterval (s : State) (c : Nat) : Nat :=
  let base := max 1 (hubF s 0x788 0 8)
  let k := s.core c
  let l := if k.poolLevelAt + 4096 ≤ s.cycles then 0 else k.poolLevel
  if l = 15 then base * 16 else ceilDiv (base * 16) (16 - l)

/-- R91: a Retriever issues a request for a pool line no sooner than its interval and its pause allow. -/
def paced (s : State) (core pa : Nat) : State :=
  if !isPool pa then s
  else
    let k := s.core core
    let s := { s with cycles := max s.cycles (max k.poolNext k.poolHold) }
    s.setCore core { k with poolNext := s.cycles + poolInterval s core }

/-- R91, R105: a Retriever's request waits for its turn at the pool; where its lease has ended by then, it is translated afresh and checked
again. -/
def pacedTrans (s : State) (core : Nat) (t : TransCtx) (k : AccKind) (va : Word) (tr : Trans) : State × Except Cause Trans :=
  let s := paced s core tr.pa
  if s.hubTime < tr.expiry then (s, .ok tr) else translate s t k false va

/-! ### The stream of a quarter's memory port (R104) -/

/-- R104: one access of the quarter port's stream. -/
def portAccess (k : AccKind) (ea : Nat → Word) (s : State) (l : Nat) : State :=
  let s := streamPrefetch s (unitTrans s s.cur s.me.mode) k ((ea l).ult s.me.lastAddr) (ea l)
  s.setMe { s.me with lastAddr := ea l }

/-- R104: the stream of the quarter port: the addresses of the pack's successive memory instructions, lane by lane. -/
def portStream (s : State) (k : AccKind) (ls : List Nat) (ea : Nat → Word) : State := ls.foldl (portAccess k ea) s

/-! ### ACPY and ACWAIT (R191 to R194) -/

/-- COUNT of a tag. -/
def acCount (c : Ctx) (t : Nat) : Nat := Sparse.get (fun _ => 0) c.actag t

/-- R191: the first failing check of a lane of an ACPY, or its translation (none where no byte is read). -/
def acCheck (s : State) (room sz : Nat) (o : Nat) (g : Word) (n : Nat) : State × Except Cause (Option Trans) :=
  if o % sz ≠ 0 ∨ (0 < n ∧ g.toNat % sz ≠ 0) then (s, .error (cMISALIGN, 0))
  else if room < o + sz then (s, .error (cBOUNDS, 8))
  else if n = 0 then (s, .ok none)
  else
    match checkVa s .read false g with
    | (s, .ok tr) => (s, .ok (some tr))
    | (s, .error c) => (s, .error c)

/-- R191: every check of every active lane before any effect: the failing lanes, and the copies of the others, each with the binding and OFFSET
that ACTBAR has now (log 51). -/
def acChecks (room sz tag : Nat) (vd va vb : LReg) : List Nat → Nat → Nat → State → State × List LaneFault × List AcLane
  | [], _, _, s => (s, [], [])
  | l :: r, i, total, s =>
    let o := (s.rv vd.toNat l).toNat
    let g := s.rv64 va.toNat l
    let n := min (s.rv vb.toNat l).toNat sz
    let bar := if bitAt s.me.actbar (32 + tag) then some (fieldNat s.me.actbar 0 32) else none
    match acCheck s room sz o g n with
    | (s, .error c) =>
      (match acChecks room sz tag vd va vb r (i + 1) total s with
        | (s, fs, ls) => (s, ⟨l, c, if c = (cBOUNDS, 8) then BitVec.ofNat 64 o else if o % sz ≠ 0 ∧ c = (cMISALIGN, 0) then BitVec.ofNat 64 o else g⟩ :: fs, ls))
    | (s, .ok tr) =>
      match acChecks room sz tag vd va vb r (i + 1) total s with
      | (s, fs, ls) =>
        (s, fs, { tag := tag, lane := l, group := s.nextId, order := i, total := total, shared := o, gva := g, mode := s.me.mode,
                  pa := (tr.map (·.pa)).getD 0, dev := (tr.map (·.dev)).getD false, expiry := (tr.map (·.expiry)).getD 0, size := sz,
                  valid := n, bar := bar } :: ls)

/-- R191: what ACPY needs. -/
def acpyGate (vd va vb : LReg) : Gate :=
  { feats := [6], new6 := true, regs := [(vd.toNat, 1), (va.toNat, 2), (vb.toNat, 1)], odd := bitAt va 0 }

/-- R191: ACPY. While its tag's count is full it is not issued, and pays nothing. -/
def execAcpy (sz : BitVec 2) (tag : BitVec 3) (sm : SReg) (vd va vb : LReg) (s : State) : Out :=
  .next (laneGated s (acpyGate vd va vb) sm 1 fun t =>
    let room := match myBlock t with
      | some (_, blk) => blk.sharedSize
      | none => 0
    let ls := t.activeLanes sm
    match acChecks room (4 * 2 ^ sz.toNat) tag.toNat vd va vb ls 0 ls.length t with
    | (t, e :: fs, _) => trapLanes t sm (e :: fs) false false
    | (t, [], lanes) =>
      let n := acCount t.me tag.toNat
      if n = 255 then s.stall (.tags tag.toNat)
      else
        let t := portStream t .read ((lanes.filter fun x => x.valid != 0).map (·.lane)) fun l => t.rv64 va.toNat l
        let c := t.me
        let t := { t with nextId := t.nextId + 1 }
        (t.setMe { c with actag := Sparse.put (fun _ => 0) c.actag tag.toNat (n + 1), aclanes := c.aclanes ++ lanes }).dirtied.advance)

/-- R192: the sectors an ACPY has subtracted when its first `k` lanes of `total` have landed. -/
def acSectors (k total size : Nat) : Nat := if k = total then ceilDiv (total * size) 32 else k * size / 32

/-- How many lanes of an ACPY have landed in ascending order, among those in flight. -/
def acPrefix (lanes : List AcLane) (group total : Nat) : Nat :=
  (lanes.filter fun x => x.group == group).foldl (fun n x => min n x.order) total

/-- R91, R105: the translation a lane's copy is performed under: the one it was checked with while its lease stands, else a fresh one. -/
def laneTrans (s : State) (u : Nat) (x : AcLane) : State × Except Cause Trans :=
  let t := unitTrans s u x.mode
  match (if s.hubTime < x.expiry then (s, .ok ⟨x.pa, x.dev, x.expiry⟩) else translate s t .read false x.gva) with
  | (s, .error c) => (s, .error c)
  | (s, .ok tr) => pacedTrans s (coreOf u) t .read x.gva tr

/-- R191, R193: the bytes of a lane, once its turn at the pool has come. -/
def acFetch (s : State) (u : Nat) (x : AcLane) : State × Except Cause (List Byte) :=
  if x.valid = 0 then (s, .ok [])
  else
    match laneTrans s u x with
    | (s, .error c) => (s, .error c)
    | (s, .ok tr) =>
      match physRead s { u := u, part := partOf s u, engine := true, dev := tr.dev } tr.pa x.valid with
      | (s, .ok bs) => (s, .ok bs)
      | (s, .error c) => (s, .error (c, 0))

/-- R192, R193: the sectors of a lane: one after another as data, all at once where the lane failed. -/
def landSectors (x : BitVec 128) (n : Nat) (failed : Bool) : BitVec 128 := if failed then tbLand x n true else tbLands x n

/-- R191 to R193: a lane's copy lands: its bytes, or its failure; then its barrier's sectors and its tag's count. Where OFFSET lies beyond the
block's shared size, nothing is subtracted (log 51). -/
def landLane (s : State) (u : Nat) (x : AcLane) : State :=
  match acFetch s u x with
  | (s, got) =>
    let c := s.ctx u
    match c.block with
    | none => s
    | some b =>
      match s.block b with
      | none => s
      | some blk =>
        let late := match got with
          | .error (k, _) => k == cPOISON || k == cFABRIC
          | .ok _ => false
        let blk := match got with
          | .ok bs => putShared blk x.shared (bs ++ List.replicate (x.size - x.valid) 0)
          | .error _ => blk
        let fails := match got with
          | .ok _ => c.acfail
          | .error (k, sub) => c.acfail ++ [⟨x.tag, x.lane, k, sub, x.gva, late⟩]
        let rest := c.aclanes.filter fun y => y != x
        let n := acSectors (acPrefix rest x.group x.total) x.total x.size - acSectors (acPrefix c.aclanes x.group x.total) x.total x.size
        let failed := match got with
          | .ok _ => false
          | .error _ => true
        let blk := match x.bar with
          | some a => if (n = 0 && !failed) || decide (blk.sharedSize < a + 16) then blk else putShared blk a (toBytes (landSectors (ofBytes 128 (sharedBytes blk a 16)) n failed) 16)
          | none => blk
        let actag := if rest.any fun y => y.group == x.group then c.actag
          else Sparse.put (fun _ => 0) c.actag x.tag (acCount c x.tag - 1)
        (s.setBlock b (some blk)).setCtx u { c with acfail := fails, aclanes := rest, actag := actag }

/-- R191: the oldest copy in flight of a tag and lane of a pack lands. -/
def execAcpyLaneLanded (u : Nat) (tag lane : Nat) (s : State) : Out :=
  .next (match (s.ctx u).aclanes.find? fun x => x.tag == tag && x.lane == lane with
    | some x => landLane s u x
    | none => s)

/-- R194: ACWAIT. -/
def execAcwait (t : BitVec 3) (s : State) : Out :=
  .next (gated s { packGate with feats := [6], new6 := true } fun s =>
    if acCount s.me t.toNat ≠ 0 then s.stall (.acwait t.toNat)
    else if s.me.acfail.any fun f => f.tag == t.toNat then trapTag s t.toNat
    else s.advance)

end Sys2Proof.Machine
end

