-- ==== Sys2Proof/Machine/Engine.lean ====
section
/-! DEFINITION. What the engines of a systolic core share: queues, counters and markers (R168 to R173, R178), token units (R327 to R329),
the Leash (R296 to R298), retirement (R171, R187, R303), element formats (R131, R132), Canvas and memory lines as engines read and write
them (R135), and the faults that go to the shadow context (R302, R365). -/

namespace Sys2Proof.Machine

/-! ### Queues (R168, R171) -/

/-- R173: the code of a queue. -/
def qCode : EQueue → Nat
  | .lq => 0 | .sq => 1 | .mq => 2 | .vq => 3 | .oq => 4

/-- R168: its entries. -/
def qSize : EQueue → Nat
  | .mq => 16 | .vq => 16 | _ => 32

/-- The unstarted records and the markers of a queue, in order. -/
def Ctx.entries (c : Ctx) : EQueue → List QEntry
  | .lq => c.lq | .sq => c.sq | .mq => c.mq | .vq => c.vq | .oq => []

/-- Replaces them. -/
def Ctx.setEntries (c : Ctx) (q : EQueue) (l : List QEntry) : Ctx :=
  match q with
  | .lq => { c with lq := l } | .sq => { c with sq := l } | .mq => { c with mq := l } | .vq => { c with vq := l } | .oq => c

/-- R171: LSEQ, SSEQ, MSEQ and VSEQ; `%oq` has none. -/
def Ctx.counter (c : Ctx) : EQueue → Word
  | .lq => c.lseq | .sq => c.sseq | .mq => c.mseq | .vq => c.vseq | .oq => 0

/-- R171: a counter rises by one. -/
def Ctx.bump (c : Ctx) : EQueue → Ctx
  | .lq => { c with lseq := c.lseq + 1 } | .sq => { c with sseq := c.sseq + 1 } | .mq => { c with mseq := c.mseq + 1 }
  | .vq => { c with vseq := c.vseq + 1 } | .oq => c

/-- Records pushed to a queue since the task started. -/
def Ctx.pushedTo (c : Ctx) (q : EQueue) : Nat := Sparse.get (fun _ => 0) c.pushed (qCode q)

/-- The records in flight of a queue: started and not retired. One held at its start has not started (R295). -/
def Ctx.inFlight (c : Ctx) (q : EQueue) : List Flight := c.flights.filter fun f => f.queue == q && !f.atStart

/-- A flight by its queue and ordinal. -/
def Ctx.flight (c : Ctx) (q : EQueue) (ord : Nat) : Option Flight := c.flights.find? fun f => f.queue == q && f.ordinal == ord

/-- Replaces or adds a flight, in its place. -/
def Ctx.putFlight (c : Ctx) (f : Flight) : Ctx :=
  let same (g : Flight) : Bool := g.queue == f.queue && g.ordinal == f.ordinal
  { c with flights := if c.flights.any same then c.flights.map fun g => if same g then f else g else c.flights ++ [f] }

/-- Removes a flight. -/
def Ctx.dropFlight (c : Ctx) (f : Flight) : Ctx :=
  { c with flights := c.flights.filter fun g => !(g.queue == f.queue && g.ordinal == f.ordinal) }

/-- R171: counts, in queue order, the records of a queue that have retired. -/
def countEarly (c : Ctx) (q : EQueue) : Nat → Ctx
  | 0 => c
  | n + 1 =>
    let next := (q, (c.counter q).toNat)
    if c.early.contains next then countEarly { c.bump q with early := c.early.filter fun x => x != next } q n else c

/-- R178: markers leave both queues once every record ahead of them has retired. -/
def popMarkers (c : Ctx) : Nat → Ctx
  | 0 => c
  | n + 1 =>
    match c.lq, c.sq with
    | .marker a :: l, .marker b :: m =>
      if a = b ∧ (c.inFlight .lq).isEmpty ∧ (c.inFlight .sq).isEmpty then popMarkers { c with lq := l, sq := m } n else c
    | _, _ => c

/-- A record at the head of its queue. -/
structure QHead where
  bits : Rec512
  ordinal : Nat
  mode : BitVec 2
  deriving DecidableEq, Repr

/-- The record at the head of a queue. -/
def headRecord (c : Ctx) (q : EQueue) : Option QHead :=
  match c.entries q with
  | .record b o m _ :: _ => some ⟨b, o, m⟩
  | _ => none

/-- Takes the head entry off a queue. -/
def Ctx.popHead (c : Ctx) (q : EQueue) : Ctx := c.setEntries q ((c.entries q).drop 1)

/-- `waitsel`. -/
def recWaitsel (b : Rec512) : Nat := fieldNat b 16 3
/-- `waitval`. -/
def recWaitval (b : Rec512) : Nat := fieldNat b 32 32
/-- `op`. -/
def recOp (b : Rec512) : Nat := fieldNat b 0 8

/-- R172: does the record wait for a value that only it or a later record of its queue could bring? -/
def selfWait (q : EQueue) (h : QHead) : Bool :=
  recWaitsel h.bits == qCode q + 1 && decide (2 ^ 31 ≤ (h.ordinal + 2 ^ 32 - recWaitval h.bits) % 2 ^ 32)

/-- The queue whose counter a `waitsel` names. -/
def waitQueue : Nat → Option EQueue
  | 1 => some .lq | 2 => some .sq | 3 => some .mq | 4 => some .vq | _ => none

/-- R172: is the wait of a record satisfied? A reserved `waitsel` waits for nothing and fails at record start. -/
def waitOver (c : Ctx) (b : Rec512) : Bool :=
  match waitQueue (recWaitsel b) with
  | none => true
  | some q => decide (((c.counter q).toNat % 2 ^ 32 + 2 ^ 32 - recWaitval b) % 2 ^ 32 < 2 ^ 31)

/-! ### Token units (R327 to R329) -/

/-- A debit of an engine unit: the core's COUNT falls, the pushing context's TOKSPENT rises (R326, R327). -/
def debitUnit (s : State) (core j price : Nat) (f : Flight) : State :=
  let u := unitId core j
  let k := s.core core
  let units := match f.units with
    | (n, p) :: r => if n ≤ 1 then r else (n - 1, p) :: r
    | [] => []
  let s := s.setCore core { k with tokens := k.tokens - price }
  let c := s.ctx u
  s.setCtx u { c.putFlight { f with units := units, paid := f.paid + 1 } with tokspent := c.tokspent + BitVec.ofNat 64 price }

/-- R327, R329: serves the waiting units of a systolic core in the order they began to wait; the first that must wait sets WANT. Where nothing
that waits exceeds COUNT any longer, WANT is 0 and the hunger for it is over, though the unit wanted was dropped (log 51). -/
def serveUnits (s : State) (core : Nat) : Nat → State
  | 0 => s
  | n + 1 =>
    let k := s.core core
    let idle (s : State) : State := if (s.core core).want = 0 then s else setWant (leaveHunger s core) core 0
    match k.tokq with
    | [] => idle s
    | (j, q, o) :: rest =>
      match (s.ctx (unitId core j)).flight q o with
      | none => serveUnits (s.setCore core { k with tokq := rest }) core n
      | some f =>
        match f.units with
        | [] => serveUnits (s.setCore core { k with tokq := rest }) core n
        | (m, p) :: us =>
          if p ≤ k.tokens then
            let s := idle s
            let more := decide (2 ≤ m) || !us.isEmpty
            let s := s.setCore core { s.core core with tokq := if more then rest ++ [(j, q, o)] else rest }
            serveUnits (debitUnit s core j p f) core n
          else if k.want = p then s
          else setWant s core p

/-- The units that wait on a core. -/
def unitsWaiting (s : State) (core : Nat) : Nat :=
  (s.core core).tokq.foldl (fun n x => match (s.ctx (unitId core x.1)).flight x.2.1 x.2.2 with
    | some f => f.units.foldl (fun n u => n + u.1 + 1) (n + 1)
    | none => n + 1) 1

/-- Serves every unit that can be. -/
def serveTokens (s : State) (core : Nat) : State := serveUnits s core (unitsWaiting s core)

/-- A record asks for its next units, behind every unit that waits already. -/
def askUnits (s : State) (core j : Nat) (f : Flight) : State :=
  let k := s.core core
  let me := (j, f.queue, f.ordinal)
  if f.units.isEmpty || k.tokq.contains me then serveTokens s core
  else serveTokens (s.setCore core { k with tokq := k.tokq ++ [me] }) core

/-- A record asks for nothing more. -/
def dropUnits (s : State) (core j : Nat) (f : Flight) : State :=
  let k := s.core core
  s.setCore core { k with tokq := k.tokq.filter fun x => x != (j, f.queue, f.ordinal) }

/-! ### The array and its Leash (R296 to R298) -/

/-- The four control contexts of a core. -/
def ctlUnits (core : Nat) : List Nat := (rangeFrom 0 4).map (unitId core)

/-- R302: does a fault hold the array clocks of a core? -/
def clocksHeld (s : State) (core : Nat) : Bool :=
  (ctlUnits core).any fun u => (s.ctx u).flights.any fun f => f.halted && (f.queue == .mq || f.queue == .vq)

/-- The running matrix and slot records of a core, or its running vector records, by their units. -/
def runningOf (s : State) (core : Nat) (q : EQueue) : List (Nat × Flight) :=
  (ctlUnits core).flatMap fun u => (((s.ctx u).flights.filter fun f => f.queue == q && !f.posting)).map fun f => (u, f)

/-- Is the array free of records? -/
def arrayFree (s : State) (core : Nat) : Bool := (runningOf s core .mq).isEmpty

/-- R298: the array clocks counted under the lease: those its records took, and those it stood idle. -/
def leaseClocks (k : Core) : Nat := k.leashTime + k.leashIdle / 160

/-- R298, R302, R350: the time an idle array has stood under its lease since it was last counted. A record counts its own clocks; clocks that
a fault holds do not count. `arithClock` is in steps of 12.5 MHz, the hub's clock is 2,000 MHz. -/
def tickLease (s : State) (core : Nat) : State :=
  let k := s.core core
  let n := if k.leashHolder.isSome && arrayFree s core && !clocksHeld s core then
      (s.cycles - k.leashAt) * arithClock core (hubF s (corectl core) 32 8) k.ratio else 0
  s.setCore core { k with leashIdle := k.leashIdle + n, leashAt := s.cycles }

/-- R298: must the lease end at a boundary now? Another request is one of another context: the holder's own follow-on ends nothing
(log 39). -/
def leaseEnds (s : State) (core j : Nat) : Bool :=
  let k := s.core core
  let c := s.ctx (unitId core j)
  k.leashLeft == 0 || decide (2 ^ 20 ≤ leaseClocks k) || (c.mq.isEmpty && k.leashReqs.any fun r => r.ctx != j) || !c.live || c.draining

/-- R298: the head request is granted. -/
def grantLeash (k : Core) : Core :=
  match k.leashHolder, k.leashReqs with
  | none, r :: rest => { k with leashHolder := some r.ctx, leashLeft := r.count, leashTime := 0, leashIdle := 0, leashReqs := rest }
  | _, _ => k

/-- R296, R298: a retirement boundary: held tiles are written back, the lease may end, the head request may be granted. -/
def boundary (s : State) (core : Nat) : State :=
  let s := tickLease s core
  let k := s.core core
  let k := { k with held := [], sinceBoundary := 0, busy := false }
  let k := match k.leashHolder with
    | some j => if leaseEnds s core j then { k with leashHolder := none, leashLeft := 0, leashTime := 0, leashIdle := 0 } else k
    | none => k
  s.setCore core (grantLeash k)

/-- R298: a context whose head record of `%mq` has its wait satisfied asks for the array. -/
def implicitRequest (core : Nat) (s : State) (j : Nat) : State :=
  let k := s.core core
  let c := s.ctx (unitId core j)
  match headRecord c .mq with
  | none => s
  | some h =>
    if selfWait .mq h || !waitOver c h.bits || c.draining || k.leashHolder == some j || k.leashReqs.any (fun r => r.ctx == j) then s
    else s.setCore core { k with leashReqs := k.leashReqs ++ [⟨j, 1, true⟩] }

/-- R296, R298: requests are listed; an idle array is at a boundary. -/
def settleArray (s : State) (core : Nat) : State :=
  let s := (rangeFrom 0 4).foldl (implicitRequest core) s
  if arrayFree s core && !(s.core core).busy then boundary s core else s

/-- R296: is the holder's next record ready to follow at once? -/
def nextReady (s : State) (core : Nat) : Bool :=
  match (s.core core).leashHolder with
  | none => false
  | some j =>
    match headRecord (s.ctx (unitId core j)) .mq with
    | none => false
    | some h => !selfWait .mq h && waitOver (s.ctx (unitId core j)) h.bits

/-- R296: does the end of a record make a boundary by itself? -/
def endsAtBoundary (b : Rec512) : Bool :=
  if recOp b = 0x20 ∨ recOp b = 0x21 then bitAt b 10 else decide (0x22 ≤ recOp b) && decide (recOp b ≤ 0x24)

/-- R298: a record has retired under the lease of context `j`, if it holds one. -/
def countLease (s : State) (core j : Nat) : State :=
  let k := s.core core
  if k.leashHolder = some j then s.setCore core { k with leashLeft := k.leashLeft - 1 } else s

/-- R296, R298: a record of `%mq` ends under the lease of context `j`, after `clocks` array clocks. -/
def recordEnd (s : State) (core j : Nat) (b : Rec512) (clocks : Nat) : State :=
  let k := s.core core
  let k := if k.leashHolder = some j then { k with leashLeft := k.leashLeft - 1, leashTime := k.leashTime + clocks } else k
  let k := { k with sinceBoundary := k.sinceBoundary + clocks }
  let s := s.setCore core { k with busy := true }
  if endsAtBoundary b || decide (2 ^ 18 ≤ k.sinceBoundary) || !nextReady s core then boundary s core else s

/-! ### Retirement (R171, R173, R187, R303) -/

/-- R173: the completion element of a record. -/
def elementOf (f : Flight) : Rec512 :=
  BitVec.ofNat 512 (recOp f.bits + 2 ^ 8 * qCode f.queue + (if f.cause = 0 then 0 else 2 ^ 16) + 2 ^ 24 * f.cause.toNat +
    2 ^ 32 * fieldNat f.bits 24 8 + 2 ^ 64 * (f.ordinal + 1) + 2 ^ 128 * f.faddr.toNat + 2 ^ 192 * f.done)

/-- R173: does the retirement post an element? -/
def postsElement (f : Flight) : Bool := bitAt f.bits 8 || f.cause != 0

/-- R185: sectors of a copy record. -/
def copySectors (r : CopyRec) : Nat := ceilDiv (r.n0.toNat * r.n1.toNat * r.n2.toNat * r.n3.toNat * 2 ^ r.es.toNat) 32

/-- Sectors subtracted when the first `n` elements have landed. -/
def sectorsAt (r : CopyRec) (n : Nat) : Nat := n * 2 ^ r.es.toNat / 32

/-- A barrier in a task's Canvas, at a relative offset. -/
def taskBar (s : State) (u o : Nat) : BitVec 128 := ofBytes 128 (canvasBytes (s.core (coreOf u)) ((s.ctx u).cbase + o) 16)

/-- Stores it. -/
def setTaskBar (s : State) (u o : Nat) (x : BitVec 128) : State :=
  s.setCore (coreOf u) (putCanvas (s.core (coreOf u)) ((s.ctx u).cbase + o) (toBytes x 16))

/-- R180, R187: does a record name a barrier that it may touch? -/
def barUsable (s : State) (u : Nat) (r : CopyRec) : Bool :=
  r.tbar != 0xFFFFFFFF && r.tbar.toNat % 16 == 0 && decide (r.tbar.toNat + 16 ≤ (s.ctx u).csize) &&
  tbMbz (taskBar s u r.tbar.toNat) == 0 && tbExpect (taskBar s u r.tbar.toNat) != 0

/-- R187, step 2: the remaining sectors of a copy record retired with a fault, and the fault counted. -/
def faultBarrier (s : State) (u : Nat) (f : Flight) : State :=
  let r := copyRec f.bits
  if f.queue = .lq ∨ f.queue = .sq then
    if barUsable s u r then setTaskBar s u r.tbar.toNat (tbLand (taskBar s u r.tbar.toNat) (copySectors r - sectorsAt r f.done) true) else s
  else s

/-- R33: the queue identifier of a task's launch. -/
def launchQueue (s : State) (u : Nat) : Nat :=
  match (s.ctx u).launch.bind s.launch with
  | some l => l.queue
  | none => 0

/-- R171, R173, R187, R303: a record retires: its barrier, its element, its count, its event. -/
def retireNow (s : State) (u : Nat) (f : Flight) : State :=
  let core := coreOf u
  let s := if f.cause = 0 then s else faultBarrier s u f
  let s := dropUnits s core (u % 128) f
  let c := s.ctx u
  let c := if postsElement f then { c with oq := c.oq ++ [elementOf f], posted := c.posted + 1 } else c
  let c := c.dropFlight f
  let c := countEarly { c with early := (f.queue, f.ordinal) :: c.early } f.queue (c.early.length + 1)
  let s := s.setCtx u (popMarkers c 33)
  let s := if f.cause = 0 then s else presentEvent s 2 (agentOfCore core) f.cause c.part (launchQueue s u) f.faddr
  settleArray (serveTokens s core) core

/-- R173: a retirement waits while `%oq` is full, and with it R187's update of the barrier (log 51). -/
def retireFlight (s : State) (u : Nat) (f : Flight) : State :=
  let c := s.ctx u
  if postsElement f && decide (32 ≤ c.oq.length) then
    s.setCtx u (if f.posting then c.putFlight f else (c.dropFlight f).putFlight { f with posting := true })
  else retireNow s u f

/-- R180, R187, R303: the record at the head of a queue is retired with a fault at its start. -/
def retireAtStart (s : State) (u : Nat) (q : EQueue) (h : QHead) (c : Cause) (faddr : Word) : State :=
  if 32 ≤ (s.ctx u).oq.length then s
  else
    retireNow (s.setCtx u ((s.ctx u).popHead q)) u
      { bits := h.bits, queue := q, ordinal := h.ordinal, mode := h.mode, cause := c.1, sub := c.2, faddr := faddr }

/-! ### Element formats (R131, R132) -/

/-- R131: is a D0 code well-formed? 0x00 is untyped. -/
def d0Ok (d : BitVec 8) : Bool := descOk (d.setWidth 16)

/-- Bytes of an element. -/
def d0Bytes (d : BitVec 8) : Nat :=
  if bitAt d 7 then 1 else if d = 1 ∨ d = 2 then 2 else if d = 3 ∨ d = 7 then 4 else if d = 4 then 8 else 1

/-- The float format of a code. -/
def d0Fmt (d : BitVec 8) : Option Fmt :=
  if bitAt d 7 then some (b8FmtOf (fieldNat d 4 3) (bitAt d 3) (bitAt d 2))
  else if d = 1 then some bf16Fmt else if d = 2 then some f16Fmt else if d = 3 then some f32Fmt else if d = 4 then some f64Fmt else none

/-- The integer type of the other codes. -/
def d0Int (d : BitVec 8) : Bool × Nat := if d = 5 then (true, 8) else if d = 6 then (false, 8) else (true, 32)

/-- R132: the element value of a code under a line scale. -/
def d0Val (d : BitVec 8) (scale : Int) (code : Nat) : Val :=
  match d0Fmt d with
  | some f => if bitAt d 7 then scaleVal (decodeFmt f code) scale else decodeFmt f code
  | none => ofInt (intOf (d0Int d).1 (d0Int d).2 code)

/-- R126 to R128: a value converted to a format. -/
def d0Code (d : BitVec 8) (r : Rnd) (sat : Bool) (v : Val) : Nat :=
  match d0Fmt d with
  | some f => encodeFmt f r sat v
  | none => wrapInt (d0Int d).2 (valToInt r (d0Int d).1 (d0Int d).2 v)

/-- R128: an element of format `src` converted to a format: an integer wraps into a narrower integer, unless saturation is named. -/
def d0Convert (src d : BitVec 8) (r : Rnd) (sat : Bool) (v : Val) : Nat :=
  if (d0Fmt src).isNone && (d0Fmt d).isNone && decide ((d0Int d).2 < (d0Int src).2) && !sat then
    wrapInt (d0Int d).2 (valToInt r (d0Int src).1 (d0Int src).2 v)
  else d0Code d r sat v

/-- The scale of a line descriptor. -/
def descScale (d : BitVec 16) : Int := (field d 8 8).toInt
/-- D0 of a line descriptor. -/
def descD0 (d : BitVec 16) : BitVec 8 := field d 0 8

/-! ### Lines as engines meet them (R135, R184) -/

/-- A fault an engine met: its cause and address. -/
structure EFault where
  cause : Cause
  addr : Word
  deriving DecidableEq, Repr

/-- The address of the line a virtual address lies in. -/
def lineVa (va : Word) : Word := va - BitVec.ofNat 64 (va.toNat % 64)

/-- R135: checks a Canvas line of a task by its relative number; an ill-formed one is poisoned. -/
def canvasLine (s : State) (u l : Nat) : State × Except EFault (BitVec 16) :=
  let core := coreOf u
  let k := s.core core
  let a := (s.ctx u).cbase / 64 + l
  let d := Sparse.get desc0 k.cdesc a
  if Sparse.get poison0 k.cpoison a then (s, .error ⟨(cPOISON, 0), BitVec.ofNat 64 (64 * l)⟩)
  else if !descOk d then
    (s.setCore core { k with cpoison := Sparse.put poison0 k.cpoison a true }, .error ⟨(cMALFORMED, 0), BitVec.ofNat 64 (64 * l)⟩)
  else (s, .ok d)

/-- R87, R135: the hub poisons a line at home and drops its cached copies, under whichever address of a forwarding pair they stand. -/
def poisonMemLine (s : State) (line : Nat) : State := dropLines (poisonLine s line) fun l => sameLine s l line

/-- The translation an engine uses for a record, in the mode of the pushing context (R183). -/
def engineTrans (s : State) (u : Nat) (mode : BitVec 2) (k : AccKind) (down : Bool) (va : Word) : State × Except EFault Trans :=
  match translate s (unitTrans s u mode) k false va with
  | (s, .error c) => (s, .error ⟨c, va⟩)
  | (s, .ok tr) => (streamPrefetch s (unitTrans s u mode) k down va, .ok tr)

/-- R91, R105: the translation an engine's access is performed under: a Retriever's once its turn at the pool has come. -/
def engineAccess (s : State) (u : Nat) (mode : BitVec 2) (k : AccKind) (down : Bool) (va : Word) (retr : Bool) :
    State × Except EFault Trans :=
  match engineTrans s u mode k down va with
  | (s, .error e) => (s, .error e)
  | (s, .ok tr) =>
    if !retr then (s, .ok tr)
    else
      match pacedTrans s (coreOf u) (unitTrans s u mode) k va tr with
      | (s, .error c) => (s, .error ⟨c, va⟩)
      | (s, .ok tr) => (s, .ok tr)

/-- The request of an engine of a task. -/
def engineReq (s : State) (u : Nat) (tr : Trans) : Req := { u := u, part := (s.ctx u).part, engine := true, dev := tr.dev, desc := true }

/-- Bytes of one memory line as an engine reads them, with the line's descriptor, which it checks (R135). `retr` is true for a Retriever,
which R91 paces. -/
def engineRead (s : State) (u : Nat) (mode : BitVec 2) (down : Bool) (va : Word) (n : Nat) (retr : Bool := true) :
    State × Except EFault (List Byte × BitVec 16) :=
  match engineAccess s u mode .read down va retr with
  | (s, .error e) => (s, .error e)
  | (s, .ok tr) =>
    if isDevice tr.pa then (s, .error ⟨(cFABRIC, 0), va⟩)
    else
      match l2Line s (engineReq s u tr) tr.pa (BitVec.allOnes 64) with
      | (s, .error c) => (s, .error ⟨(c, 0), if c = cPOISON then lineVa va else va⟩)
      | (s, .ok x) =>
        if descOk x.2 then (s, .ok (lineBytes x.1 tr.pa n, x.2))
        else (poisonMemLine s (lineOf tr.pa), .error ⟨(cMALFORMED, 0), lineVa va⟩)

/-- Bytes of one memory line as an engine writes them, with the descriptor the line takes, by the line as home knows it, which is the answer.
The core's own L1 keeps no older copy, so that
QWAIT and POPQ show the write to the context (R175, R176). -/
def engineWriteAt (s : State) (u : Nat) (mode : BitVec 2) (down : Bool) (va : Word) (bs : List Byte) (d : Nat → Option (BitVec 16))
    (retr : Bool := true) : State × Except EFault Nat :=
  match engineAccess s u mode .write down va retr with
  | (s, .error e) => (s, .error e)
  | (s, .ok tr) =>
    match physWrite s (engineReq s u tr) tr.pa bs (d (mscLine s tr.pa)) with
    | (s, none) => (l1Drop s (coreOf u) fun l => l == lineOf tr.pa, .ok (mscLine s tr.pa))
    | (s, some c) => (s, .error ⟨(c, 0), if c = cPOISON then lineVa va else va⟩)

/-- An engine's write of bytes whose line takes a descriptor that does not depend on the line. -/
def engineWrite (s : State) (u : Nat) (mode : BitVec 2) (down : Bool) (va : Word) (bs : List Byte) (d : Option (BitVec 16))
    (retr : Bool := true) : State × Option EFault :=
  match engineWriteAt s u mode down va bs (fun _ => d) retr with
  | (s, .error e) => (s, some e)
  | (s, .ok _) => (s, none)

/-- R184, R290: a record's lines with one more write: the bytes of the line written so far, and the descriptor its sources agree on. -/
def noteLine (ls : List WLine) (line : Nat) (mask : Word) (d : BitVec 16) : List WLine × WLine :=
  match ls.find? fun x => x.line == line with
  | some x =>
    let y : WLine := ⟨line, x.mask ||| mask, if x.desc = d then d else 0⟩
    (y :: ls.filter fun x => x.line != line, y)
  | none => (⟨line, mask, d⟩ :: ls, ⟨line, mask, d⟩)

/-- R184, R135: bytes within one line of a task's Canvas are written with a descriptor; a line written whole is no longer poisoned. -/
def canvasPut (s : State) (u o : Nat) (bs : List Byte) (d : Option (BitVec 16)) (whole : Bool) : State :=
  let core := coreOf u
  let a := (s.ctx u).cbase + o
  let k := putCanvas (s.core core) a bs
  let k := match d with
    | some d => { k with cdesc := Sparse.put desc0 k.cdesc (a / 64) d }
    | none => k
  s.setCore core (if whole then { k with cpoison := Sparse.put poison0 k.cpoison (a / 64) false } else k)

/-- R182: the swizzle. -/
def swz (mode : BitVec 2) (mask : BitVec 3) (o : Nat) : Nat :=
  if mode = 0 then o
  else
    let g := 3 + mode.toNat
    o ^^^ (((o >>> (g + 3)) &&& mask.toNat) <<< g)

/-! ### The shadow context (R302, R360, R365, R408) -/

/-- R363: the entry of the shadow context for a halted record. -/
def recordTrap (f : Flight) : Trap :=
  let kind := if f.queue = .vq then 6 else if f.queue = .mq then 5 else 4
  { cause := (f.cause, f.sub), addr := f.faddr, kind := kind, lanes := 1, perLane := [⟨0, (f.cause, f.sub), f.faddr⟩], frm := f.mode,
    queue := qCode f.queue, tag := fieldNat f.bits 24 8, otag := if f.cause = cACCOWNER then f.otag.toNat else 0,
    slot := if f.cause = cACCOWNER then f.slot else 0, done := f.done, record := f.bits }

/-- R408: the shadow context as it takes up a fault of a task: the task's translation, the partition's handlers, and registers of its own:
those that a service of another partition left read zero (R391, log 29). -/
def shadowCtx (s : State) (core : Nat) (e : EngineRef) (ord : Nat) (mode : BitVec 2) : Ctx :=
  let u := unitId core 4
  let t := s.ctx (unitId core e.ctx)
  let old := s.ctx u
  let c := loadRegs s (t.part.getD 0) u (if old.part = t.part then old else { old with gpr := [] })
  { c with ttb1 := t.ttb1, ttb2 := t.ttb2, ctxid := t.ctxid, vmid := t.vmid, accsave := t.accsave, accslots := t.accslots,
           mode := mode, wait := .none, serving := some (e, ord) }

/-- R186, R373: a halted record that a save takes with it: a copy, or a record held at its start. -/
def setAside (f : Flight) : Bool := f.halted && (f.queue == .lq || f.queue == .sq || f.atStart)

/-- R302, R373: may the shadow context take up a fault that waits? One of a task that drains waits on, where its record is set aside. -/
def mayServe (s : State) (x : EngineRef × Nat) : Bool :=
  let c := s.ctx (unitId x.1.core x.1.ctx)
  !(c.draining && (c.flight x.1.queue x.2).any setAside)

/-- R302, R365: the shadow context of a core takes up the faults that wait, one at a time; `now` is one that has just come. -/
def serveFaults (s : State) (core : Nat) (now : Option (EngineRef × Nat)) : Nat → State
  | 0 => s
  | n + 1 =>
    let u := unitId core 4
    let k := s.core core
    if (s.ctx u).live then s
    else
      match k.faultq.find? fun x => some x == now || mayServe s x with
      | none => s
      | some (e, ord) =>
        let s := s.setCore core { k with faultq := k.faultq.filter fun x => x != (e, ord) }
        match (s.ctx (unitId core e.ctx)).flight e.queue ord with
        | none => serveFaults s core now n
        | some f =>
          let c := shadowCtx s core e ord f.mode
          serveFaults (enterTrap (s.setCtx u c) u (enteredMode f.mode (f.cause, f.sub)) (recordTrap f)) core now n

/-- R186, R302: a record halts on a fault, which waits for the shadow context; the units behind it ask in its place (R327, R329). -/
def haltFlight (s : State) (u : Nat) (f : Flight) (e : EFault) : State :=
  let core := coreOf u
  let f := { f with halted := true, cause := e.cause.1, sub := e.cause.2, faddr := e.addr }
  let s := tickLease s core
  let s := dropUnits (s.setCtx u ((s.ctx u).putFlight f)) core (u % 128) f
  let k := s.core core
  let x : EngineRef × Nat := (⟨core, u % 128, f.queue⟩, f.ordinal)
  let k := { k with faultq := k.faultq ++ [x] }
  serveTokens (serveFaults (s.setCore core k) core (some x) (k.faultq.length + 1)) core

end Sys2Proof.Machine
end

