-- ==== Sys2Proof/Machine/Queues.lean ====
section
/-! DEFINITION. The queue instructions (R174 to R178) and the Leash (R297, R298). -/

namespace Sys2Proof.Machine

/-- What runs on control contexts only. -/
def ctlGate : Gate := { host := false, pack := false, shadow := false }

/-- R52: the queue that accepts an `op`. -/
def queueOfOp (op : Nat) : Option EQueue :=
  if op = 0x10 ∨ op = 0x12 ∨ op = 0x14 then some .lq
  else if op = 0x11 ∨ op = 0x13 then some .sq
  else if 0x20 ≤ op ∧ op ≤ 0x24 then some .mq
  else if 0x40 ≤ op ∧ op ≤ 0x4D then some .vq
  else none

/-- R394: the feature a record operation belongs to. -/
def opFeature (op : Nat) : Option Nat := if op = 0x13 then some 2 else if op = 0x21 then some 7 else none

/-- R53, R395: does the acting context lack the feature of an `op`? -/
def opMissing (s : State) (op : Nat) : Bool :=
  match opFeature op with
  | some f => !hasFeature s s.cur f
  | none => false

/-- R395: counts the refusal where the guest's mask alone removes the feature. -/
def opCount (s : State) (op : Nat) : State :=
  match opFeature op with
  | some f => if maskedFeature s s.cur f then countMasked s s.cur else s
  | none => s

/-- R382: does the acting context's partition own the engine that a queue feeds? -/
def ownsEngine (s : State) (q : EQueue) : Bool :=
  sysOwner s (coreOf s.cur) (match q with
    | .mq => 4
    | .vq => 5
    | _ => 6) == s.me.part

/-- R168, R171: a record enters a queue. -/
def pushRecord (c : Ctx) (q : EQueue) (rec : Rec512) (scope : Nat) : Ctx :=
  let n := c.pushedTo q
  { c.setEntries q (c.entries q ++ [.record rec n c.mode scope]) with pushed := Sparse.put (fun _ => 0) c.pushed (qCode q) (n + 1) }

/-- R174: a record that has been read and checked is released and enters its queue, or its push waits for that in `w`. -/
def enterQueue (s : State) (q : EQueue) (scope : BitVec 5) (rec : Rec512) (wr wf : Wait) : State :=
  if !releaseReady s scope.toNat then s.stall wr
  else if qSize q ≤ (s.me.entries q).length then s.stall wf
  else settleArray (s.setMe (pushRecord s.me q rec scope.toNat)).dirtied.advance (coreOf s.cur)

/-- R174: the push of a record that has been read, which waits for its release in `wr` and for a free entry in `wf`. -/
def push (s : State) (q : EQueue) (scope : BitVec 5) (rec : Rec512) (wr wf : Wait) : State :=
  let op := recOp rec
  if queueOfOp op ≠ some q then trapS s (cQUEUE, 7) 0
  else if opMissing s op then trapS (opCount s op) (cQUEUE, 7) 0
  else if !ownsEngine s q then trapS s (cQUEUE, 10) 0
  else enterQueue s q scope rec wr wf

/-- R174: the record an octet holds. -/
def octet (s : State) (sa : SReg) : Rec512 :=
  (rangeFrom 0 8).foldl (fun x j => setElem x 8 j (s.me.reg (sa.toNat + j)).toNat) 0

/-- R174: PUSHR. -/
def execPushr (q : EQueue) (scope : BitVec 5) (sa : SReg) (s : State) : Out :=
  .next (gated s { ctlGate with scope := some scope.toNat, odd := sa.toNat % 8 != 0 } fun s => push s q scope (octet s sa) .release (.room q))

/-- R174: PUSHM of a record it has read. -/
def pushRead (s : State) (q : EQueue) (scope : BitVec 5) (rec : Rec512) : State := push s q scope rec (.pushmRel q rec) (.pushm q rec)

/-- R174: PUSHM. The record is read once: a push that waits keeps it. -/
def execPushm (q : EQueue) (scope : BitVec 5) (sd : SReg) (s : State) : Out :=
  .next (match s.me.wait with
    | .pushm q rec | .pushmRel q rec => enterQueue s q scope rec (.pushmRel q rec) (.pushm q rec)
    | _ => gated s { ctlGate with scope := some scope.toNat } fun s =>
      let a := s.rs sd
      checkedAt s .read false a 64 fun s tr =>
        match loadAt s tr 64 false with
        | (s, .error c) => trapScalar s (c, 0) a true false
        | (s, .ok bs) => pushRead s q scope (ofBytes 512 bs))

/-- R175: the octet takes an element. -/
def Ctx.setOctet (c : Ctx) (sa : SReg) (e : Rec512) : Ctx :=
  (rangeFrom 0 8).foldl (fun c j => c.setReg (sa.toNat + j) (field e (64 * j) 64)) c

/-- R173: with room in `%oq`, the oldest retirement that waited for it takes place. -/
def postWaiting (s : State) (u : Nat) : State :=
  match (s.ctx u).flights.find? fun f => f.posting with
  | some f => retireFlight s u f
  | none => s

/-- R175: POPQ. -/
def execPopq (scope : BitVec 5) (sa : SReg) (s : State) : Out :=
  .next (gated s { ctlGate with scope := some scope.toNat, odd := sa.toNat % 8 != 0 } fun s =>
    match s.me.oq with
    | [] => s.stall .popq
    | e :: r =>
      let s := (s.setMe ({ s.me with oq := r }.setOctet sa e)).dirtied.advance
      postWaiting (acquirePoint s scope.toNat) s.cur)

/-- R176: QWAIT on a value. -/
def queueWait (s : State) (q : EQueue) (v : Word) : State :=
  gated s ctlGate fun s => if v ≤ s.me.counter q then s.advance else s.stall (.qwait q v)

/-- R176: QWAIT. -/
def execQwait (q : EQueue) (v : BitVec 37) (s : State) : Out := .next (queueWait s q (v.setWidth 64))
/-- R176: QWAIT with a register operand. -/
def execQwaitReg (q : EQueue) (sx : SReg) (s : State) : Out := .next (queueWait s q (s.rs sx))

/-- Is an entry a marker? -/
def QEntry.isMarker : QEntry → Bool
  | .marker _ => true
  | .record .. => false

/-- R177: the status of a queue. -/
def queueStatus (c : Ctx) (q : EQueue) : Word :=
  match q with
  | .oq => BitVec.ofNat 64 (c.oq.length + 2 ^ 24 * (c.posted % 2 ^ 40))
  | q =>
    let e := c.entries q
    BitVec.ofNat 64 (e.length + 2 ^ 8 * (c.inFlight q).length + (if c.flights.any fun f => f.queue == q && f.halted then 2 ^ 16 else 0) +
      (if e.any QEntry.isMarker then 2 ^ 17 else 0) + 2 ^ 24 * (c.pushedTo q % 2 ^ 40))

/-- R177: QSTAT. -/
def execQstat (sd : SReg) (q : EQueue) (s : State) : Out := .next (gated s ctlGate fun s => s.setS sd (queueStatus s.me q))

/-- R178: QMARK. -/
def execQmark (s : State) : Out :=
  .next (gated s ctlGate fun s =>
    let c := s.me
    if !ownsEngine s .lq then trapS s (cQUEUE, 10) 0
    else if 32 ≤ c.lq.length ∨ 32 ≤ c.sq.length then s.stall .marks
    else
      let c := { c with lq := c.lq ++ [.marker c.markers], sq := c.sq ++ [.marker c.markers], markers := c.markers + 1 }
      (s.setMe (popMarkers c 33)).dirtied.advance)

/-! ### The Leash (R297, R298) -/

/-- R298: LEASH of a count by context `j`. -/
def askLeash (k : Core) (j n : Nat) : Core :=
  if k.leashHolder = some j then { k with leashReqs := (k.leashReqs.filter fun r => r.ctx != j) ++ [⟨j, n, false⟩] }
  else if k.leashReqs.any fun r => r.ctx == j then
    { k with leashReqs := k.leashReqs.map fun r => if r.ctx = j then { r with count := n } else r }
  else { k with leashReqs := k.leashReqs ++ [⟨j, n, false⟩] }

/-- R297: a request for the array. -/
def leashFor (s : State) (n : Nat) : State :=
  let core := coreOf s.cur
  (settleArray (s.setCore core (askLeash (s.core core) (s.cur % 128) n)) core).advance

/-- R297: LEASH. -/
def execLeash (n : BitVec 37) (s : State) : Out :=
  .next (gated s ctlGate fun s => if n = 0 ∨ 64 < n.toNat then trapS s (cILLEGAL, 0) 0 else leashFor s n.toNat)

/-- R297: LEASH with a register operand. -/
def execLeashReg (sx : SReg) (s : State) : Out :=
  .next (gated s ctlGate fun s => if s.rs sx = 0 ∨ 64 < (s.rs sx).toNat then trapS s (cQUEUE, 8) 0 else leashFor s (s.rs sx).toNat)

/-- R297, R298: UNLEASH. -/
def execUnleash (s : State) : Out :=
  .next (gated s ctlGate fun s =>
    let core := coreOf s.cur
    let j := s.cur % 128
    let k := s.core core
    let k := if k.leashHolder = some j then { k with leashLeft := 0 } else { k with leashReqs := k.leashReqs.filter fun r => r.ctx != j }
    (settleArray (s.setCore core k) core).advance)

/-- R296: a retirement boundary of an array with no record running. -/
def execRetirementBoundary (core : Nat) (s : State) : Out :=
  .next (if Config.sysBase ≤ core ∧ core < Config.cores ∧ arrayFree s core then
      boundary ((rangeFrom 0 4).foldl (implicitRequest core) s) core
    else s)

end Sys2Proof.Machine
end

