-- ==== Sys2Proof/Machine/Copy.lean ====
section
/-! DEFINITION. Copy records (R179 to R187): their checks at record start, their traversal, the landing of their elements, descriptors,
barriers and faults. -/

namespace Sys2Proof.Machine

/-- The five copy operations. -/
inductive CopyOp where
  | cpld | cpst | cpcc | cprd | cpfill
  deriving DecidableEq, Repr

/-- R52. -/
def CopyOp.code : CopyOp → Nat
  | .cpld => 0x10 | .cpst => 0x11 | .cpcc => 0x12 | .cprd => 0x13 | .cpfill => 0x14

/-- R52. -/
def copyOpOf (op : Nat) : CopyOp :=
  if op = 0x10 then .cpld else if op = 0x11 then .cpst else if op = 0x12 then .cpcc else if op = 0x13 then .cprd else .cpfill

/-- R168. -/
def CopyOp.queue : CopyOp → EQueue
  | .cpst => .sq | .cprd => .sq | _ => .lq

/-- Does the operation write the Canvas? -/
def CopyOp.writesCanvas : CopyOp → Bool
  | .cpst => false | .cprd => false | _ => true

/-- R328: the price of a unit of 2,048 bytes. -/
def CopyOp.price : CopyOp → Nat
  | .cpld => 32 | .cpst => 32 | .cpcc => 16 | .cpfill => 16 | .cprd => 64

/-! ### Shape (R181, R182) -/

/-- Bytes of an element. -/
def cpEs (r : CopyRec) : Nat := 2 ^ r.es.toNat
/-- N. -/
def cpN (r : CopyRec) : Nat := r.n0.toNat * r.n1.toNat * r.n2.toNat * r.n3.toNat
/-- Bytes of the record. -/
def cpBytes (r : CopyRec) : Nat := cpN r * cpEs r
/-- Block rows. -/
def cpRows (r : CopyRec) : Nat := r.rows1.toNat + 1
/-- Block columns. -/
def cpCols (r : CopyRec) : Nat := r.cols1.toNat + 1

/-- R181: the number of tiles along a coordinate. -/
def cpTiles (r : CopyRec) (l : Nat) : Nat :=
  if l = 0 then r.n0.toNat / cpCols r else if l = 1 then r.n1.toNat / cpRows r else if l = 2 then r.n2.toNat else r.n3.toNat

/-- R179: entry `i` of `order`, outermost first. -/
def cpOrder (r : CopyRec) (i : Nat) : Nat := fieldNat r.order (2 * i) 2

/-- R181: how many tiles pass while coordinate `l` stays: the product of the counts of the coordinates nested inside it. -/
def tileStride (r : CopyRec) (l : Nat) : Nat :=
  let inner (i : Nat) : Bool := (rangeFrom 0 i).any fun j => cpOrder r j == l
  (rangeFrom 0 4).foldl (fun n i => if inner i then n * cpTiles r (cpOrder r i) else n) 1

/-- R181: tile coordinate `l` of tile τ. -/
def tileCoord (r : CopyRec) (t l : Nat) : Nat := t / tileStride r l % cpTiles r l

/-- R181: the level indexes of an ordinal. -/
def cpIndex (r : CopyRec) (q : Nat) : Nat × Nat × Nat × Nat :=
  let t := q / (cpRows r * cpCols r)
  let m := q % (cpRows r * cpCols r)
  (tileCoord r t 0 * cpCols r + m % cpCols r, tileCoord r t 1 * cpRows r + m / cpCols r, tileCoord r t 2, tileCoord r t 3)

/-- R181: Σ i*k* × g*k*. -/
def cpOffset (r : CopyRec) (q : Nat) : Int :=
  let i := cpIndex r q
  (i.1 : Int) * r.g0.toInt + (i.2.1 : Int) * r.g1.toInt + (i.2.2.1 : Int) * r.g2.toInt + (i.2.2.2 : Int) * r.g3.toInt

/-- R104, R181: does the record's stream descend? Its innermost level is the first that moves: columns, rows, then the tiles, inward out. -/
def cpDown (r : CopyRec) : Bool :=
  let tiles : List (Bool × Bool) := [3, 2, 1, 0].map fun k => match cpOrder r k with
    | 0 => (r.n0.toNat != cpCols r, r.g0.msb)
    | 1 => (r.n1.toNat != cpRows r, r.g1.msb)
    | 2 => (r.n2.toNat != 1, r.g2.msb)
    | _ => (r.n3.toNat != 1, r.g3.msb)
  (((cpCols r != 1, r.g0.msb) :: (cpRows r != 1, r.g1.msb) :: tiles).find? fun x => x.1).any fun x => x.2

/-- R181: the global address of an ordinal. -/
def cpVa (r : CopyRec) (q : Nat) : Word := r.gva + BitVec.ofInt 64 (cpOffset r q)

/-- R183: the source Canvas address of an ordinal of a CPCC. -/
def cpSrc (r : CopyRec) (q : Nat) : Int := (fieldNat r.gva 0 20 : Int) + cpOffset r q

/-- R181: the Canvas address of an ordinal. -/
def cpDst (r : CopyRec) (q : Nat) : Nat := swz r.swzMode r.swzMask (r.canvas.toNat + q * cpEs r)

/-- The four strides. -/
def cpStrides (r : CopyRec) : List (BitVec 32) := [r.g0, r.g1, r.g2, r.g3]

/-- The least and the greatest offset of an element. -/
def cpSpan (r : CopyRec) : Int × Int :=
  [(r.n0, r.g0), (r.n1, r.g1), (r.n2, r.g2), (r.n3, r.g3)].foldl (fun a x =>
    let d : Int := ((x.1.toNat : Int) - 1) * x.2.toInt
    (a.1 + min d 0, a.2 + max d 0)) (0, 0)

/-! ### Checks at record start (R180) -/

/-- R180, row 1. -/
def cpRow1 (op : CopyOp) (r : CopyRec) : Bool :=
  r.head.flags.toNat / 2 != 0 || r.head.res != 0 || r.resA != 0 || r.resB != 0 || r.resC != 0 || r.resD != 0 ||
  decide (5 ≤ r.head.waitsel.toNat) || r.desc == 3 ||
  (op == .cpcc && fieldNat r.gva 20 44 != 0) || (op == .cpfill && decide (2 ^ (8 * cpEs r) ≤ r.gva.toNat))

/-- R180, row 2. -/
def cpRow2 (r : CopyRec) : Bool :=
  cpN r == 0 || r.n0.toNat % cpCols r != 0 || r.n1.toNat % cpRows r != 0

/-- R180, row 3. -/
def cpRow3 (r : CopyRec) : Bool := (rangeFrom 0 4).any fun l => !((rangeFrom 0 4).any fun i => cpOrder r i == l)

/-- R180, row 4. -/
def cpRow4 (op : CopyOp) (r : CopyRec) : Bool :=
  let g8 := 8 * 2 ^ (3 + r.swzMode.toNat)
  let src : Int := fieldNat r.gva 0 20
  let sp := cpSpan r
  (op == .cpfill && ((cpStrides r).any (fun g => g != 0) || r.desc == 2)) ||
  (op == .cprd && r.desc == 1) ||
  (op == .cpcc && decide (src + sp.1 < r.canvas.toNat + cpBytes r) && decide ((r.canvas.toNat : Int) < src + sp.2 + cpEs r)) ||
  (r.swzMode != 0 && (r.canvas.toNat % g8 != 0 || cpBytes r % g8 != 0))

/-- R180, row 6, with R173: the address of a MISALIGN. -/
def cpRow6 (op : CopyOp) (r : CopyRec) : Option Word :=
  let es := cpEs r
  if op ≠ .cpfill ∧ r.gva.toNat % es ≠ 0 then some (if op = .cpcc then BitVec.ofNat 64 (fieldNat r.gva 0 20) else r.gva)
  else if r.canvas.toNat % es ≠ 0 then some (r.canvas.setWidth 64)
  else if r.tbar ≠ 0xFFFFFFFF ∧ r.tbar.toNat % 16 ≠ 0 then some (r.tbar.setWidth 64)
  else if (cpStrides r).any fun g => g.toNat % es != 0 then some 0
  else none

/-- The first byte of the dense side, in ordinal order, at or above the end of an allocation. -/
def firstBeyond (r : CopyRec) (size : Nat) : Nat :=
  let es := cpEs r
  let from_ := (max r.canvas.toNat (size / 512 * 512) - r.canvas.toNat) / es
  match (rangeFrom from_ (1024 / es + 1)).find? fun q => decide (size < cpDst r q + es) with
  | some q => max (cpDst r q) size
  | none => size

/-- R180, row 7: the first Canvas offset outside the allocation: of the dense side, of a CPCC's source, of the barrier (log 25). -/
def cpRow7 (op : CopyOp) (r : CopyRec) (size : Nat) : Option Word :=
  let es := cpEs r
  if size < r.canvas.toNat + cpBytes r then some (BitVec.ofNat 64 (firstBeyond r size))
  else
    let sp := cpSpan r
    let src : Int := fieldNat r.gva 0 20
    if op = .cpcc ∧ (src + sp.1 < 0 ∨ (size : Int) < src + sp.2 + es) then
      (match (rangeFrom 0 (cpN r)).find? fun q => decide (cpSrc r q < 0) || decide ((size : Int) < cpSrc r q + es) with
        | some q => some (BitVec.ofInt 64 (if cpSrc r q < 0 then cpSrc r q else max (cpSrc r q) size))
        | none => some 0)
    else if r.tbar ≠ 0xFFFFFFFF ∧ size < r.tbar.toNat + 16 then some (BitVec.ofNat 64 (max r.tbar.toNat size))
    else none

/-- The bank groups that the dense side of a record touches (R288). -/
def cpGroups (base : Nat) (r : CopyRec) : List Nat :=
  (rangeFrom 0 4).filter fun g =>
    decide (base + r.canvas.toNat < (g + 1) * 0x18000) && decide (g * 0x18000 < base + r.canvas.toNat + cpBytes r)

/-- R288, third rule: does a running matrix record of the core read a group that the record writes? -/
def cpBankBreach (s : State) (u : Nat) (op : CopyOp) (r : CopyRec) : Bool :=
  op.writesCanvas && (runningOf s (coreOf u) .mq).any fun x =>
    !x.2.atStart && x.2.groups.any fun g => (cpGroups (s.ctx u).cbase r).contains g

/-- R180, R288: the first check that fails at record start, with its address (R173). -/
def copyCheck (s : State) (u : Nat) (op : CopyOp) (r : CopyRec) : Option (Cause × Word) :=
  if cpRow1 op r then some ((cQUEUE, 1), 0)
  else if cpRow2 r then some ((cQUEUE, 2), 0)
  else if cpRow3 r then some ((cQUEUE, 3), 0)
  else if cpRow4 op r then some ((cQUEUE, 4), 0)
  else
    match cpRow6 op r with
    | some a => some ((cMISALIGN, 0), a)
    | none =>
      match cpRow7 op r (s.ctx u).csize with
      | some a => some ((cBOUNDS, 11), a)
      | none =>
        if r.tbar ≠ 0xFFFFFFFF ∧ !barUsable s u r then some ((cBARRIER, 0), r.tbar.setWidth 64)
        else if cpBankBreach s u op r then some ((cBANKCONFLICT, 0), 0)
        else none

/-! ### Records of one queue that touch the same bytes (R170) -/

/-- The physical lines of the memory side of a record; none for an address that does not translate now. -/
def cpLines (s : State) (u : Nat) (mode : BitVec 2) (r : CopyRec) : List (Option Nat) :=
  let vas := ((rangeFrom 0 (cpN r)).map fun q => lineVa (cpVa r q)).eraseDups
  vas.map fun va =>
    if !canonical va then none
    else match (leavesAt s (unitTrans s u mode) true va).2 with
      | .ok x => some (lineOf x.trans.pa)
      | .error _ => none

/-- R170: does a record read or write what an earlier one in flight writes? A line that does not translate yet may come to be any line,
so records with one keep their order (log 24). -/
def cpConflict (s : State) (u : Nat) (op : CopyOp) (r : CopyRec) (mode : BitVec 2) (f : Flight) : Bool :=
  let e := copyRec f.bits
  if op.queue = .lq then
    let hit (a : Int) (n : Nat) : Bool := decide (a < e.canvas.toNat + cpBytes e) && decide ((e.canvas.toNat : Int) < a + n)
    hit r.canvas.toNat (cpBytes r) || (op == .cpcc && (rangeFrom 0 (cpN r)).any fun q => hit (cpSrc r q) (cpEs r))
  else
    let mine := cpLines s u mode r
    let theirs := cpLines s u f.mode e
    mine.contains none || theirs.contains none || theirs.any fun l => mine.contains l

/-! ### Start (R169, R172, R178) -/

/-- R169, R172, R178: the record at the head of its queue starts, fails its checks, or waits. -/
def startCopy (s : State) (u : Nat) (op : CopyOp) (r : CopyRec) (h : QHead) : State :=
  let c := s.ctx u
  let q := op.queue
  let flying := c.inFlight q
  if selfWait q h then retireAtStart s u q h (cQUEUE, 5) 0
  else if c.draining || !waitOver c h.bits || flying.any (fun f => f.halted) || decide (4 ≤ flying.length) then s
  else
    match copyCheck s u op r with
    | some (cause, a) => if cause.1 ≠ cBANKCONFLICT ∧ cause.1 ≠ cBARRIER then retireAtStart s u q h cause a
        else if flying.any (cpConflict s u op r h.mode) then s else retireAtStart s u q h cause a
    | none =>
      if flying.any (cpConflict s u op r h.mode) then s
      else
        let f : Flight := { bits := h.bits, queue := q, ordinal := h.ordinal, mode := h.mode, total := cpN r,
                            units := [(ceilDiv (cpBytes r) 2048, op.price)] }
        askUnits (s.setCtx u ((c.popHead q).putFlight f)) (coreOf u) (u % 128) f

/-- A copy record is executed where it stands at the head of its queue on the acting control context. -/
def copyRecord (op : CopyOp) (r : CopyRec) (s : State) : State :=
  if kindOf s.cur ≠ .ctl ∨ !s.me.live then s
  else
    match headRecord s.me op.queue with
    | some h => if recOp h.bits = op.code ∧ copyRec h.bits = r then startCopy s s.cur op r h else s
    | none => s

/-- R183: CPLD. -/
def execCpld (r : CopyRec) (s : State) : Out := .next (copyRecord .cpld r s)
/-- R183: CPST. -/
def execCpst (r : CopyRec) (s : State) : Out := .next (copyRecord .cpst r s)
/-- R183: CPCC. -/
def execCpcc (r : CopyRec) (s : State) : Out := .next (copyRecord .cpcc r s)
/-- R183: CPRD. -/
def execCprd (r : CopyRec) (s : State) : Out := .next (copyRecord .cprd r s)
/-- R183: CPFILL. -/
def execCpfill (r : CopyRec) (s : State) : Out := .next (copyRecord .cpfill r s)

/-! ### Landing (R183 to R186) -/

/-- How many elements from ordinal `q` follow one another in memory within one line. -/
def runLength (r : CopyRec) (q : Nat) : Nat → Nat
  | 0 => 0
  | n + 1 =>
    if cpVa r (q + 1) = cpVa r q + BitVec.ofNat 64 (cpEs r) ∧ lineVa (cpVa r (q + 1)) = lineVa (cpVa r q) then 1 + runLength r (q + 1) n
    else 1

/-- R184: what a source line's descriptor must be. -/
def sourceOk (r : CopyRec) (d : BitVec 16) : Bool := r.desc != 2 || d == r.dval

/-- R184: is a `dval` that set and check use ill-formed? -/
def badDval (r : CopyRec) : Bool := (r.desc == 1 || r.desc == 2) && !descOk r.dval

/-- R184: an element read from a task's Canvas, with its line's descriptor. -/
def canvasElem (s : State) (u : Nat) (r : CopyRec) (o : Nat) : State × Except EFault (List Byte × BitVec 16) :=
  match canvasLine s u (o / 64) with
  | (s, .error e) => (s, .error e)
  | (s, .ok d) =>
    if sourceOk r d then (s, .ok (canvasBytes (s.core (coreOf u)) ((s.ctx u).cbase + o) (cpEs r), d))
    else (s, .error ⟨(cMALFORMED, 0), BitVec.ofNat 64 (o / 64 * 64)⟩)

/-- R183, R184: an element written to a task's Canvas; its line takes the descriptor its sources agree on, or `dval`. -/
def landCanvas (s : State) (u : Nat) (r : CopyRec) (f : Flight) (o : Nat) (bs : List Byte) (d : BitVec 16) : State × Flight :=
  let x := noteLine f.lines (o / 64) (byteMask o bs.length) d
  let d := if r.desc = 0 then x.2.desc else r.dval
  (canvasPut s u o bs (some d) (x.2.mask == BitVec.allOnes 64), { f with lines := x.1 })

/-- What landing some elements gives: how many landed, and the fault of the next one. -/
abbrev Landed := State × Flight × Nat × Option EFault

/-- R183: `n` elements of a CPLD, contiguous in one memory line. -/
def landLoad (s : State) (u : Nat) (r : CopyRec) (f : Flight) (n : Nat) : Landed :=
  let es := cpEs r
  let va := cpVa r f.done
  match engineRead s u f.mode (cpDown r) va (n * es) with
  | (s, .error e) => (s, f, 0, some e)
  | (s, .ok (bs, d)) =>
    if !sourceOk r d then (s, f, 0, some ⟨(cMALFORMED, 0), lineVa va⟩)
    else
      let x := (rangeFrom 0 n).foldl (fun a i => landCanvas a.1 u r a.2 (cpDst r (f.done + i)) ((bs.drop (i * es)).take es) d) (s, f)
      (x.1, x.2, n, none)

/-- Elements of the dense side read one after another: those before the first that fails, with their descriptors. -/
def gatherElems (u : Nat) (r : CopyRec) (q : Nat) : Nat → State → State × List (List Byte × BitVec 16) × Option EFault
  | 0, s => (s, [], none)
  | n + 1, s =>
    match canvasElem s u r (cpDst r q) with
    | (s, .error e) => (s, [], some e)
    | (s, .ok x) =>
      match gatherElems u r (q + 1) n s with
      | (s, l, e) => (s, x :: l, e)

/-- R183, R184: up to `n` elements of a CPST, contiguous in one memory line, which is noted as home knows it. -/
def landStore (s : State) (u : Nat) (r : CopyRec) (f : Flight) (n : Nat) : Landed :=
  match gatherElems u r f.done n s with
  | (s, [], e) => (s, f, 0, e)
  | (s, l, e) =>
    let va := cpVa r f.done
    let bs := l.flatMap (·.1)
    let noted (line : Nat) : List WLine × WLine :=
      l.foldl (fun (a : List WLine × WLine) y => noteLine a.1 line (byteMask va.toNat bs.length) y.2) (f.lines, ⟨line, 0, 0⟩)
    match engineWriteAt s u f.mode (cpDown r) va bs (fun line => some (if r.desc = 0 then (noted line).2.desc else r.dval)) with
    | (s, .error e) => (s, f, 0, some e)
    | (s, .ok line) => (s, { f with lines := (noted line).1 }, l.length, e)

/-- An element of a CPRD that passed its checks: ordinal, address, translation and bytes. -/
structure RedElem where
  q : Nat
  va : Word
  tr : Trans
  bs : List Byte
  deriving DecidableEq, Repr

/-- R160: why an element of `es` bytes may not reduce at an address: its line must lie in a live range of its format. A remote line's
range is judged at its home. -/
def cprdRow (s : State) (u es pa : Nat) : Option Cause :=
  if isRemote pa then none
  else
    match rangeOf s (s.ctx u).part pa with
    | none => some (cBOUNDS, 6)
    | some g => if sizeMatches g false es then none else some (cBOUNDS, 5)

/-- R183: the elements of a CPRD from ordinal `q`, read and checked, up to the first that fails. -/
def redElems (u : Nat) (r : CopyRec) (mode : BitVec 2) (q : Nat) : Nat → State → State × List RedElem × Option EFault
  | 0, s => (s, [], none)
  | n + 1, s =>
    let va := cpVa r q
    match canvasElem s u r (cpDst r q) with
    | (s, .error e) => (s, [], some e)
    | (s, .ok (bs, _)) =>
      match engineTrans s u mode .atomic (cpDown r) va with
      | (s, .error e) => (s, [], some e)
      | (s, .ok tr) =>
        match cprdRow s u (cpEs r) tr.pa with
        | some c => (s, [], some ⟨c, va⟩)
        | none =>
          match redElems u r mode (q + 1) n s with
          | (s, l, e) => (s, ⟨q, va, tr, bs⟩ :: l, e)

/-- Puts an element among others in ascending address, behind those at its own address. -/
def redInsert (x : RedElem) : List RedElem → List RedElem
  | [] => [x]
  | y :: l => if x.va.toNat < y.va.toNat then x :: y :: l else y :: redInsert x l

/-- R160: one element's reduction at a translated address. -/
def redOne (s : State) (u : Nat) (r : CopyRec) (tr : Trans) (bs : List Byte) : State × Option Cause :=
  match cprdRow s u (cpEs r) tr.pa with
  | some c => (s, some c)
  | none =>
    if isRemote tr.pa then reduceRemote s (engineReq s u tr) tr.pa (cpEs r)
    else match rangeOf s (s.ctx u).part tr.pa with
      | none => (s, none)
      | some g =>
        match reduceInto s (engineReq s u tr) g tr.pa (cpEs r) (ofBytesNat bs) with
        | (s, some c) => (s, some (c, 0))
        | (s, none) => (s, none)

/-- Performs elements one after another, each once its turn at the pool has come (R91), up to the first whose access fails: its ordinal and
fault. -/
def redPerform (u : Nat) (r : CopyRec) (mode : BitVec 2) : List RedElem → State → State × Option (Nat × EFault)
  | [], s => (s, none)
  | x :: l, s =>
    match pacedTrans s (coreOf u) (unitTrans s u mode) .atomic x.va x.tr with
    | (s, .error c) => (s, some (x.q, ⟨c, x.va⟩))
    | (s, .ok tr) =>
      match redOne s u r tr x.bs with
      | (s, some c) => (s, some (x.q, ⟨c, x.va⟩))
      | (s, none) => redPerform u r mode l s

/-- R100: the leaves that a failed run has marked for elements that passed their checks and take no effect stay marked. -/
def redMarks (u : Nat) (mode : BitVec 2) (q : Nat) (l : List RedElem) (s : State) : State :=
  ((l.takeWhile fun x => x.q != q).filter fun x => decide (q < x.q)).foldl (fun s x => (translate s (unitTrans s u mode) .atomic false x.va).1) s

/-- R160, R186: elements combine in ascending address; where one fails, only those of lower ordinal take effect. -/
def redAscending (u : Nat) (r : CopyRec) (mode : BitVec 2) : Nat → List RedElem → State → Option EFault → State × Nat × Option EFault
  | 0, _, s, e => (s, 0, e)
  | n + 1, l, s, e =>
    let run := l.foldl (fun a x => redInsert x a) []
    match redPerform u r mode run s with
    | (s, none) => (s, l.length, e)
    | (_, some (q, e)) => redAscending u r mode n (l.filter fun x => decide (x.q < q)) (redMarks u mode q run s) (some e)

/-- R183, R160: `n` elements of a CPRD, all those it has left. -/
def landReduce (s : State) (u : Nat) (r : CopyRec) (f : Flight) (n : Nat) : Landed :=
  match redElems u r f.mode f.done n s with
  | (s, l, e) =>
    match redAscending u r f.mode (l.length + 1) l s e with
    | (s, k, e) => (s, f, k, e)

/-- R183: one element of a CPCC. -/
def landMove (s : State) (u : Nat) (r : CopyRec) (f : Flight) : Landed :=
  match canvasElem s u r (cpSrc r f.done).toNat with
  | (s, .error e) => (s, f, 0, some e)
  | (s, .ok (bs, d)) => ((landCanvas s u r f (cpDst r f.done) bs d).1, (landCanvas s u r f (cpDst r f.done) bs d).2, 1, none)

/-- R183: one element of a CPFILL. -/
def landFill (s : State) (u : Nat) (r : CopyRec) (f : Flight) : Landed :=
  let x := landCanvas s u r f (cpDst r f.done) (toBytes r.gva (cpEs r)) 0
  (x.1, x.2, 1, none)

/-- R184: the line a fault for an ill-formed `dval` names: the first the element touches. -/
def firstLine (op : CopyOp) (r : CopyRec) (q : Nat) : Word :=
  match op with
  | .cpld => lineVa (cpVa r q)
  | .cpcc => BitVec.ofInt 64 (cpSrc r q / 64 * 64)
  | _ => BitVec.ofNat 64 (cpDst r q / 64 * 64)

/-- Lands elements from `f.done` on, at most `n`: one run of one memory line, one element, or all of a CPRD. -/
def landSome (s : State) (u : Nat) (op : CopyOp) (r : CopyRec) (f : Flight) (n : Nat) : Landed :=
  if badDval r then (s, f, 0, some ⟨(cMALFORMED, 0), firstLine op r f.done⟩)
  else match op with
    | .cpld => landLoad s u r f (min n (runLength r f.done 64))
    | .cpst => landStore s u r f (min n (runLength r f.done 64))
    | .cprd => landReduce s u r f n
    | .cpcc => landMove s u r f
    | .cpfill => landFill s u r f

/-- R185: the sectors of the elements that have just landed. -/
def landBar (s : State) (u : Nat) (r : CopyRec) (n : Nat) : State :=
  if r.tbar = 0xFFFFFFFF ∨ n = 0 then s else setTaskBar s u r.tbar.toNat (tbLands (taskBar s u r.tbar.toNat) n)

/-- R185, R186: lands every element below `hi`, ascending (log 24); a failure halts the record at its ordinal. -/
def landTo (u : Nat) (op : CopyOp) (r : CopyRec) (hi : Nat) : Nat → State → Flight → State
  | 0, s, f => s.setCtx u ((s.ctx u).putFlight f)
  | n + 1, s, f =>
    if hi ≤ f.done then s.setCtx u ((s.ctx u).putFlight f)
    else
      match landSome s u op r f (hi - f.done) with
      | (s, f, k, e) =>
        let s := landBar s u r (sectorsAt r (f.done + k) - sectorsAt r f.done)
        let f := { f with done := f.done + k }
        match e with
        | some e => haltFlight s u f e
        | none => if k = 0 then s.setCtx u ((s.ctx u).putFlight f) else landTo u op r hi n s f

/-- R185, R171: a copy record whose every element has landed is complete, and retires. -/
def finishCopy (s : State) (u : Nat) (r : CopyRec) (f : Flight) : State :=
  if f.halted || decide (f.done < f.total) then s
  else
    let s := if f.finished then s else landBar s u r (copySectors r - sectorsAt r f.total)
    retireFlight s u { f with finished := true }

/-- The elements of a copy record whose units have been debited. -/
def paidElems (r : CopyRec) (f : Flight) : Nat := if f.units.isEmpty then f.total else f.paid * 2048 / cpEs r

/-- R160, R183: up to which element a copy record may land, where data up to element `i` has come. A CPRD combines in ascending address
within the record, so that its elements wait until all of them are there. -/
def landLimit (op : CopyOp) (r : CopyRec) (f : Flight) (i : Nat) : Nat :=
  let hi := min (min (i + 1) (paidElems r f)) f.total
  if op = .cprd ∧ hi < f.total then f.done else hi

/-- R183 to R187: the data of a copy record lands, up to an element: `ordinal` is the record's number in its queue × 2^32 plus the
element's. -/
def execCopyElementLanded (e : EngineRef) (ordinal : Nat) (s : State) : Out :=
  .next (
    let u := unitId e.core e.ctx
    if kindOf u ≠ .ctl ∨ !(s.ctx u).live ∨ (e.queue ≠ .lq ∧ e.queue ≠ .sq) then s
    else
      match (s.ctx u).flight e.queue (ordinal / 2 ^ 32) with
      | none => s
      | some f =>
        if f.halted || f.posting then (if f.posting then retireFlight s u f else s)
        else
          let r := copyRec f.bits
          let hi := landLimit (copyOpOf (recOp f.bits)) r f (ordinal % 2 ^ 32)
          let s := landTo u (copyOpOf (recOp f.bits)) r hi (hi - f.done + 1) s f
          match (s.ctx u).flight e.queue f.ordinal with
          | some f => finishCopy s u r f
          | none => s)

end Sys2Proof.Machine
end

