-- ==== Sys2Proof/Machine/Slots.lean ====
section
/-! DEFINITION. The accumulator store (R282), the slots that records name, their ownership (R291, R292), and the slot instructions AOWNR,
ASAVE and AREST (R293 to R295). -/

namespace Sys2Proof.Machine

/-! ### Loop nests (R284, R289) -/

/-- The iterations of a nest. -/
def nestCount (n0 n1 n2 n3 : BitVec 16) : Nat := n0.toNat * n1.toNat * n2.toNat * n3.toNat

/-- The level indexes of iteration `p`, innermost first. -/
def nestIndex (n0 n1 n2 : BitVec 16) (p : Nat) : Nat × Nat × Nat × Nat :=
  (p % n0.toNat, p / n0.toNat % n1.toNat, p / (n0.toNat * n1.toNat) % n2.toNat, p / (n0.toNat * n1.toNat * n2.toNat))

/-- Σ i*k* × increment*k*. -/
def nestDot {w : Nat} (i : Nat × Nat × Nat × Nat) (a b c d : BitVec w) : Int :=
  (i.1 : Int) * a.toInt + (i.2.1 : Int) * b.toInt + (i.2.2.1 : Int) * c.toInt + (i.2.2.2 : Int) * d.toInt

/-- Slots per tile: two under an `f64` accumulator. -/
def accSlots (acc : BitVec 2) : Nat := if acc = 1 then 2 else 1

/-- R284: the first slot of pass `p` of a matrix record. -/
def matSlot (r : MatRec) (p : Nat) : Int := (r.c.toNat : Int) + nestDot (nestIndex r.n0 r.n1 r.n2 p) r.ci0 r.ci1 r.ci2 r.ci3
/-- R289: the first slot of iteration `t` of a slot record. -/
def tileSlot (r : SlotRec) (t : Nat) : Int := (r.c.toNat : Int) + nestDot (nestIndex r.n0 r.n1 r.n2 t) r.ci0 r.ci1 r.ci2 r.ci3

/-- R280: *mt*. -/
def matMt (r : MatRec) : Nat := r.mt.toNat + 1
/-- R280: *nt*. -/
def matNt (r : MatRec) : Nat := r.nt.toNat + 1
/-- R280: *kg*. -/
def matKg (r : MatRec) : Nat := r.kg.toNat + 1
/-- Passes of a record. -/
def matPasses (r : MatRec) : Nat := nestCount r.n0 r.n1 r.n2 r.n3
/-- Tiles of a slot record. -/
def slotTiles (r : SlotRec) : Nat := nestCount r.n0 r.n1 r.n2 r.n3

/-- The slots from a first one, as integers. -/
def slotRun (first : Int) (n : Nat) : List Int := (rangeFrom 0 n).map fun (i : Nat) => first + (i : Int)

/-- R283: the slots of a matrix record, pass by pass. -/
def matSlots (r : MatRec) : List Int := (rangeFrom 0 (matPasses r)).flatMap fun p => slotRun (matSlot r p) (matMt r * matNt r * accSlots r.acc)
/-- R289: the slots of a slot record, tile by tile. -/
def tileSlots (r : SlotRec) : List Int := (rangeFrom 0 (slotTiles r)).flatMap fun t => slotRun (tileSlot r t) (accSlots r.acc)

/-- The four operands of a vector record. -/
inductive VOp where
  | x | z | y | w
  deriving DecidableEq, Repr

/-- R300: where an operand lies: 0 Canvas, 1 memory, 2 slots. -/
def vLoc (r : VecRec) : VOp → Nat
  | .x => r.locx.toNat | .z => r.locz.toNat | .y => 2 * r.locy.toNat | .w => 2 * r.locw.toNat
/-- Its declared format. -/
def vFmt (r : VecRec) : VOp → BitVec 8
  | .x => r.fx | .z => r.fz | .y => r.fy | .w => r.fw
/-- Its base. -/
def vBase (r : VecRec) : VOp → Word
  | .x => r.x | .z => r.z | .y => r.y.setWidth 64 | .w => r.w.setWidth 64
/-- Its row stride. -/
def vStride (r : VecRec) : VOp → BitVec 32
  | .x => r.sx | .z => r.sz | .y => r.sy | .w => r.sw

/-- R301: the operands an operation uses, in field order. -/
def vUses (op : Nat) : List VOp :=
  if op ≤ 0x42 ∨ op = 0x44 ∨ op = 0x45 ∨ op = 0x4C then [.x, .z, .y]
  else if op = 0x43 ∨ op = 0x4D then [.x, .z, .y, .w]
  else [.x, .z]

/-- R301: the elements of a row that an operand spans: VRED writes one. -/
def vRow (op : Nat) (r : VecRec) (o : VOp) : Nat := if op = 0x4A ∧ o = .z then 1 else r.n0.toNat

/-- R300: the offset of row `i` of an operand from its base. -/
def vOff (r : VecRec) (o : VOp) (i : Nat) : Int := (i : Int) * (vStride r o).toInt

/-- R300: the slots a slot operand touches, row by row. -/
def vOpSlots (op : Nat) (r : VecRec) (o : VOp) : List Int :=
  let es := d0Bytes (vFmt r o)
  if vLoc r o ≠ 2 then []
  else
    (rangeFrom 0 r.n1.toNat).flatMap fun i =>
      let a : Int := ((vBase r o).toNat : Int) + vOff r o i
      let b : Int := a + ((vRow op r o * es : Nat) : Int) - 1
      slotRun (a / 4096) ((b / 4096 - a / 4096).toNat + 1)

/-- The slots of a vector record. -/
def vecSlots (op : Nat) (r : VecRec) : List Int := ((vUses op).flatMap (vOpSlots op r)).eraseDups

/-- R291: the slots that a record of `%mq` or `%vq` names. -/
def recSlots (b : Rec512) : List Int :=
  let op := recOp b
  if op = 0x20 ∨ op = 0x21 then matSlots (matRec b)
  else if 0x22 ≤ op ∧ op ≤ 0x24 then tileSlots (slotRec b)
  else vecSlots op (vecRec b)

/-- Does a record name a slot? -/
def namesSlot (b : Rec512) (slot : Nat) : Bool := (recSlots b).contains (slot : Int)

/-! ### The store (R282) -/

/-- Bytes of the store. -/
def slotBytes (k : Core) (a n : Nat) : List Byte := (rangeFrom a n).map fun i => Sparse.get byte0 k.slots i

/-- Stores bytes of the store. -/
def putSlots (k : Core) (a : Nat) : List Byte → Core
  | [] => k
  | b :: r => putSlots { k with slots := Sparse.put byte0 k.slots a b } (a + 1) r

/-- R282: where element (i, j) of a tile stands in the store. -/
def slotAddr (acc : BitVec 2) (slot i j : Nat) : Nat :=
  if acc = 1 then (slot + i / 16) * 4096 + (32 * (i % 16) + j) * 8 else slot * 4096 + (32 * i + j) * 4

/-- Bytes of an accumulator element. -/
def accBytes (acc : BitVec 2) : Nat := if acc = 1 then 8 else 4

/-- An accumulator element. -/
def accGet (k : Core) (acc : BitVec 2) (slot i j : Nat) : Nat := ofBytesNat (slotBytes k (slotAddr acc slot i j) (accBytes acc))

/-- Writes it. -/
def accPut (k : Core) (acc : BitVec 2) (slot i j v : Nat) : Core :=
  putSlots k (slotAddr acc slot i j) (toBytes (BitVec.ofNat 64 v) (accBytes acc))

/-- A slot's SAT flag. -/
def setSat (k : Core) (slot : Nat) (b : Bool) : Core := { k with sat := Sparse.put (fun _ => false) k.sat slot b }

/-- The D0 code of an accumulator format. -/
def accFmt (acc : BitVec 2) : BitVec 8 := if acc = 0 then 3 else if acc = 1 then 4 else 7

/-! ### Ownership (R291, R292) -/

/-- The owner tag of a task. -/
def tagOf (c : Ctx) : BitVec 8 := field c.accsave 0 8

/-- ADDR of an ACCSAVE. -/
def saveBase (a : Word) : Word := a - BitVec.ofNat 64 (a.toNat % 4096)

/-- R292: the lowest-numbered slot of a list that a task may not use, with the subcause. -/
def ownerFault (k : Core) (c : Ctx) (slots : List Int) : Option (Nat × BitVec 8) :=
  let bad (n : Nat) : Option (Nat × BitVec 8) :=
    let o := k.slotOwner n
    if o ≠ 0xFF ∧ o ≠ tagOf c then some (n, 0) else if c.spilled.contains n then some (n, 1) else none
  slots.foldl (fun best x =>
    match bad x.toNat, best with
    | some a, some b => if a.1 < b.1 then some a else some b
    | some a, none => some a
    | none, b => b) none

/-- R292, R362: the fault that a slot raises. -/
def ownerEFault (k : Core) (c : Ctx) (slot : Nat) (sub : BitVec 8) : EFault :=
  let area := if sub = 0 then (match k.tagctx.find? fun t => t.tag == (k.slotOwner slot).toNat with
      | some t => t.accsave
      | none => 0)
    else c.accsave
  ⟨(cACCOWNER, sub), saveBase area + BitVec.ofNat 64 (4096 * slot)⟩

/-- R292: the first use of free slots makes the acting task their owner. -/
def takeSlots (k : Core) (tag : BitVec 8) (slots : List Int) : Core :=
  slots.foldl (fun k x => if k.slotOwner x.toNat = 0xFF then { k with owner := Sparse.put (fun _ => 0xFF) k.owner x.toNat tag } else k) k

/-- R292: does a running record of another task name one of the slots? -/
def slotsInUse (s : State) (u : Nat) (slots : List Int) : Bool :=
  (runningOf s (coreOf u) .mq ++ runningOf s (coreOf u) .vq).any fun x =>
    x.1 != u && !x.2.atStart && (recSlots x.2.bits).any fun a => slots.contains a

/-- A record held at its start: its entry still stands at the head of its queue. -/
def haltAtStart (s : State) (u : Nat) (q : EQueue) (h : QHead) (slot : Nat) (otag : BitVec 8) (e : EFault) : State :=
  haltFlight s u { bits := h.bits, queue := q, ordinal := h.ordinal, mode := h.mode, atStart := true, slot := slot, otag := otag } e

/-- R292: row 11 of R287: the record waits for a running record of another task that names one of its slots; then it starts with its slots
its task's own, or is held. -/
def withSlots (s : State) (u : Nat) (q : EQueue) (h : QHead) (slots : List Int) (go : State → State) : State :=
  let core := coreOf u
  let k := s.core core
  let c := s.ctx u
  if slotsInUse s u slots then s
  else match ownerFault k c slots with
  | some (slot, sub) => haltAtStart s u q h slot (k.slotOwner slot) (ownerEFault k c slot sub)
  | none => go (s.setCore core (takeSlots k (tagOf c) slots))

/-! ### AOWNR, ASAVE, AREST (R293 to R295) -/

/-- What runs on control and shadow contexts. -/
def slotGate : Gate := { host := false, pack := false }

/-- R294: what AOWNR writes. A task without a tag reads MINE of a free slot, since both codes are 0xFF (log 39). -/
def ownerWord (s : State) (slot : Nat) : Word :=
  let k := s.core (coreOf s.cur)
  let c := s.ctx (taskOf s s.cur)
  let o := k.slotOwner slot
  BitVec.ofNat 64 (o.toNat + (if c.spilled.contains slot then 2 ^ 8 else 0) + (if Sparse.get (fun _ => false) k.sat slot then 2 ^ 9 else 0) +
    (if Sparse.get (fun _ => false) k.held slot then 2 ^ 10 else 0) + (if o = tagOf c then 2 ^ 11 else 0))

/-- R293: a slot of a register operand. -/
def slotReg (s : State) (v : Word) (go : State → Nat → State) : State :=
  gated s slotGate fun s => if 2047 < v.toNat then trapS s (cBOUNDS, 9) 0 else go s v.toNat

/-- R294: AOWNR. -/
def execAownr (sd : SReg) (slot : BitVec 11) (s : State) : Out := .next (gated s slotGate fun s => s.setS sd (ownerWord s slot.toNat))
/-- R294: AOWNR with a register operand. -/
def execAownrReg (sd sx : SReg) (s : State) : Out := .next (slotReg s (s.rs sx) fun s n => s.setS sd (ownerWord s n))

/-- R295, R402: must ASAVE and AREST wait for a slot? -/
def slotBusy (s : State) (slot : Nat) : Bool :=
  let c := s.ctx (taskOf s s.cur)
  let started := c.flights.any fun f => (f.queue == .mq || f.queue == .vq) && !f.atStart && namesSlot f.bits slot
  let queued := (c.mq ++ c.vq).any fun e => match e with
    | .record b _ _ _ => namesSlot b slot
    | .marker _ => false
  Sparse.get (fun _ => false) (s.core (coreOf s.cur)).held slot || started || (kindOf s.cur != .shadow && queued)

/-- R293, R295: the slot check of ASAVE and AREST, and their wait. -/
def slotReady (s : State) (slot : Nat) (go : State → State) : State :=
  if (s.ctx (taskOf s s.cur)).accslots ≤ slot then trapS s (cBOUNDS, 9) 0
  else
    let s := settleArray s (coreOf s.cur)
    if slotBusy s slot then s.stall (.slot slot) else go s

/-- R295: checks the pages of a 4 KiB slot image from a 64-byte-aligned address: lines with their physical addresses. -/
def imagePages (s : State) (t : TransCtx) (k : AccKind) (a : Word) : State × Except EFault (List (Nat × Bool)) :=
  match translate s t k false a with
  | (s, .error c) => (s, .error ⟨c, a⟩)
  | (s, .ok tr) =>
    let here := 64 - a.toNat % 4096 / 64
    let first := (rangeFrom 0 here).map fun i => (tr.pa + 64 * i, tr.dev)
    if here = 64 then (s, .ok first)
    else if 2 ^ 64 ≤ a.toNat + 64 * here then (s, .error ⟨(cBOUNDS, 0), 0⟩)
    else
      let b := a + BitVec.ofNat 64 (64 * here)
      match translate s t k false b with
      | (s, .error c) => (s, .error ⟨c, b⟩)
      | (s, .ok tr) => (s, .ok (first ++ (rangeFrom 0 (64 - here)).map fun i => (tr.pa + 64 * i, tr.dev)))

/-- R295: writes a slot image, a line at a time. -/
def writeImage (u : Nat) (p : Option Nat) (img : List Byte) : List (Nat × Bool) → Nat → State → State × Option (BitVec 8)
  | [], _, s => (s, none)
  | (pa, dev) :: r, i, s =>
    match physWrite s { u := u, part := p, dev := dev } pa ((img.drop (64 * i)).take 64) none with
    | (s, some c) => (s, some c)
    | (s, none) => writeImage u p img r (i + 1) s

/-- R295: reads a slot image, a line at a time. -/
def readImage (u : Nat) (p : Option Nat) : List (Nat × Bool) → State → State × Except (BitVec 8) (List Byte)
  | [], s => (s, .ok [])
  | (pa, dev) :: r, s =>
    match physRead s { u := u, part := p, dev := dev } pa 64 with
    | (s, .error c) => (s, .error c)
    | (s, .ok bs) =>
      match readImage u p r s with
      | (s, .ok l) => (s, .ok (bs ++ l))
      | (s, .error c) => (s, .error c)

/-- R295: the spill bits of the owner of a tag, resident or saved. -/
def noteSpill (s : State) (core : Nat) (tag : BitVec 8) (slot : Nat) (sat : Bool) : State :=
  let mark (c : Ctx) : Ctx :=
    { c with spilled := slot :: c.spilled.filter (fun x => x != slot)
             savedSat := if sat then slot :: c.savedSat.filter (fun x => x != slot) else c.savedSat.filter fun x => x != slot }
  match ctlUnits core |>.find? fun u => (s.ctx u).live && tagOf (s.ctx u) == tag with
  | some u => s.setCtx u (mark (s.ctx u))
  | none => { s with saved := s.saved.map fun v =>
      if !v.host && v.blockId.isNone && coreOf v.unit == core && tagOf v.ctx == tag then { v with ctx := mark v.ctx } else v }

/-- The bytes of a slot read zero. -/
def zeroSlot (k : Core) (slot : Nat) : Core := { k with slots := k.slots.filter fun x => x.1 / 4096 != slot }

/-- R295: the slot is spilled: its owner's bits, its contents and its owner. -/
def spillSlot (s : State) (core slot : Nat) (new : BitVec 8) : State :=
  let k := s.core core
  let s := noteSpill s core (k.slotOwner slot) slot (Sparse.get (fun _ => false) k.sat slot)
  let k := setSat (zeroSlot (s.core core) slot) slot false
  s.setCore core { k with owner := Sparse.put (fun _ => 0xFF) k.owner slot new }

/-- R295: the translation of the owner of a tag. -/
def tagTrans (core : Nat) (t : TagCtx) (mode : BitVec 2) : TransCtx :=
  { core := core, part := t.part, ttb1 := t.ttb1, ttb2 := t.ttb2, ctxid := t.ctxid, vmid := t.vmid, mode := mode }

/-- R295: ASAVE of a slot. -/
def asave (s : State) (sd : SReg) (slot : Nat) : State :=
  slotReady s slot fun s =>
    let core := coreOf s.cur
    let k := s.core core
    let c := s.ctx (taskOf s s.cur)
    let o := k.slotOwner slot
    let a := s.rs sd
    if o = 0xFF then s.dirtied.advance
    else
      match k.tagctx.find? fun t => t.tag == o.toNat with
      | none => s.dirtied.advance
      | some t =>
        if o ≠ tagOf c ∧ s.me.mode = 0 then trapS s (cPRIV, 0) 0
        else if o ≠ tagOf c ∧ a ≠ saveBase t.accsave + BitVec.ofNat 64 (4096 * slot) then trapS s (cBOUNDS, 10) a
        else if a.toNat % 64 ≠ 0 then trapS s (cMISALIGN, 0) a
        else
          match imagePages s (tagTrans core t s.me.mode) .write a with
          | (s, .error e) => trapS s e.cause e.addr
          | (s, .ok ps) =>
            match writeImage s.cur t.part (slotBytes k (4096 * slot) 4096) ps 0 s with
            | (s, some c) => trapScalar s (c, 0) a true false
            | (s, none) => (spillSlot s core slot (if o = tagOf c then 0xFF else tagOf c)).dirtied.advance

/-- R295: ASAVE. -/
def execAsave (sd : SReg) (slot : BitVec 11) (s : State) : Out := .next (gated s slotGate fun s => asave s sd slot.toNat)
/-- R295: ASAVE with a register operand. -/
def execAsaveReg (sd sx : SReg) (s : State) : Out := .next (slotReg s (s.rs sx) fun s n => asave s sd n)

/-- R295: a slot takes an image, and the acting task becomes its owner. -/
def fillSlot (s : State) (core tu slot : Nat) (img : List Byte) : State :=
  let c := s.ctx tu
  let k := putSlots (zeroSlot (s.core core) slot) (4096 * slot) img
  let k := setSat k slot (c.spilled.contains slot && c.savedSat.contains slot)
  let s := s.setCore core { k with owner := Sparse.put (fun _ => 0xFF) k.owner slot (tagOf c) }
  s.setCtx tu { c with spilled := c.spilled.filter (fun x => x != slot), savedSat := c.savedSat.filter fun x => x != slot }

/-- R295: AREST of a slot. -/
def arest (s : State) (sd : SReg) (slot : Nat) : State :=
  slotReady s slot fun s =>
    let core := coreOf s.cur
    let tu := taskOf s s.cur
    let c := s.ctx tu
    let o := (s.core core).slotOwner slot
    let a := s.rs sd
    if o ≠ 0xFF ∧ o ≠ tagOf c then trapS s (cACCOWNER, 0) (ownerEFault (s.core core) c slot 0).addr
    else if a.toNat % 64 ≠ 0 then trapS s (cMISALIGN, 0) a
    else
      match imagePages s (unitTrans s tu s.me.mode) .read a with
      | (s, .error e) => trapS s e.cause e.addr
      | (s, .ok ps) =>
        match readImage s.cur c.part ps s with
        | (s, .error c) => trapScalar s (c, 0) a true false
        | (s, .ok img) => (fillSlot s core tu slot img).dirtied.advance

/-- R295: AREST. -/
def execArest (sd : SReg) (slot : BitVec 11) (s : State) : Out := .next (gated s slotGate fun s => arest s sd slot.toNat)
/-- R295: AREST with a register operand. -/
def execArestReg (sd sx : SReg) (s : State) : Out := .next (slotReg s (s.rs sx) fun s n => arest s sd n)

end Sys2Proof.Machine
end

