-- ==== Sys2Proof/Machine/Matrix.lean ====
section
/-! DEFINITION. The matrix array: MMA and MMAS (R280 to R288), and the slot records MZERO, MLDC and MRET (R289, R290). -/

namespace Sys2Proof.Machine

/-! ### Starting under the Leash (R287, R296, R298) -/

/-- R287: a record at the head of `%mq` starts: its wait is over, its context holds the Leash and the array is free. One that waits for
itself retires before that, and counts under a lease its context holds (R298). -/
def startArray (s : State) (u : Nat) (h : QHead) (body : State → State) : State :=
  let core := coreOf u
  let c := s.ctx u
  if selfWait .mq h then retireAtStart (if c.oq.length < 32 then countLease s core (u % 128) else s) u .mq h (cQUEUE, 5) 0
  else if (c.draining && !(s.core core).busy) || !waitOver c h.bits || clocksHeld s core || decide (4 ≤ (c.inFlight .mq).length) then s
  else
    let s := settleArray s core
    if (s.core core).leashHolder == some (u % 128) && arrayFree s core then body s else s

/-- R287, R298: a record of `%mq` retires with a fault at its start; it counts under the lease. -/
def failMq (s : State) (u : Nat) (h : QHead) (c : Cause) (faddr : Word) : State :=
  if 32 ≤ (s.ctx u).oq.length then s
  else
    let s := recordEnd (s.setCtx u ((s.ctx u).popHead .mq)) (coreOf u) (u % 128) h.bits 0
    retireNow s u { bits := h.bits, queue := .mq, ordinal := h.ordinal, mode := h.mode, cause := c.1, sub := c.2, faddr := faddr }

/-- The record at the head of a queue of the acting control context, if it is this one. -/
def actingHead (s : State) (q : EQueue) (ok : Rec512 → Bool) : Option QHead :=
  if kindOf s.cur ≠ .ctl ∨ !s.me.live then none
  else (headRecord s.me q).filter fun h => ok h.bits

/-- The first thing that does not hold. -/
def firstFail {α : Type} (l : List (Option α)) : Option α := (l.filterMap id).head?

/-- A condition and what it gives. -/
def failIf {α : Type} (b : Bool) (x : α) : Option α := if b then some x else none

/-- Numbers in ascending order, each once. -/
def ascending (l : List Nat) : List Nat := (l.foldl (fun m x => Sparse.set m x ()) ([] : Sparse Unit)).map (·.1)

/-- The first offset of `n` bytes at `o` that lies outside an allocation. -/
def beyond (size : Nat) (o : Int) (n : Nat) : Option Word :=
  if o < 0 then some (BitVec.ofInt 64 o) else if (size : Int) < o + n then some (BitVec.ofInt 64 (max o size)) else none

/-! ### Operands (R284, R286) -/

/-- R281: the class of an operand format: 0 binary8, 1 INT8, 2 BF16 and FP16, 3 FP32, 4 FP64. -/
def fmtClass (d : BitVec 8) : Option Nat :=
  if bitAt d 7 then some 0 else if d = 5 then some 1 else if d = 1 ∨ d = 2 then some 2 else if d = 3 then some 3 else if d = 4 then some 4 else none

/-- R281: the accumulator of a class. -/
def classAcc (c : Nat) : BitVec 2 := if c = 1 then 2 else if c = 4 then 1 else 0

/-- R281: does a format go with an accumulator? -/
def fitsAcc (acc : BitVec 2) (d : BitVec 8) : Bool := (fmtClass d).any fun c => classAcc c == acc

/-- R281: a combination. -/
def combination (acc : BitVec 2) (fa fb : BitVec 8) : Bool := fitsAcc acc fa && fmtClass fa == fmtClass fb

/-- R280: array clocks per K-group. -/
def classClocks (c : Nat) : Nat := if c ≤ 1 then 8 else if c = 2 then 16 else if c = 3 then 64 else 256

/-- R305: R. -/
def classPrice (c : Nat) : Nat := if c ≤ 1 then 2 else if c = 2 then 4 else if c = 3 then 16 else 64

/-- R284: the base of A in pass `p`. -/
def matPa (r : MatRec) (p : Nat) : Int := (r.a.toNat : Int) + nestDot (nestIndex r.n0 r.n1 r.n2 p) r.ai0 r.ai1 r.ai2 r.ai3
/-- R284: the base of B in pass `p`. -/
def matPb (r : MatRec) (p : Nat) : Int := (r.b.toNat : Int) + nestDot (nestIndex r.n0 r.n1 r.n2 p) r.bi0 r.bi1 r.bi2 r.bi3

/-- The swizzle of an offset, which leaves one below the allocation where it is. -/
def swzInt (mode : BitVec 2) (mask : BitVec 3) (o : Int) : Int := if o < 0 then o else swz mode mask o.toNat

/-- R284: the Canvas offset of A(i, k). -/
def matA (r : MatRec) (es p i k : Nat) : Int :=
  swzInt r.aswzMode r.aswzMask (matPa r p + ((i / 32 * 1024 * es + (i % 32 * 32 + k) * es : Nat) : Int))

/-- R284: the Canvas offset of B(k, j). -/
def matB (r : MatRec) (es p k j : Nat) : Int :=
  swzInt r.bswzMode r.bswzMask (matPb r p + ((j / 32 * 1024 * es + (k * 32 + j % 32) * es : Nat) : Int))

/-- R286: the bitmap word of pass `p`; an MMA's skips nothing. The bitmap is no operand line of R135: its lines are read as they stand
(log 39). -/
def bitmapWord (s : State) (u : Nat) (sparse : Bool) (r : MatRec) (p : Nat) : Word :=
  if sparse then ofBytes 64 (canvasBytes (s.core (coreOf u)) ((s.ctx u).cbase + r.bitmap.toNat + 8 * p) 8) else 0

/-- R286: the bands in which K-group `g` is marked. -/
def bandsMarked (r : MatRec) (w : Word) (g : Nat) : Nat := ((rangeFrom 0 (4 * matMt r)).filter fun b => bitAt w (4 * b + g)).length

/-- R286: the K-groups a pass performs. -/
def groupsOf (r : MatRec) (w : Word) : List Nat := (rangeFrom 0 (matKg r)).filter fun g => bandsMarked r w g != 4 * matMt r

/-- The K-steps of some groups. -/
def stepsOf (gs : List Nat) : List Nat := gs.flatMap fun g => rangeFrom (8 * g) 8

/-- The K-steps each pass performs. -/
def passSteps (s : State) (u : Nat) (sparse : Bool) (r : MatRec) (p : Nat) : List Nat := stepsOf (groupsOf r (bitmapWord s u sparse r p))

/-- R284, R286: the lines of A that the passes read, ascending. -/
def matALines (s : State) (u : Nat) (sparse : Bool) (r : MatRec) (es : Nat) : List Nat :=
  ascending ((rangeFrom 0 (matPasses r)).flatMap fun p => (passSteps s u sparse r p).flatMap fun k =>
    (rangeFrom 0 (32 * matMt r)).map fun i => (matA r es p i k).toNat / 64)

/-- R284, R286: the lines of B that the passes read, ascending. -/
def matBLines (s : State) (u : Nat) (sparse : Bool) (r : MatRec) (es : Nat) : List Nat :=
  ascending ((rangeFrom 0 (matPasses r)).flatMap fun p => (passSteps s u sparse r p).flatMap fun k =>
    (rangeFrom 0 (32 * matNt r)).map fun j => (matB r es p k j).toNat / 64)

/-- R288: the bank groups of some relative lines. -/
def lineGroups (s : State) (u : Nat) (ls : List Nat) : List Nat := ascending (ls.map fun l => ((s.ctx u).cbase + 64 * l) / 0x18000)

/-! ### Checks at record start (R287) -/

/-- R287, row 1. -/
def matRow1 (sparse : Bool) (r : MatRec) : Bool :=
  decide (4 ≤ r.head.flags.toNat) || r.head.res != 0 || r.resA != 0 || r.resB != 0 || r.resC != 0 || decide (5 ≤ r.head.waitsel.toNat) ||
  r.acc == 3 || r.mt == 3 || (r.acc == 1 && decide (1 < r.nt.toNat)) || (!sparse && r.bitmap != 0) || !d0Ok r.fa || !d0Ok r.fb

/-- R287, row 3: explicit formats; one alone must go with the accumulator. -/
def matRow3 (r : MatRec) : Bool :=
  if r.fa ≠ 0 ∧ r.fb ≠ 0 then !combination r.acc r.fa r.fb
  else if r.fa ≠ 0 then !fitsAcc r.acc r.fa
  else r.fb != 0 && !fitsAcc r.acc r.fb

/-- R287: the line that the first pass reads first of an operand, given where its first element stands for each element size; an element
size is the line's own. -/
def firstLineOf (s : State) (u : Nat) (at_ : Nat → Int) : Int :=
  let fits (es : Nat) : Bool :=
    let o := at_ es
    let d := descD0 (Sparse.get desc0 (s.core (coreOf u)).cdesc (((s.ctx u).cbase + o.toNat) / 64))
    decide (0 ≤ o) && d != 0 && d0Bytes d == es
  at_ (([1, 2, 4, 8].find? fits).getD 1)

/-- R287: the format of an operand: explicit, or that of its first line, which must go with `ok`. A first line outside the allocation is
BOUNDS 11 here already (log 39). -/
def operandFmt (s : State) (u : Nat) (f : BitVec 8) (o : Int) (ok : BitVec 8 → Bool) : State × Except EFault (BitVec 8) :=
  if f ≠ 0 then (s, .ok f)
  else
    match beyond ((s.ctx u).csize) o 1 with
    | some a => (s, .error ⟨(cBOUNDS, 11), a⟩)
    | none =>
      match canvasLine s u (o.toNat / 64) with
      | (s, .error e) => (s, .error e)
      | (s, .ok d) =>
        if ok (descD0 d) then (s, .ok (descD0 d)) else (s, .error ⟨(cMALFORMED, 0), BitVec.ofNat 64 (o.toNat / 64 * 64)⟩)

/-- R287: the formats of both operands. The first pass that reads anything is the one whose lines are looked at; where none does, the first
K-group of pass 0 (log 39). -/
def matFmts (s : State) (u : Nat) (sparse : Bool) (r : MatRec) : State × Except EFault (BitVec 8 × BitVec 8) :=
  let gs (p : Nat) : List Nat := groupsOf r (bitmapWord s u sparse r p)
  let p := ((rangeFrom 0 (matPasses r)).find? fun p => !(gs p).isEmpty).getD 0
  let g := (gs p).headD 0
  match operandFmt s u r.fa (firstLineOf s u fun es => matA r es p 0 (8 * g))
      (fun d => if r.fb = 0 then fitsAcc r.acc d else combination r.acc d r.fb) with
  | (s, .error e) => (s, .error e)
  | (s, .ok fa) =>
    match operandFmt s u r.fb (firstLineOf s u fun es => matB r es p (8 * g) 0) (fun d => combination r.acc fa d) with
    | (s, .error e) => (s, .error e)
    | (s, .ok fb) => (s, .ok (fa, fb))

/-- R287, row 6. -/
def matRow6 (sparse : Bool) (r : MatRec) : Option Word :=
  let inc : List (BitVec 24) := [r.ai0, r.ai1, r.ai2, r.ai3, r.bi0, r.bi1, r.bi2, r.bi3]
  firstFail [
    failIf (r.a.toNat % 64 != 0) (r.a.setWidth 64),
    failIf (r.b.toNat % 64 != 0) (r.b.setWidth 64),
    failIf (sparse && r.bitmap.toNat % 8 != 0) (r.bitmap.setWidth 64),
    failIf (inc.any fun x => x.toNat % 64 != 0) 0,
    failIf (r.acc == 1 && (rangeFrom 0 (matPasses r)).any fun p => matSlot r p % 2 != 0) 0]

/-- R287, row 8: the first offset outside the allocation, pass by pass, of A, of B, of the bitmap. -/
def matRow8 (size : Nat) (sparse : Bool) (r : MatRec) (ea eb : Nat) : Option Word :=
  (rangeFrom 0 (matPasses r)).findSome? fun p =>
    firstFail [
      (rangeFrom 0 (32 * matMt r)).findSome? fun i => (rangeFrom 0 (8 * matKg r)).findSome? fun k => beyond size (matA r ea p i k) ea,
      (rangeFrom 0 (8 * matKg r)).findSome? fun k => (rangeFrom 0 (32 * matNt r)).findSome? fun j => beyond size (matB r eb p k j) eb,
      if sparse then beyond size ((r.bitmap.toNat + 8 * p : Nat) : Int) 8 else none]

/-- R288, second rule: does a copy record in flight on the core write a group that the record touches? -/
def copyWrites (s : State) (core : Nat) (gs : List Nat) : Bool :=
  (ctlUnits core).any fun v => ((s.ctx v).inFlight .lq).any fun f =>
    (cpGroups (s.ctx v).cbase (copyRec f.bits)).any fun g => gs.contains g

/-- R287, row 10: the first line, ascending, that may not be read. -/
def linesFail (u : Nat) (want : Nat → BitVec 8) : List Nat → State → State × Option EFault
  | [], s => (s, none)
  | l :: r, s =>
    match canvasLine s u l with
    | (s, .error e) => (s, some e)
    | (s, .ok d) =>
      if want l ≠ 0 ∧ descD0 d ≠ want l then (s, some ⟨(cMALFORMED, 0), BitVec.ofNat 64 (64 * l)⟩) else linesFail u want r s

/-- R287, rows 5 to 10, once the formats are known. -/
def matRows (s : State) (u : Nat) (sparse : Bool) (r : MatRec) (fa fb : BitVec 8) : State × Option EFault :=
  let c := s.ctx u
  let slots := matSlots r
  let g := classClocks ((fmtClass fa).getD 0)
  let early := firstFail [
    failIf (decide (2 ^ 18 < matPasses r * matKg r * g)) (⟨(cQUEUE, 6), 0⟩ : EFault),
    (matRow6 sparse r).map fun a => ⟨(cMISALIGN, 0), a⟩,
    failIf (slots.any fun x => decide (x < 0) || decide ((c.accslots : Int) ≤ x)) ⟨(cBOUNDS, 9), 0⟩,
    (matRow8 c.csize sparse r (d0Bytes fa) (d0Bytes fb)).map fun a => ⟨(cBOUNDS, 11), a⟩]
  match early with
  | some e => (s, some e)
  | none =>
    let la := matALines s u sparse r (d0Bytes fa)
    let lb := matBLines s u sparse r (d0Bytes fb)
    let ga := lineGroups s u la
    let gb := lineGroups s u lb
    if (ga.any fun x => gb.contains x) || copyWrites s (coreOf u) (ga ++ gb) then (s, some ⟨(cBANKCONFLICT, 0), 0⟩)
    else
      linesFail u (fun l => if la.contains l then (if r.fa = 0 then fa else 0) else if r.fb = 0 then fb else 0) (ascending (la ++ lb)) s

/-- R287: every check but the last. -/
def matCheck (s : State) (u : Nat) (sparse : Bool) (r : MatRec) : State × Except EFault (BitVec 8 × BitVec 8) :=
  match firstFail [failIf (matRow1 sparse r) (1 : BitVec 8), failIf (matPasses r == 0) 2, failIf (matRow3 r) 4] with
  | some sub => (s, .error ⟨(cQUEUE, sub), 0⟩)
  | none =>
    match matFmts s u sparse r with
    | (s, .error e) => (s, .error e)
    | (s, .ok (fa, fb)) =>
      match matRows s u sparse r fa fb with
      | (s, some e) => (s, .error e)
      | (s, none) => (s, .ok (fa, fb))

/-! ### Passes (R141 to R143, R284, R285) -/

/-- R132, R287: an operand's element value, under the line descriptors that stood at the record's start; a line's scale counts under "from
line" only. -/
def operandVal (k : Core) (descs : Sparse (BitVec 16)) (base : Nat) (f : BitVec 8) (fromLine : Bool) (o : Int) : Val :=
  let a := base + o.toNat
  let scale := if fromLine then descScale (Sparse.get desc0 descs (a / 64)) else 0
  d0Val f scale (ofBytesNat (canvasBytes k a (d0Bytes f)))

/-- R141: the chunk sum of an output element over the K-steps performed. -/
def chunkSum (av bv : Nat → Val) (ks : List Nat) : Val := sumVals (ks.map fun k => prodVal (av k) (bv k))

/-- R141, R143, R285: an accumulator code after a chunk sum, and whether saturation acted. -/
def accStep (acc : BitVec 2) (sat : Bool) (code : Nat) (x : Val) : Nat × Bool :=
  if acc = 2 then
    let t := intOf true 32 code + valToInt .rtz true 32 x
    let c := clampInt (intLo true 32) (intHi true 32) t
    if sat then (wrapInt 32 c, c != t) else (wrapInt 32 t, false)
  else
    let f := if acc = 1 then f64Fmt else f32Fmt
    let v := accumulate f sat code x
    (v, v != accumulate f false code x)

/-- R284, R285: one output element of a pass. -/
def passElem (r : MatRec) (p : Nat) (sum : Nat → Nat → Val) (k : Core) (ij : Nat × Nat) : Core :=
  let i := ij.1
  let j := ij.2
  let slot := (matSlot r p).toNat + accSlots r.acc * (i / 32 * matNt r + j / 32)
  let x := accStep r.acc (bitAt r.head.flags 0) (accGet k r.acc slot (i % 32) (j % 32)) (sum i j)
  let k := accPut k r.acc slot (i % 32) (j % 32) x.1
  if x.2 then setSat k (if r.acc = 1 then slot + i % 32 / 16 else slot) true else k

/-- The pairs below two bounds, row by row. -/
def pairs (m n : Nat) : List (Nat × Nat) := (rangeFrom 0 m).flatMap fun i => (rangeFrom 0 n).map fun j => (i, j)

/-- R284: a pass, in a core whose Canvas stays as it is. -/
def matPass (base : Nat) (descs : Sparse (BitVec 16)) (r : MatRec) (fa fb : BitVec 8) (ks : Nat → List Nat) (k : Core) (p : Nat) : Core :=
  let av (i n : Nat) : Val := operandVal k descs base fa (r.fa == 0) (matA r (d0Bytes fa) p i n)
  let bv (n j : Nat) : Val := operandVal k descs base fb (r.fb == 0) (matB r (d0Bytes fb) p n j)
  (pairs (32 * matMt r) (32 * matNt r)).foldl (passElem r p fun i j => chunkSum (av i) (fun n => bv n j) (ks p)) k

/-- R305: the units of a pass: one for each K-group it performs. -/
def passUnits (r : MatRec) (cl : Nat) (w : Word) : List (Nat × Nat) :=
  (groupsOf r w).map fun g =>
    let marked := bandsMarked r w g
    (1, matNt r * ((4 * matMt r - marked) * classPrice cl + marked * (classPrice cl / 2)))

/-- R296: between boundaries the array may keep the tiles it wrote. -/
def holdTiles (s : State) (core : Nat) (slots : List Int) : State :=
  let b := decide (Config.choice s.free % 2 = 1)
  let k := s.core core
  { s.setCore core { k with held := slots.foldl (fun m x => Sparse.put (fun _ => false) m x.toNat b) k.held } with free := s.free + 1 }

/-- R305: the units that must be debited before pass `p` is performed: those of its K-groups and of every pass before it. -/
def passNeeds (s : State) (u : Nat) (sparse : Bool) (r : MatRec) (p : Nat) : Nat :=
  (((rangeFrom 0 (p + 1)).map fun q => (groupsOf r (bitmapWord s u sparse r q)).length)).sum

/-- R285, R305, R327: the next `n` passes of a matrix record, as far as its units are debited. -/
def matRun (u : Nat) (sparse : Bool) (r : MatRec) : Nat → State → Flight → State × Flight
  | 0, s, f => (s, f)
  | n + 1, s, f =>
    if f.units.isEmpty || decide (passNeeds s u sparse r f.done ≤ f.paid) then
      let core := coreOf u
      let pass := matPass (s.ctx u).cbase f.descs r (f.fmts.getD 0 0) (f.fmts.getD 1 0) (passSteps s u sparse r)
      matRun u sparse r n (s.setCore core (pass (s.core core) f.done)) { f with done := f.done + 1 }
    else (s, f)

/-- R285, R286: a matrix record goes on from its pass; after the last the array may hold its tiles. -/
def matGo (s : State) (u : Nat) (sparse : Bool) (r : MatRec) (f : Flight) : State :=
  match matRun u sparse r (f.total - f.done) s f with
  | (s, f) =>
    if f.done < f.total then s.setCtx u ((s.ctx u).putFlight f)
    else holdTiles (s.setCtx u ((s.ctx u).putFlight { f with finished := true })) (coreOf u) (matSlots r)

/-- R285, R286: a record that passed its checks starts: it asks for its units, and its passes follow as they are debited. -/
def matBegin (s : State) (u : Nat) (sparse : Bool) (r : MatRec) (h : QHead) (fa fb : BitVec 8) : State :=
  let cl := (fmtClass fa).getD 0
  let w (p : Nat) : Word := bitmapWord s u sparse r p
  let ps := rangeFrom 0 (matPasses r)
  let f : Flight := {
    bits := h.bits, queue := .mq, ordinal := h.ordinal, mode := h.mode, total := matPasses r,
    units := ps.flatMap fun p => passUnits r cl (w p), clocks := (ps.flatMap fun p => groupsOf r (w p)).length * classClocks cl,
    groups := lineGroups s u (matALines s u sparse r (d0Bytes fa) ++ matBLines s u sparse r (d0Bytes fb)), fmts := [fa, fb],
    descs := (s.core (coreOf u)).cdesc }
  let s := askUnits (s.setCtx u (((s.ctx u).popHead .mq).putFlight f)) (coreOf u) (u % 128) f
  matGo s u sparse r (((s.ctx u).flight .mq h.ordinal).getD f)

/-- R287: a matrix record at the head of `%mq`. -/
def startMat (s : State) (u : Nat) (sparse : Bool) (r : MatRec) (h : QHead) : State :=
  startArray s u h fun s =>
    match matCheck s u sparse r with
    | (s, .error e) => failMq s u h e.cause e.addr
    | (s, .ok (fa, fb)) => withSlots s u .mq h (matSlots r) fun s => matBegin s u sparse r h fa fb

/-- A matrix record is executed where it stands at the head of `%mq` of the acting control context. -/
def matRecord (sparse : Bool) (r : MatRec) (s : State) : State :=
  match actingHead s .mq fun b => recOp b == (if sparse then 0x21 else 0x20) && matRec b == r with
  | some h => startMat s s.cur sparse r h
  | none => s

/-- R285: MMA. -/
def execMma (r : MatRec) (s : State) : Out := .next (matRecord false r s)
/-- R286: MMAS. -/
def execMmas (r : MatRec) (s : State) : Out := .next (matRecord true r s)

/-! ### Slot records (R289, R290) -/

/-- The three slot operations. -/
inductive SlotOp where
  | mzero | mldc | mret
  deriving DecidableEq, Repr

/-- R52. -/
def SlotOp.code : SlotOp → Nat
  | .mzero => 0x22 | .mldc => 0x23 | .mret => 0x24

/-- R52. -/
def slotOpOf (op : Nat) : SlotOp := if op = 0x22 then .mzero else if op = 0x23 then .mldc else .mret

/-- R289: SAT, MEM and DESC. -/
def slSat (r : SlotRec) : Bool := bitAt r.head.flags 0
/-- R289. -/
def slMem (r : SlotRec) : Bool := bitAt r.head.flags 2
/-- R289. -/
def slDesc (r : SlotRec) : Bool := bitAt r.head.flags 3
/-- R125: a rounding mode by its code. -/
def rndOf (n : BitVec 3) : Rnd :=
  if n = 1 then .rtz else if n = 2 then .rup else if n = 3 then .rdn else if n = 4 then .rna else .rne

/-- R289: the address of element (i, 0) of tile `t`, before the address arithmetic of memory wraps it. -/
def slRow (r : SlotRec) (t i : Nat) : Int :=
  (r.gva.toNat : Int) + nestDot (nestIndex r.n0 r.n1 r.n2 t) r.gi0 r.gi1 r.gi2 r.gi3 + (i : Int) * r.rs.toInt

/-- R289, R290: row 1. -/
def slRow1 (op : SlotOp) (r : SlotRec) : Bool :=
  let strides : List (BitVec 32) := [r.rs, r.gi0, r.gi1, r.gi2, r.gi3]
  bitAt r.head.flags 1 || decide (16 ≤ r.head.flags.toNat) || r.head.res != 0 || decide (5 ≤ r.head.waitsel.toNat) ||
  r.resA != 0 || r.resB != 0 || r.resC != 0 || r.acc == 3 || decide (5 ≤ r.rnd.toNat) || r.scale == 0x80 || !d0Ok r.fmt ||
  (op != .mret && slDesc r) || (!slMem r && fieldNat r.gva 19 45 != 0) ||
  (op == .mzero && (r.gva != 0 || r.fmt != 0 || r.scale != 0 || r.rnd != 0 || strides.any fun x => x != 0)) ||
  (op == .mret && r.fmt == 0) || (op == .mldc && r.fmt == 0 && r.scale != 0) ||
  (op == .mret && slDesc r && !bitAt r.fmt 7 && r.scale != 0)

/-- R290: row 6. -/
def slRow6 (op : SlotOp) (r : SlotRec) (es : Nat) : Option Word :=
  let strides : List (BitVec 32) := [r.rs, r.gi0, r.gi1, r.gi2, r.gi3]
  firstFail [
    failIf (op != .mzero && r.gva.toNat % es != 0) r.gva,
    failIf (op != .mzero && strides.any fun x => x.toNat % es != 0) 0,
    failIf (r.acc == 1 && (rangeFrom 0 (slotTiles r)).any fun t => tileSlot r t % 2 != 0) 0]

/-- R290: row 8: the first Canvas offset outside the allocation, row by row. -/
def slRow8 (op : SlotOp) (r : SlotRec) (es size : Nat) : Option Word :=
  if op = .mzero ∨ slMem r then none
  else (rangeFrom 0 (slotTiles r)).findSome? fun t => (rangeFrom 0 32).findSome? fun i => beyond size (slRow r t i) (32 * es)

/-- R290: rows 1, 2 and 5, which need no format. -/
def slEarly (op : SlotOp) (r : SlotRec) : Option (BitVec 8) :=
  firstFail [failIf (slRow1 op r) 1, failIf (slotTiles r == 0) 2, failIf (decide (2 ^ 18 < slotTiles r * 64)) 6]

/-- R290: rows 6 to 8. -/
def slLate (s : State) (u : Nat) (op : SlotOp) (r : SlotRec) (fmt : BitVec 8) : Option EFault :=
  let c := s.ctx u
  firstFail [
    (slRow6 op r (d0Bytes fmt)).map fun a => ⟨(cMISALIGN, 0), a⟩,
    failIf ((tileSlots r).any fun x => decide (x < 0) || decide ((c.accslots : Int) ≤ x)) ⟨(cBOUNDS, 9), 0⟩,
    (slRow8 op r (d0Bytes fmt) c.csize).map fun a => ⟨(cBOUNDS, 11), a⟩]

/-- What reading the first line of a from-line operand gives: its format, a retirement, or a fault for the shadow context. -/
inductive LineFmt where
  | fmt (f : BitVec 8)
  | retire (e : EFault)
  | halt (e : EFault)
  deriving DecidableEq, Repr

/-- R287, R290, R302: the format of the line that holds an operand's first element, in the Canvas or in memory. A poisoned, ill-formed or
untyped line retires the record; a memory line that cannot be reached is a fault met during a read. -/
def lineFmt (s : State) (u : Nat) (mode : BitVec 2) (mem : Bool) (o : Int) : State × LineFmt :=
  if mem then
    let va := BitVec.ofInt 64 o
    match engineRead s u mode false (lineVa va) 1 false with
    | (s, .error e) => (s, if e.cause.1 = cPOISON ∨ e.cause.1 = cMALFORMED then .retire e else .halt { e with addr := va })
    | (s, .ok (_, d)) => (s, if descD0 d = 0 then .retire ⟨(cMALFORMED, 0), lineVa va⟩ else .fmt (descD0 d))
  else
    match operandFmt s u 0 o fun d => d != 0 with
    | (s, .error e) => (s, .retire e)
    | (s, .ok f) => (s, .fmt f)

/-- The elements of a run from address `o` that stand in one line. -/
def inLine (o : Int) (es n : Nat) : Nat := min n ((64 - (o % 64).toNat) / es)

/-- R290, R300, R301: `n` elements from an address, line by line, with the scale each takes; lines are checked as they are read. -/
def readElems (u : Nat) (mode : BitVec 2) (mem down : Bool) (f : BitVec 8) (fromLine : Bool) :
    Nat → Int → Nat → State → State × Except EFault (List Val)
  | 0, _, _, s => (s, .ok [])
  | fuel + 1, o, n, s =>
    if n = 0 then (s, .ok [])
    else
      let es := d0Bytes f
      let m := inLine o es n
      let va : Word := BitVec.ofInt 64 o
      let line : State × Except EFault (List Byte × BitVec 16) :=
        if mem then engineRead s u mode down va (m * es) false
        else match canvasLine s u (o.toNat / 64) with
          | (s, .error e) => (s, .error e)
          | (s, .ok d) => (s, .ok (canvasBytes (s.core (coreOf u)) ((s.ctx u).cbase + o.toNat) (m * es), d))
      match line with
      | (s, .error e) => (s, .error e)
      | (s, .ok (bs, d)) =>
        if fromLine ∧ descD0 d ≠ f then (s, .error ⟨(cMALFORMED, 0), lineVa va⟩)
        else
          let scale := if fromLine then descScale d else 0
          let vs := (rangeFrom 0 m).map fun i => d0Val f scale (ofBytesNat ((bs.drop (i * es)).take es))
          match readElems u mode mem down f fromLine fuel (o + ((m * es : Nat) : Int)) (n - m) s with
          | (s, .ok l) => (s, .ok (vs ++ l))
          | (s, .error e) => (s, .error e)

/-- R290, R301: codes written from an address, line by line, with the descriptor each line takes. -/
def writeElems (u : Nat) (mode : BitVec 2) (mem down : Bool) (es : Nat) (desc : Option (BitVec 16)) :
    Nat → Int → List Nat → State → Flight → State × Flight × Option EFault
  | 0, _, _, s, f => (s, f, none)
  | fuel + 1, o, codes, s, f =>
    if codes.isEmpty then (s, f, none)
    else
      let m := inLine o es codes.length
      let bs := (codes.take m).flatMap fun c => toBytes (BitVec.ofNat 64 c) es
      let next := o + ((m * es : Nat) : Int)
      if mem then
        match engineWrite s u mode down (BitVec.ofInt 64 o) bs desc false with
        | (s, some e) => (s, f, some e)
        | (s, none) => writeElems u mode mem down es desc fuel next (codes.drop m) s f
      else
        let x := noteLine f.lines (o.toNat / 64) (byteMask o.toNat bs.length) 0
        let s := canvasPut s u o.toNat bs desc (x.2.mask == BitVec.allOnes 64)
        writeElems u mode mem down es desc fuel next (codes.drop m) s { f with lines := x.1 }

/-- The slots of row `i` of a tile, cleared of SAT. -/
def rowSat (k : Core) (acc : BitVec 2) (slot i : Nat) : Core := setSat k (if acc = 1 then slot + i / 16 else slot) false

/-- A row of accumulator codes. -/
def putRow (k : Core) (acc : BitVec 2) (slot i : Nat) (codes : List Nat) : Core :=
  rowSat ((rangeFrom 0 32).foldl (fun k j => accPut k acc slot i j (codes.getD j 0)) k) acc slot i

/-- R290: the descriptor MRET gives its lines. -/
def retDesc (r : SlotRec) : Option (BitVec 16) :=
  if slDesc r then some ((if bitAt r.fmt 7 then r.scale else 0) ++ r.fmt) else none

/-- R100, R290: what a row of MRET that met a fault at `at_` leaves: nothing written, but A and D of the pages its lines passed their checks
on, up to that one. -/
def rowMarks (s : State) (u : Nat) (mode : BitVec 2) (es : Nat) (o : Int) (at_ : Word) : State :=
  let vas := (rangeFrom 0 32).map fun j => BitVec.ofInt 64 (o + ((j * es : Nat) : Int))
  let firsts := vas.filter fun a => a == BitVec.ofInt 64 o || decide (a.toNat % 64 < es)
  (firsts.takeWhile fun a => decide (a.toNat / 64 ≤ at_.toNat / 64)).foldl (fun s a => (engineAccess s u mode .write false a false).1) s

/-- R290: row `i` of tile `t`; a row that meets a fault has written nothing. -/
def slotRow (s : State) (u : Nat) (op : SlotOp) (r : SlotRec) (f : Flight) (t i : Nat) : State × Flight × Option EFault :=
  let core := coreOf u
  let slot := (tileSlot r t).toNat
  let o := slRow r t i
  let fmt := f.fmts.headD r.fmt
  match op with
  | .mzero => (s.setCore core (putRow (s.core core) r.acc slot i []), f, none)
  | .mldc =>
    match readElems u f.mode (slMem r) false fmt (r.fmt == 0) 32 o 32 s with
    | (s, .error e) => (s, f, some e)
    | (s, .ok vs) =>
      let codes := vs.map fun v => d0Code (accFmt r.acc) (rndOf r.rnd) (slSat r) (scaleVal v r.scale.toInt)
      (s.setCore core (putRow (s.core core) r.acc slot i codes), f, none)
  | .mret =>
    let k := s.core core
    let codes := (rangeFrom 0 32).map fun j =>
      let v := scaleVal (d0Val (accFmt r.acc) 0 (accGet k r.acc slot i j)) (-r.scale.toInt)
      if r.scale = 0 then d0Convert (accFmt r.acc) fmt (rndOf r.rnd) (slSat r) v else d0Code fmt (rndOf r.rnd) (slSat r) v
    match writeElems u f.mode (slMem r) false (d0Bytes fmt) (retDesc r) 32 o codes s f with
    | (_, _, some e) => (if slMem r then rowMarks s u f.mode (d0Bytes fmt) o e.addr else s, f, some e)
    | (s1, f1, none) => (s1, f1, none)

/-- What a record whose rows or elements can fault needs to go on (R305): how many units must be debited before an ordinal is
performed, the price of a unit, and the effect of the next ordinal. -/
structure Work where
  need : Nat → Nat
  price : Nat → Nat
  elem : State → Flight → State × Flight × Option EFault

/-- R302, R305, R327: a record goes on from its ordinal: the unit that covers it is asked for, and the record waits until it is debited;
then the ordinal is performed. A fault halts the record; after the last ordinal its work is done. -/
def goOn (u : Nat) (w : Work) : Nat → State → Flight → State
  | 0, s, f => s.setCtx u ((s.ctx u).putFlight f)
  | n + 1, s, f =>
    if f.total ≤ f.done then s.setCtx u ((s.ctx u).putFlight { f with finished := true })
    else if w.need f.done ≤ f.paid then
      match w.elem s f with
      | (s, f, some e) => haltFlight s u f e
      | (s, f, none) => goOn u w n s { f with done := f.done + 1 }
    else if f.paid < f.asked then s.setCtx u ((s.ctx u).putFlight f)
    else
      let f := { f with units := [(1, w.price f.asked)], asked := f.asked + 1 }
      let s := askUnits (s.setCtx u ((s.ctx u).putFlight f)) (coreOf u) (u % 128) f
      match (s.ctx u).flight f.queue f.ordinal with
      | none => s
      | some f => if f.paid < f.asked then s else goOn u w n s f

/-- Steps enough for a record to end: its ordinals and its units. -/
def goFuel (w : Work) (f : Flight) : Nat := f.total + w.need f.total + 1

/-- R290, R305: the work of a slot record: a unit for each slot of an MZERO, for each tile of the others. -/
def slotWork (u : Nat) (op : SlotOp) (r : SlotRec) : Work where
  need n := if op = .mzero then n / 32 * accSlots r.acc + (if r.acc = 1 then n % 32 / 16 else 0) + 1 else n / 32 + 1
  price _ := if op = .mzero then 1 else 4 * accSlots r.acc
  elem s f := slotRow s u op r f (f.done / 32) (f.done % 32)

/-- R290, R302: a slot record goes on from its ordinal. -/
def slotGo (s : State) (u : Nat) (op : SlotOp) (r : SlotRec) (f : Flight) : State :=
  goOn u (slotWork u op r) (goFuel (slotWork u op r) f) s f

/-- R287, R290: a slot record that passed its checks starts. -/
def slotBegin (s : State) (u : Nat) (op : SlotOp) (r : SlotRec) (h : QHead) (fmt : BitVec 8) : State :=
  match slLate s u op r fmt with
  | some e => failMq s u h e.cause e.addr
  | none =>
    withSlots s u .mq h (tileSlots r) fun s =>
      let f : Flight := { bits := h.bits, queue := .mq, ordinal := h.ordinal, mode := h.mode, total := 32 * slotTiles r,
                          clocks := 64 * slotTiles r, fmts := [fmt] }
      slotGo (s.setCtx u (((s.ctx u).popHead .mq).putFlight f)) u op r f

/-- R287, R290: a slot record at the head of `%mq`. -/
def startSlot (s : State) (u : Nat) (op : SlotOp) (r : SlotRec) (h : QHead) : State :=
  startArray s u h fun s =>
    match slEarly op r with
    | some sub => failMq s u h (cQUEUE, sub) 0
    | none =>
      if op ≠ .mldc ∨ r.fmt ≠ 0 then slotBegin s u op r h r.fmt
      else
        match lineFmt s u h.mode (slMem r) (slRow r 0 0) with
        | (s, .fmt f) => slotBegin s u op r h f
        | (s, .retire e) => failMq s u h e.cause e.addr
        | (s, .halt e) => haltAtStart s u .mq h 0 0xFF e

/-- A slot record is executed where it stands at the head of `%mq` of the acting control context. -/
def slotRecord (op : SlotOp) (r : SlotRec) (s : State) : State :=
  match actingHead s .mq fun b => recOp b == op.code && slotRec b == r with
  | some h => startSlot s s.cur op r h
  | none => s

/-- R290: MZERO. -/
def execMzero (r : SlotRec) (s : State) : Out := .next (slotRecord .mzero r s)
/-- R290: MLDC. -/
def execMldc (r : SlotRec) (s : State) : Out := .next (slotRecord .mldc r s)
/-- R290: MRET. -/
def execMret (r : SlotRec) (s : State) : Out := .next (slotRecord .mret r s)

end Sys2Proof.Machine
end

