-- ==== Sys2Proof/Machine/Vector.lean ====
section
/-! DEFINITION. The vector engine: records VADD to VSEL (R300, R301). -/

namespace Sys2Proof.Machine

/-! ### Checks at record start (R301) -/

/-- R300: the fields of an operand are zero. -/
def vUnused (r : VecRec) : VOp → Bool
  | .y => r.fy == 0 && r.locy == 0 && r.y == 0 && r.sy == 0
  | .w => r.fw == 0 && r.locw == 0 && r.w == 0 && r.sw == 0
  | _ => true

/-- R287, R301: row 1. The format fields are D0 codes of R131, not R47's (log 50). -/
def vecRow1 (op : Nat) (r : VecRec) : Bool :=
  decide (2 ≤ r.head.flags.toNat) || r.head.res != 0 || decide (5 ≤ r.head.waitsel.toNat) || r.resA != 0 || r.resB != 0 || r.resC != 0 ||
  r.resD != 0 || decide (5 ≤ r.rnd.toNat) || r.locx == 3 || r.locz == 3 || !d0Ok r.fx || !d0Ok r.fy || !d0Ok r.fw || !d0Ok r.fz ||
  ([VOp.y, VOp.w].any fun o => !(vUses op).contains o && !vUnused r o) ||
  (if op = 0x4C then decide (8 ≤ r.misc.toNat) else if op = 0x4A then decide (3 ≤ r.misc.toNat) else false)

/-- R301: row 3. -/
def vecRow3 (op : Nat) (r : VecRec) : Bool :=
  r.fz == 0 || (vUses op).any fun o => vLoc r o == 2 && vFmt r o != 3 && vFmt r o != 4 && vFmt r o != 7

/-- The format in force of an operand: its own, or the one its first line gave. -/
def vFmtIn (fmts : List (BitVec 8)) (r : VecRec) : VOp → BitVec 8
  | .x => fmts.getD 0 r.fx | .y => fmts.getD 1 r.fy | .w => fmts.getD 2 r.fw | .z => r.fz

/-- R301: row 6, in field order. -/
def vecRow6 (op : Nat) (fmts : List (BitVec 8)) (r : VecRec) : Option Word :=
  let es (o : VOp) : Nat := d0Bytes (vFmtIn fmts r o)
  firstFail ((vUses op).map (fun o => failIf ((vBase r o).toNat % es o != 0) (vBase r o)) ++
    (vUses op).map fun o => failIf ((vStride r o).toNat % es o != 0) 0)

/-- The address of element (i, j) of an operand, before the address arithmetic of memory wraps it. -/
def vAddr (fmts : List (BitVec 8)) (r : VecRec) (o : VOp) (i j : Nat) : Int :=
  ((vBase r o).toNat : Int) + vOff r o i + ((j * d0Bytes (vFmtIn fmts r o) : Nat) : Int)

/-- R301: row 8: the first Canvas offset outside the allocation, operand by operand, row by row. -/
def vecRow8 (op : Nat) (fmts : List (BitVec 8)) (r : VecRec) (size : Nat) : Option Word :=
  (vUses op).findSome? fun o =>
    if vLoc r o ≠ 0 then none
    else (rangeFrom 0 r.n1.toNat).findSome? fun i => beyond size (vAddr fmts r o i 0) (vRow op r o * d0Bytes (vFmtIn fmts r o))

/-- R301: rows 1 to 3, which need no line. -/
def vecEarly (op : Nat) (r : VecRec) : Option (BitVec 8) :=
  firstFail [failIf (vecRow1 op r) 1, failIf (r.n0 == 0 || r.n1 == 0) 2, failIf (vecRow3 op r) 4]

/-- R301: rows 5 to 8. -/
def vecLate (s : State) (u : Nat) (op : Nat) (fmts : List (BitVec 8)) (r : VecRec) : Option EFault :=
  let c := s.ctx u
  firstFail [
    failIf (decide (2 ^ 24 < r.n0.toNat * r.n1.toNat)) ⟨(cQUEUE, 6), 0⟩,
    (vecRow6 op fmts r).map fun a => ⟨(cMISALIGN, 0), a⟩,
    failIf ((vecSlots op r).any fun x => decide (x < 0) || decide ((c.accslots : Int) ≤ x)) ⟨(cBOUNDS, 9), 0⟩,
    (vecRow8 op fmts r c.csize).map fun a => ⟨(cBOUNDS, 11), a⟩]

/-! ### Elements (R301) -/

/-- R301: an operand's element value; its line is checked as it is read. -/
def vecRead (s : State) (u : Nat) (mode : BitVec 2) (fmts : List (BitVec 8)) (r : VecRec) (o : VOp) (i j : Nat) :
    State × Except EFault Val :=
  let f := vFmtIn fmts r o
  let a := vAddr fmts r o i j
  if vLoc r o = 2 then (s, .ok (d0Val f 0 (ofBytesNat (slotBytes (s.core (coreOf u)) a.toNat (d0Bytes f)))))
  else
    match readElems u mode (vLoc r o == 1) false f (vFmt r o == 0) 1 a 1 s with
    | (s, .ok l) => (s, .ok (l.headD .nan))
    | (s, .error e) => (s, .error e)

/-- The values of the sources an operation uses, in the order X, Y, W. -/
def vecReads (u : Nat) (mode : BitVec 2) (fmts : List (BitVec 8)) (r : VecRec) (i j : Nat) :
    List VOp → State → State × Except EFault (List Val)
  | [], s => (s, .ok [])
  | o :: os, s =>
    match vecRead s u mode fmts r o i j with
    | (s, .error e) => (s, .error e)
    | (s, .ok v) =>
      match vecReads u mode fmts r i j os s with
      | (s, .ok l) => (s, .ok (v :: l))
      | (s, .error e) => (s, .error e)

/-- R267, R268, R301: an `f32` approximation of x. -/
def vecApprox (a : ApproxOp) (m : Rnd) (x : Val) : Val := decodeFmt f32Fmt (approxCode a f32Fmt (encodeFmt f32Fmt m false x))

/-- R45: a condition by its code. -/
def condOf (n : BitVec 4) : Cond :=
  if n = 0 then .eq else if n = 1 then .ne else if n = 2 then .lt else if n = 3 then .le else if n = 4 then .gt else if n = 5 then .ge
  else if n = 6 then .un else .or

/-- R301: the exact result of an element. -/
def vecValue (op : Nat) (r : VecRec) (x y w : Val) : Val :=
  let m := rndOf r.rnd
  if op = 0x40 then addVal m x y
  else if op = 0x41 then addVal m x (negVal y)
  else if op = 0x42 then mulVal x y
  else if op = 0x43 then addVal m (mulVal x y) w
  else if op = 0x44 then maxVal x y
  else if op = 0x45 then minVal x y
  else if op = 0x46 then vecApprox .ex2 m x
  else if op = 0x47 then vecApprox .rcp m x
  else if op = 0x48 then vecApprox .rsq m x
  else if op = 0x4B then scaleVal x r.e.toInt
  else if op = 0x4C then ofInt (if condFloat (condOf r.misc) x y then 1 else 0)
  else if op = 0x4D then (match w with
    | .fin _ 0 _ => y
    | _ => x)
  else x

/-- R277, R301: integers add modulo 2^w, unless SAT names saturation (log 39). -/
def redWraps (src : BitVec 8) (r : VecRec) : Bool :=
  (d0Fmt src).isNone && (d0Fmt r.fz).isNone && r.misc == 0 && !bitAt r.head.flags 0

/-- R277, R301: a step of VRED on elements of format `src`, rounded to `fz`; the first value of a row is taken as it is. -/
def redStep (src : BitVec 8) (r : VecRec) (acc : Option Val) (x : Val) : Val :=
  let m := rndOf r.rnd
  match acc with
  | none => x
  | some a =>
    let v := if r.misc = 0 then addVal m a x else if r.misc = 1 then minVal a x else maxVal a x
    d0Val r.fz 0 (if redWraps src r then wrapInt (d0Int r.fz).2 (valToInt m true 64 v) else d0Convert src r.fz m (bitAt r.head.flags 0) v)

/-- R301, R128: the code of a result; VCVT, and VRED of a single element, convert an element of X's format. -/
def vecCode (op : Nat) (fmts : List (BitVec 8)) (r : VecRec) (v : Val) : Nat :=
  if op = 0x49 ∨ op = 0x4A then d0Convert (vFmtIn fmts r .x) r.fz (rndOf r.rnd) (bitAt r.head.flags 0) v
  else d0Code r.fz (rndOf r.rnd) (bitAt r.head.flags 0) v

/-- R301: a result written to Z; its line takes the descriptor (`fz`, 0x00). The rows of a VRED are its innermost level in Z (R104). -/
def vecWrite (s : State) (u : Nat) (mode : BitVec 2) (op : Nat) (r : VecRec) (i j code : Nat) : State × Option EFault :=
  let core := coreOf u
  let es := d0Bytes r.fz
  let a := vAddr [] r .z i j
  let bs := toBytes (BitVec.ofNat 64 code) es
  if vLoc r .z = 2 then (s.setCore core (putSlots (s.core core) a.toNat bs), none)
  else if vLoc r .z = 1 then engineWrite s u mode (op == 0x4A && r.sz.msb) (BitVec.ofInt 64 a) bs (some (r.fz.setWidth 16)) false
  else (canvasPut s u a.toNat bs (some (r.fz.setWidth 16)) false, none)

/-- R301: the element of ordinal `f.done`. -/
def vecElem (s : State) (u : Nat) (op : Nat) (r : VecRec) (f : Flight) : State × Flight × Option EFault :=
  let i := f.done / r.n0.toNat
  let j := f.done % r.n0.toNat
  match vecReads u f.mode f.fmts r i j ((vUses op).filter fun o => o != .z) s with
  | (s, .error e) => (s, f, some e)
  | (s, .ok vs) =>
    let x := vs.getD 0 .nan
    if op = 0x4A then
      let a := redStep (vFmtIn f.fmts r .x) r (if j = 0 then none else f.acc) x
      if j + 1 < r.n0.toNat then (s, { f with acc := some a }, none)
      else
        match vecWrite s u f.mode op r i 0 (vecCode op f.fmts r a) with
        | (s, some e) => (s, f, some e)
        | (s, none) => (s, { f with acc := none }, none)
    else
      match vecWrite s u f.mode op r i j (vecCode op f.fmts r (vecValue op r x (vs.getD 1 .nan) (vs.getD 2 .nan))) with
      | (s, e) => (s, f, e)

/-- R305: the price of a unit of 256 elements. -/
def vecPrice (op : Nat) (fmts : List (BitVec 8)) (r : VecRec) : Nat :=
  let base := if 0x46 ≤ op ∧ op ≤ 0x48 then 3 else 1
  if (vUses op).any fun o => vFmtIn fmts r o == 4 then 2 * base else base

/-- R301, R305: the work of a vector record: a unit for each 256 elements of a row, or part of 256. -/
def vecWork (u op : Nat) (fmts : List (BitVec 8)) (r : VecRec) : Work where
  need n := n / r.n0.toNat * ceilDiv r.n0.toNat 256 + n % r.n0.toNat / 256 + 1
  price _ := vecPrice op fmts r
  elem s f := vecElem s u op r f

/-- R302: a vector record goes on from its ordinal. -/
def vecGo (s : State) (u : Nat) (op : Nat) (r : VecRec) (f : Flight) : State :=
  goOn u (vecWork u op f.fmts r) (goFuel (vecWork u op f.fmts r) f) s f

/-- R301: the formats of the sources: those under "from line" from their first lines. -/
def vecFmts (u : Nat) (mode : BitVec 2) (op : Nat) (r : VecRec) : List VOp → State → State × Except (Bool × EFault) (List (BitVec 8))
  | [], s => (s, .ok [])
  | o :: os, s =>
    let here : State × LineFmt :=
      if vFmt r o ≠ 0 ∨ !(vUses op).contains o then (s, .fmt (vFmt r o))
      else lineFmt s u mode (vLoc r o == 1) ((vBase r o).toNat : Int)
    match here with
    | (s, .retire e) => (s, .error (false, e))
    | (s, .halt e) => (s, .error (true, e))
    | (s, .fmt f) =>
      match vecFmts u mode op r os s with
      | (s, .ok l) => (s, .ok (f :: l))
      | (s, .error e) => (s, .error e)

/-- R292, R296, R301: a vector record that passed its checks starts; one that names a slot held in the array waits for its write-back. -/
def vecBegin (s : State) (u : Nat) (op : Nat) (r : VecRec) (h : QHead) (fmts : List (BitVec 8)) : State :=
  let slots := vecSlots op r
  if slots.any fun x => Sparse.get (fun _ => false) (s.core (coreOf u)).held x.toNat then s
  else
    withSlots s u .vq h slots fun s =>
      let f : Flight := { bits := h.bits, queue := .vq, ordinal := h.ordinal, mode := h.mode, total := r.n0.toNat * r.n1.toNat, fmts := fmts }
      vecGo (s.setCtx u (((s.ctx u).popHead .vq).putFlight f)) u op r f

/-- R301: a vector record at the head of `%vq`. -/
def startVec (s : State) (u : Nat) (op : Nat) (r : VecRec) (h : QHead) : State :=
  let core := coreOf u
  let c := s.ctx u
  if selfWait .vq h then retireAtStart s u .vq h (cQUEUE, 5) 0
  else if c.draining || !waitOver c h.bits || clocksHeld s core || !(runningOf s core .vq).isEmpty || decide (4 ≤ (c.inFlight .vq).length) then s
  else
    let s := settleArray s core
    match vecEarly op r with
    | some sub => retireAtStart s u .vq h (cQUEUE, sub) 0
    | none =>
      match vecFmts u h.mode op r [.x, .y, .w] s with
      | (s, .error (false, e)) => retireAtStart s u .vq h e.cause e.addr
      | (s, .error (true, e)) => haltAtStart s u .vq h 0 0xFF e
      | (s, .ok fmts) =>
        match vecLate s u op fmts r with
        | some e => retireAtStart s u .vq h e.cause e.addr
        | none => vecBegin s u op r h fmts

/-- A vector record is executed where it stands at the head of `%vq` of the acting control context. -/
def vecRecord (op : Nat) (r : VecRec) (s : State) : State :=
  match actingHead s .vq fun b => recOp b == op && vecRec b == r with
  | some h => startVec s s.cur op r h
  | none => s

/-- R301: VADD. -/
def execVadd (r : VecRec) (s : State) : Out := .next (vecRecord 0x40 r s)
/-- R301: VSUB. -/
def execVsub (r : VecRec) (s : State) : Out := .next (vecRecord 0x41 r s)
/-- R301: VMUL. -/
def execVmul (r : VecRec) (s : State) : Out := .next (vecRecord 0x42 r s)
/-- R301: VFMA. -/
def execVfma (r : VecRec) (s : State) : Out := .next (vecRecord 0x43 r s)
/-- R301: VMAX. -/
def execVmax (r : VecRec) (s : State) : Out := .next (vecRecord 0x44 r s)
/-- R301: VMIN. -/
def execVmin (r : VecRec) (s : State) : Out := .next (vecRecord 0x45 r s)
/-- R301: VEXP. -/
def execVexp (r : VecRec) (s : State) : Out := .next (vecRecord 0x46 r s)
/-- R301: VRCP. -/
def execVrcp (r : VecRec) (s : State) : Out := .next (vecRecord 0x47 r s)
/-- R301: VRSQ. -/
def execVrsq (r : VecRec) (s : State) : Out := .next (vecRecord 0x48 r s)
/-- R301: VCVT. -/
def execVcvt (r : VecRec) (s : State) : Out := .next (vecRecord 0x49 r s)
/-- R301: VRED. -/
def execVred (r : VecRec) (s : State) : Out := .next (vecRecord 0x4A r s)
/-- R301: VSCALE. -/
def execVscale (r : VecRec) (s : State) : Out := .next (vecRecord 0x4B r s)
/-- R301: VCMP. -/
def execVcmp (r : VecRec) (s : State) : Out := .next (vecRecord 0x4C r s)
/-- R301: VSEL. -/
def execVsel (r : VecRec) (s : State) : Out := .next (vecRecord 0x4D r s)

end Sys2Proof.Machine
end

