-- ==== Sys2Proof/Machine/Shadow.lean ====
section
/-! DEFINITION. ERET, and with it the end of a service of the shadow context (R253, R186, R302, R408); the completion of engine records
and late errors of their writes (R171, R302, R303). -/

namespace Sys2Proof.Machine

/-- R302: the record held at its start at the head of a queue is tried again from there, as though no clock had been held: also where
its context has come to drain meanwhile (R373). -/
def startAgain (s : State) (u : Nat) (q : EQueue) (b : Rec512) : State :=
  let draining := (s.ctx u).draining
  let begin (s : State) (h : QHead) : State := if q = .vq then startVec s u (recOp b) (vecRec b) h
    else if recOp b = 0x20 ∨ recOp b = 0x21 then startMat s u (recOp b == 0x21) (matRec b) h
    else startSlot s u (slotOpOf (recOp b)) (slotRec b) h
  match headRecord (s.ctx u) q with
  | none => s
  | some h =>
    if h.bits ≠ b then s
    else
      let s := begin (s.setCtx u { s.ctx u with draining := false }) h
      s.setCtx u { s.ctx u with draining := draining }

/-- A matrix, slot or vector record goes on as far as its units are debited. -/
def advanceFlight (s : State) (u : Nat) (f : Flight) : State :=
  let op := recOp f.bits
  if f.queue = .vq then vecGo s u op (vecRec f.bits) f
  else if op = 0x20 ∨ op = 0x21 then matGo s u (op == 0x21) (matRec f.bits) f
  else slotGo s u (slotOpOf op) (slotRec f.bits) f

/-- R186, R302: a record goes on where it halted: a copy lands its further elements, a slot or vector record makes the failing access
again. -/
def resumeFlight (s : State) (u : Nat) (f : Flight) : State :=
  let g := { f with halted := false, cause := 0, sub := 0, faddr := 0 }
  let b := f.bits
  if f.atStart then startAgain (s.setCtx u ((s.ctx u).dropFlight f)) u f.queue b
  else
    let s := s.setCtx u ((s.ctx u).putFlight g)
    if f.queue = .mq ∨ f.queue = .vq then advanceFlight s u g else askUnits s (coreOf u) (u % 128) g

/-- The array clocks a record has taken. -/
def clocksTaken (f : Flight) : Nat := if f.done = f.total then f.clocks else 2 * f.done

/-- R302: a record that has done all its work retires with the first address whose write was answered with an error, if there is one. -/
def Flight.withLate (f : Flight) : Flight :=
  match f.late with
  | some a => if f.cause = 0 then { f with cause := cFABRIC, faddr := a } else f
  | none => f

/-- R171, R296, R303: an engine record that has done its work, or is given up, retires. -/
def completeFlight (s : State) (u : Nat) (f : Flight) : State :=
  let f := f.withLate
  let s := if f.queue = .mq ∧ !f.posting then recordEnd s (coreOf u) (u % 128) f.bits (clocksTaken f) else s
  retireFlight s u f

/-- R187, R303: a halted record is unrecoverable: it retires with the handler's cause. -/
def giveUp (s : State) (u : Nat) (f : Flight) (code : BitVec 8) : State :=
  let g := { f with halted := false, cause := code, finished := true }
  if f.queue = .lq ∨ f.queue = .sq then retireFlight s u g
  else if f.atStart then
    let g := { g with atStart := false }
    completeFlight (s.setCtx u (((s.ctx u).popHead f.queue).putFlight g)) u g
  else completeFlight s u g

/-- R302, R378: does a fault wait for a shadow context that is idle? So it does after a reset has abandoned the service before it. -/
def faultWaits (s : State) (u : Nat) : Bool := kindOf u == .shadow && !(s.ctx u).live && (s.core (coreOf u)).faultq.any (mayServe s)

/-- R302: the shadow context of a core takes up the fault that waits longest, of those it may. -/
def takeFault (s : State) (core : Nat) : State := serveFaults s core none ((s.core core).faultq.length + 1)

/-- R253, R186, R302, R408: the service of the shadow context ends: it is idle, the record resumes or retires, and the next fault that
waits is taken up. -/
def endService (s : State) (e : EngineRef) (ord : Nat) : State :=
  let me := s.cur
  let c := s.me
  let code : BitVec 8 := field (c.exc c.mode).cause 0 8
  let s := tickLease (s.setCtx me { leaveCtx c with live := false, serving := none }) e.core
  let u := unitId e.core e.ctx
  let s := match (s.ctx u).flight e.queue ord with
    | none => s
    | some f => if !f.halted then s else if code = 0 then resumeFlight s u f else giveUp s u f code
  takeFault s e.core

/-- R253: ERET. -/
def execEret (s : State) : Out :=
  .next (
    let c := s.me
    let t := (c.exc c.mode).epc
    if c.mode = 0 then trapS s (cPRIV, 0) 0
    else if t.toNat % 8 ≠ 0 then trapS s (cMISALIGN, 0) t
    else
      match c.serving with
      | some (e, ord) => endService s e ord
      | none => s.setMe (leaveCtx c))

/-- R327: the record of a queue that is at work, once units it waited for have been debited, goes on. -/
def advanceQueue (s : State) (u : Nat) (q : EQueue) : State :=
  if (q ≠ .mq ∧ q ≠ .vq) ∨ clocksHeld s (coreOf u) then s
  else
    match (s.ctx u).flights.find? fun f => f.queue == q && !f.finished && !f.halted && !f.atStart && !f.posting with
    | some f => advanceFlight s u f
    | none => s

/-- The first record of a queue that only has to retire. -/
def completable (s : State) (u : Nat) (q : EQueue) : Option Flight :=
  (s.ctx u).flights.find? fun f =>
    f.queue == q && f.finished && f.units.isEmpty && !f.halted && !f.atStart &&
    !((q == .mq || q == .vq) && clocksHeld s (coreOf u))

/-- R171, R173, R303: a matrix, slot or vector record does what its debited units cover, and retires once all its work is done; so does
any record that waited for room in `%oq`. -/
def execEngineRecordCompletion (e : EngineRef) (s : State) : Out :=
  .next (
    let u := unitId e.core e.ctx
    if kindOf u ≠ .ctl ∨ !(s.ctx u).live then s
    else
      let s := advanceQueue s u e.queue
      match completable s u e.queue with
      | some f => completeFlight s u f
      | none => s)

/-- R302: does a record write memory? -/
def writesMemory (f : Flight) : Bool :=
  (f.queue == .mq && recOp f.bits == 0x24 && slMem (slotRec f.bits)) || (f.queue == .vq && (vecRec f.bits).locz == 1)

/-- R302, R303: an error completion answers a write that its engine has moved past: the record retires with the first such address at its
end, though it halts on another fault meanwhile. -/
def execEngineLateError (e : EngineRef) (addr : Word) (s : State) : Out :=
  .next (
    let u := unitId e.core e.ctx
    if kindOf u ≠ .ctl ∨ !(s.ctx u).live then s
    else
      match (s.ctx u).flights.find? fun f => f.queue == e.queue && writesMemory f && !f.atStart && !f.posting && f.late.isNone with
      | some f => s.setCtx u ((s.ctx u).putFlight { f with late := some addr })
      | none => s)

end Sys2Proof.Machine
end

