-- ==== Sys2Proof/Machine/Packets.lean ====
section
/-! DEFINITION. The Shepherd's packets: their checks (R311), the choice among queues (R312, R342), the four packet types (R311, R412), and
the placement of members (R315, R343, R345). -/

namespace Sys2Proof.Machine

/-! ### The kernel header (R70) and the checks of a packet (R311) -/

/-- The words of a kernel header; none where the partition's translation cannot read them. -/
def kernelHeader (s : State) (p : Nat) (a : Word) : State × Option (List Word) :=
  if 2 ^ 64 < a.toNat + 128 then (s, none)
  else
    match shepherdRead s p a 16 with
    | (s, .ok ws) => (s, some ws)
    | (s, .error _) => (s, none)

/-- LANES. -/
def hdLanes (h : List Word) : Nat := fieldNat (h.getD 0 0) 32 2
/-- VREGS. -/
def hdVregs (h : List Word) : Nat := fieldNat (h.getD 1 0) 0 10
/-- SHARED. -/
def hdShared (h : List Word) : Nat := fieldNat (h.getD 1 0) 32 32
/-- CANVAS. -/
def hdCanvas (h : List Word) : Nat := fieldNat (h.getD 2 0) 0 32
/-- ACCSLOTS. -/
def hdAccslots (h : List Word) : Nat := fieldNat (h.getD 2 0) 32 16
/-- ENTRY of a class. -/
def hdEntry (h : List Word) (code : Nat) : Word := h.getD (3 + code) 0
/-- LIVE of a class. -/
def hdLive (h : List Word) (code : Nat) : Word := h.getD (6 + code) 0

/-- Must-be-zero bits that every packet has. -/
def pkCommonMbz (p : Rec512) : Bool := fieldNat p 22 10 != 0 || fieldNat p 49 15 != 0 || fieldNat p 448 64 != 0

/-- Must-be-zero bits of a dispatch packet. -/
def pkDispatchMbz (p : Rec512) : Bool :=
  fieldNat p 116 12 != 0 || fieldNat p 138 6 != 0 || fieldNat p 164 4 != 0 || fieldNat p 187 5 != 0 || fieldNat p 204 52 != 0

/-- R311: a scope entry that the partition's table gives no valid bitmap. -/
def scopeInvalid (s : State) (p n : Nat) : State × Bool :=
  if n < 8 then (s, false)
  else
    match tableScope s p n 0 with
    | (s, e) => (s, !bitAt e.reg 0)

/-- R311: the fields of a class out of range or below the header's. -/
def classRefused (p : Rec512) (h : List Word) : Bool :=
  if pkCode p = 1 then
    !between 1 32 (pkPacks p) || !between (pkPacks p) 32 (pkMax p) || decide (16 < pkCohort p) || !between 16 512 (pkVregs p) ||
    decide (524288 < pkShared p) || decide (pkVregs p < hdVregs h) || decide (pkShared p < hdShared h) ||
    (pkCohort p != 0 && pkX p * pkY p * pkZ p % pkCohort p != 0) ||
    decide ((if hdLanes h = 1 then 16384 else 8192) < pkMax p * allocOf (pkVregs p))
  else if pkCode p = 2 then
    decide (393216 < pkCanvas p) || decide (2048 < pkAccslots p) || decide (pkCanvas p < hdCanvas h) || decide (pkAccslots p < hdAccslots h)
  else false

/-- R395: cohorts need feature 5 in a guest's partition. -/
def cohortRefused (s : State) (p : Nat) (pk : Rec512) : Bool :=
  pGuest s p && pkType pk == 0 && pkCode pk == 1 && pkCohort pk != 0 &&
  (!bitAt (s.hubR 0x240) 5 || !bitAt (s.hubR (pBase p + 0x40)) 5)

/-- R395: the guest's mask alone refuses cohorts: MASKCNT rises. -/
def cohortCount (s : State) (p : Nat) (pk : Rec512) : State :=
  if cohortRefused s p pk && bitAt (s.hubR 0x240) 5 then setHubF s (pBase p + 0x28) 0 32 (min (hubF s (pBase p + 0x28) 0 32 + 1) 0xFFFFFFFF)
  else s

/-- R311, R395: is the packet of a partition refused? For a dispatch packet, also its header. -/
def packetCheck (s : State) (p : Nat) (pk : Rec512) : State × Bool × List Word :=
  if pkCommonMbz pk || decide (4 ≤ pkType pk) then (s, true, [])
  else
  let a := scopeInvalid s p (pkAcq pk)
  let r := scopeInvalid a.1 p (pkRel pk)
  let s := r.1
  if a.2 || r.2 then (s, true, [])
  else if pkType pk ≠ 0 then (s, false, [])
  else if pkDispatchMbz pk || decide (3 ≤ pkCode pk) || pkX pk == 0 || pkY pk == 0 || pkZ pk == 0 || (pkKernel pk).toNat % 64 != 0 then
    (s, true, [])
  else
    match kernelHeader s p (pkKernel pk) with
    | (s, none) => (s, true, [])
    | (s, some h) => (s, hdEntry h (pkCode pk) == 0 || classRefused pk h || cohortRefused s p pk, h)

/-! ### Candidates (R312, R342) -/

/-- The best of some packets: the highest priority, the earliest on a tie. -/
def bestPacket : List Waiting → Option Waiting
  | [] => none
  | w :: r =>
    match bestPacket r with
    | none => some w
    | some v => if pkPrio w.packet < pkPrio v.packet then some v else some w

/-- Has every earlier packet of a queue completed, those that have started among them? -/
def queueIdle (s : State) (q : Nat) : Bool := ((started s).all fun x => x.2.queue != q) && s.depWait.all fun x => x.1 != q

/-- R312, R311: the packet a queue would start next. One with `barrier` set starts only when every earlier one has completed; it is checked,
and refused, at the head of its queue. -/
def candidate (s : State) (q : Nat) : Option Waiting :=
  match s.queue q with
  | [] => none
  | w :: r =>
    if pkBarrier w.packet then (if queueIdle s q || (packetCheck s (queuePart s q) w.packet).2.1 then some w else none)
    else bestPacket ((w :: r).takeWhile fun x => !pkBarrier x.packet)

/-- R310, R313: the launch a checked dispatch packet starts. A reserved LANES code, 2 or 3, runs 64-thread packs, and reserved bits of the
header are not looked at: R70 does not say what the Shepherd makes of them (log 48). -/
def launchOf (s : State) (q : Nat) (w : Waiting) (h : List Word) : Launch :=
  let pk := w.packet
  { queue := q, packet := pk, part := queuePart s q, code := pkCode pk, narrow := hdLanes h == 1, entry := hdEntry h (pkCode pk),
    live := hdLive h (pkCode pk), members := pkX pk * pkY pk * pkZ pk, start := s.cycles, noDefer := w.noDefer, seq := s.nextId }

/-- R311, R312, R342: the state in which a queue's candidate has started; none where it cannot start now, or is refused. -/
def startCandidate (s : State) (q : Nat) (w : Waiting) : Option State :=
  let p := queuePart s q
  if !mayPlace s p then none
  else
    match packetCheck s p w.packet with
    | (_, true, _) => none
    | (s, false, h) =>
      let s := s.setQueue q ((s.queue q).filter fun v => v.seq != w.seq)
      if pkType w.packet ≠ 0 then some { s with depWait := s.depWait ++ [(q, w)] }
      else
        let l := s.nextId
        let x := launchOf s q w h
        let s := { s.setLaunch l (some x) with nextId := l + 1 }
        if earlierFirst s x then none else placeNext s l x

/-- R342: where a queue stands in the round robin of its candidate's priority. -/
def rrDistance (s : State) (e q : Nat) : Nat := (q + 1023 - Sparse.get (fun _ => 1023) s.rrPtr e) % 1024

/-- R342: is a queue's candidate the one the Shepherd starts now? -/
def chosen (s : State) (q : Nat) (w : Waiting) : Bool :=
  let e := effPrio s q w.packet
  s.queues.all fun x =>
    x.1 == q ||
    (match candidate s x.1 with
      | none => true
      | some v =>
        let f := effPrio s x.1 v.packet
        decide (f < e) || (f == e && decide (rrDistance s e q < rrDistance s e x.1)) || (startCandidate s x.1 v).isNone)

/-- R311: a refused packet runs nothing: its signal is decremented and a completion event carries QUEUE. -/
def refusePacket (s : State) (q : Nat) (w : Waiting) : State :=
  let p := queuePart s q
  let s := cohortCount (s.setQueue q ((s.queue q).filter fun v => v.seq != w.seq)) p w.packet
  presentEvent (decrementSignal s p (pkSignal w.packet)) 1 0 cQUEUE (some p) q (pkSignal w.packet)

/-- R345: a candidate that FLOOR alone keeps back begins its wait. -/
def deferPacket (s : State) (q : Nat) (w : Waiting) : State :=
  if w.deferredSince.isNone ∧ (startCandidate s q { w with noDefer := true }).isSome then
    s.setQueue q ((s.queue q).map fun v => if v.seq = w.seq then { v with deferredSince := some s.cycles } else v)
  else s

/-- R311, R312, R342: the packet at the head of its queue is checked, and is refused, starts, or waits; `go` goes on with one that has started. -/
def packetStep (s : State) (q : Nat) (p : Rec512) (ok : Nat → Bool) (go : State → Waiting → State) : State :=
  match candidate s q with
  | none => s
  | some w =>
    if w.packet ≠ p ∨ !ok (pkType p) ∨ !mayPlace s (queuePart s q) then s
    else if (packetCheck s (queuePart s q) p).2.1 then refusePacket (packetCheck s (queuePart s q) p).1 q w
    else
      match startCandidate s q w with
      | none => deferPacket (packetCheck s (queuePart s q) p).1 q w
      | some t => if chosen s q w then go { t with rrPtr := Sparse.set t.rrPtr (effPrio s q p) q } w else s

/-- R310 to R313: a dispatch packet; a reserved type is refused with it. -/
def execDispatchPacket (q : Nat) (p : Rec512) (s : State) : Out :=
  .next (packetStep s q p (fun t => t == 0 || decide (4 ≤ t)) fun s _ => s)

/-! ### Barrier and signal packets (R311, R412) -/

/-- The DEP entries in use. -/
def depsUsed (p : Rec512) : List Nat := (rangeFrom 0 5).filter fun i => pkDep p i != 0

/-- R311: is a started barrier or signal packet done but for its release? -/
def depsDone (w : Waiting) : Bool :=
  let zero (i : Nat) : Bool := w.depZero.contains i || w.depFailed.contains i
  if pkType w.packet = 3 then true
  else if pkType w.packet = 1 then (depsUsed w.packet).all zero
  else (depsUsed w.packet).any zero

/-- R311, R212, R214: a packet that is done releases at `relscope`, decrements its signal and completes. -/
def finishPacket (s : State) (x : Nat × Waiting) : State :=
  let pk := x.2.packet
  if !depsDone x.2 || (systemScope (pkRel pk) && !acknowledged s) then s
  else
    let p := queuePart s x.1
    let s := decrementSignal { s with depWait := s.depWait.filter fun y => y.2.seq != x.2.seq } p (pkSignal pk)
    presentEvent s 1 0 0 (some p) x.1 (pkSignal pk)

/-- R212, R214: releases that waited for acknowledgements are looked at again. -/
def settleReleases (s : State) : State :=
  let s := (started s).foldl (fun s x => tryComplete s x.1) s
  s.depWait.foldl finishPacket s

/-- R311, R412: reads DEP `i` of a started packet; a failure is reported once for its address, and counts as 0 from then on. -/
def readDep (s : State) (q : Nat) (w : Waiting) (i : Nat) : State × Waiting :=
  let p := queuePart s q
  let a := pkDep w.packet i
  let fail (s : State) (c : BitVec 8) : State × Waiting :=
    let known := w.depFailed.any fun j => pkDep w.packet j == a
    (if known then s else presentEvent s 4 0 c (some p) 0 a, { w with depFailed := i :: w.depFailed })
  if a = 0 ∨ w.depFailed.contains i then (s, w)
  else if a.toNat % 8 ≠ 0 then fail s cMISALIGN
  else
    match shepherdRead s p a 1 with
    | (s, .error c) => fail s c.1
    | (s, .ok ws) =>
      let rest := w.depZero.filter fun j => j != i
      (s, { w with depZero := if ws.headD 1 = 0 then i :: rest else rest })

/-- Replaces a started packet by what is now known of its signals. -/
def putDep (s : State) (q : Nat) (w : Waiting) : State :=
  { s with depWait := s.depWait.map fun y => if y.2.seq = w.seq then (q, w) else y }

/-- Reads DEP entries of a started packet, then completes it if it is done. -/
def readDeps (q : Nat) : List Nat → State → Waiting → State
  | [], s, w => finishPacket (putDep s q w) (q, w)
  | i :: r, s, w => readDeps q r (readDep s q w i).1 (readDep s q w i).2

/-- R311: a barrier-and packet. -/
def execBarrierAndPacket (q : Nat) (p : Rec512) (s : State) : Out :=
  .next (packetStep s q p (fun t => t == 1) fun s w => readDeps q (rangeFrom 0 5) s w)
/-- R311: a barrier-or packet. -/
def execBarrierOrPacket (q : Nat) (p : Rec512) (s : State) : Out :=
  .next (packetStep s q p (fun t => t == 2) fun s w => readDeps q (rangeFrom 0 5) s w)
/-- R311: a signal packet completes at once. -/
def execSignalPacket (q : Nat) (p : Rec512) (s : State) : Out :=
  .next (packetStep s q p (fun t => t == 3) fun s w => finishPacket s (q, w))

/-- R311: the value of a DEP signal may have changed, and the Shepherd reads it: entry `i % 5` of the `i / 5`-th started packet of a queue. -/
def execDepSignalRead (q i : Nat) (s : State) : Out :=
  .next (
    match ((s.depWait.filter fun x => x.1 == q && pkType x.2.packet != 3).drop (i / 5)).head? with
    | none => s
    | some x => readDeps q [i % 5] s x.2)

/-! ### Members (R315, R343, R345) -/

/-- R315, R343, R345: the next member, or cohort, of a started launch is placed; one that FLOOR alone keeps back begins its wait. -/
def execMemberPlacement (launch : Nat) (s : State) : Out :=
  .next (
    match s.launch launch with
    | none => s
    | some x =>
      if earlierFirst s x then s
      else
        match placeNext s launch x with
        | some t => t
        | none =>
          if x.deferredSince.isNone ∧ (placeNext s launch { x with noDefer := true }).isSome then
            s.setLaunch launch (some { x with deferredSince := some s.cycles })
          else s)

/-- 10 ms in hub cycles (R345). -/
def deferLimit : Nat := 20000000

/-- R345: 10 ms after its first deferral a member is placed with no regard to SHORT: of a started launch, or of a packet that waits, each
by the number it was given. -/
def execFloorDeferTimeout (launch : Nat) (s : State) : Out :=
  .next (
    match s.launch launch with
    | some x =>
      (match x.deferredSince with
        | none => s
        | some t => { s.setLaunch launch (some { x with noDefer := true }) with cycles := max s.cycles (t + deferLimit) })
    | none =>
      match (s.queues.flatMap fun x => x.2).find? fun w => w.seq == launch && w.deferredSince.isSome with
      | none => s
      | some w =>
        { s with
          queues := s.queues.map fun x => (x.1, x.2.map fun v => if v.seq = launch then { v with noDefer := true } else v)
          cycles := max s.cycles (w.deferredSince.getD 0 + deferLimit) })

end Sys2Proof.Machine
end

