-- ==== Sys2Proof/Machine/Preempt.lean ====
section
/-! DEFINITION. Pre-emption: how units stop (R366 to R371, R411), what is saved and restored (R372 to R375), gang switches (R346 to R349)
and the watchdog (R376). -/

namespace Sys2Proof.Machine

/-! ### How a unit stops (R369) -/

/-- R369: is a unit in one of the waits that the third row lists? -/
def listedWait : Wait → Bool
  | .bar _ | .cohbar | .nap _ | .lwait _ | .event | .barwt _ | .tbwait _ _ | .acwait _ | .qwait _ _ | .popq | .room _ | .pushm _ _ | .launch _ _
  | .lwaitAck => true
  | .none | .halted | .release | .pushmRel _ _ | .copies | .tags _ | .records | .marks | .slot _ | .issue => false

/-- R369, R411: does a unit that a request has reached stop now, and if so whole (true) or by flashback (false)? -/
def unitStops (u : Nat) (c : Ctx) : Option Bool :=
  if c.preempt.isNone || c.draining || c.mode != 0 then none
  else if kindOf u = .host then some true
  else if listedWait c.wait && c.dirty then some true
  else if c.dirty then none
  else some false

/-- Are other units of a pack's block or cohort still to be restored (R374)? -/
def partlySaved (s : State) (c : Ctx) : Bool :=
  match c.block with
  | none => false
  | some b =>
    match s.block b with
    | none => false
    | some blk =>
      let bs := match blk.cohort.bind s.cohort with
        | some co => co.blocks
        | none => [b]
      s.saved.any fun v => match v.blockId with
        | some x => bs.contains x
        | none => false

/-- R369, R374: may a unit issue? The units of a chiplet that is not RUNNING issue nothing (log 43). -/
def mayIssue (s : State) (u : Nat) : Bool :=
  let c := s.ctx u
  c.live && !c.draining && (unitStops u c).isNone && !(c.preempt.isNone && partlySaved s c) && siteState s (siteOfCore (coreOf u)) == 3

/-! ### Flashback (R370) -/

/-- R72: the liveness entry of a point: AREA, PC, SLIVE, VLIVE, AOFF, ALEN and RESUME. -/
structure LiveEntry where
  area : Nat
  pc : Word
  slive : Word
  vlive : Rec512
  off : Nat
  len : Nat
  resume : Word
  deriving DecidableEq, Repr

/-- R72: searches a liveness table. -/
def findLive (p : Nat) (k : BitVec 16) : Nat → Word → State → State × Option LiveEntry
  | 0, _, s => (s, none)
  | n + 1, a, s =>
    match shepherdRead s p a 16 with
    | (s, .error _) => (s, none)
    | (s, .ok ws) =>
      let w (i : Nat) : Word := ws.getD i 0
      if field (w 0) 0 16 ≠ k then findLive p k n (a + 128) s
      else
        (s, some { area := fieldNat (w 0) 16 2, pc := w 1, slive := w 2, vlive := w 10 ++ w 9 ++ w 8 ++ w 7 ++ w 6 ++ w 5 ++ w 4 ++ w 3,
                   off := fieldNat (w 11) 0 32, len := fieldNat (w 11) 32 32, resume := w 12 })

/-- R370: the unit at its last point: live registers, and the point state of the restore. -/
def flashPoint (c : Ctx) (e : LiveEntry) : Ctx :=
  { c with
    gpr := c.gpr.filter fun x => bitAt e.slive x.1
    vreg := c.vreg.filter fun x => bitAt e.vlive (x.1 / 64)
    pc := pcOf e.resume, pointpc := e.pc, pvalid := true, dirty := false, flash := some (e.area, e.off, e.len) }

/-- R370: the unit at its start: the start registers, and its start PC. -/
def flashStart (u : Nat) (c : Ctx) (args : Word) : Ctx :=
  let s1 : Word := if kindOf u = .pack then BitVec.ofNat 64 c.index else BitVec.ofNat 64 c.member
  startRegs { c with gpr := [], vreg := [], actbar := 0, pc := c.startpc, pointk := 0, pointpc := 0, pvalid := false, dirty := false,
                     flash := some (0, 0, 0) } s1 args

/-- R370: a flashback; a point without a liveness entry saves the unit whole. -/
def flashback (s : State) (u : Nat) : State × Ctx :=
  let c := s.ctx u
  let p := c.part.getD 0
  match c.launch.bind s.launch with
  | none => (s, { c with flash := none })
  | some l =>
    if !c.pvalid then (s, flashStart u c (pkArgs l.packet))
    else
      match findLive p c.pointk (fieldNat l.live 48 16) ((field l.live 0 48).setWidth 64) s with
      | (s, none) => (s, { c with flash := none })
      | (s, some e) => (s, flashPoint c e)

/-! ### Saving (R372, R373) -/

/-- What a save abandons and what it keeps: a barrier's wait is kept, since its arrival stands (R320). -/
def stopped (c : Ctx) : Ctx :=
  { c with
    draining := true, needs := none
    wait := match c.wait with
      | .bar b => .bar b
      | .cohbar => .cohbar
      | _ => .none }

/-- R372: a holder's entries 8 to 31, to be saved with it. -/
def heldScopes (s : State) (holder : Nat) : List (Nat × Word × CoreMap) :=
  (rangeFrom 8 24).map fun n => (n, (scopeEnt s holder n).reg, (scopeEnt s holder n).snap)

/-- Lines of free bytes written by the Shepherd. -/
def saveLines (s : State) (pa : Nat) : Nat → State
  | 0 => s
  | n + 1 => saveLines (hubWrite { s with free := s.free + 8 } pa ((rangeFrom 0 8).map fun i => Config.value (s.free + i))) (pa + 64) n

/-- R374, R375: an image of `n` pages is written to the partition's save area; where in it, and in what layout, is the Shepherd's own
(log 14). -/
def saveImage (s : State) (p n : Nat) : State :=
  let room := savePages s p
  if n = 0 ∨ room < n then s
  else saveLines s.takeFree (hubF s (pBase p + 0x30) 12 40 * 4096 + 4096 * (Config.choice s.free % (room - n + 1))) (64 * n)

/-- The image of a unit that has stopped. -/
def imageOf (s : State) (u : Nat) (c : Ctx) : Saved :=
  { part := c.part.getD 0, launch := c.launch, host := kindOf u == .host,
    ctx := { c with live := false, preempt := none, draining := false }, unit := u, blockId := c.block, scopes := heldScopes s (holderOf s u) }

/-- Is a pack of a block saved? -/
def packSaved (s : State) (b i : Nat) : Option Saved := s.saved.find? fun v => v.blockId == some b && v.ctx.index == i

/-- R372: block-shared memory of a block whose packs were all saved by flashback: the union of the live ranges. An entry of the reserved AREA
code 3 keeps nothing (log 48). -/
def sharedKept (vs : List Saved) (m : Sparse Byte) : Sparse Byte :=
  if vs.all fun v => v.ctx.flash.isSome then
    m.filter fun x => vs.any fun v => match v.ctx.flash with
      | some (1, off, len) => decide (off ≤ x.1) && decide (x.1 < off + len)
      | _ => false
  else m

/-- R374: a block all of whose packs are saved is saved: it leaves its core. -/
def settleBlock (s : State) (b : Nat) : State :=
  match s.block b with
  | none => s
  | some blk =>
    let vs := blk.packs.filterMap fun x => packSaved s b x.1
    if !blk.resident || blk.packs.isEmpty || vs.length != blk.packs.length then s
    else saveImage (setCarve (s.setBlock b (some { blk with resident := false, shared := sharedKept vs blk.shared })) blk.core) (blk.part.getD 0) blk.pages

/-- The blocks of a partition, with their numbers. -/
def partBlocks (s : State) (p : Nat) : List (Nat × Block) :=
  s.blocks.filterMap fun x => match x.2 with
    | some b => if b.part = some p then some (x.1, b) else none
    | none => none

/-- R348: the gang that follows one, in the order of first admission; none stands for a gang still to be formed. -/
def nextGang (gangs : List Nat) (g : Nat) (more : Bool) : Option Nat :=
  match (gangs.dropWhile fun x => x != g).drop 1 with
  | x :: _ => some x
  | [] => if more then none else gangs.head?

/-- Does a unit belong to a gang? -/
def inGang (s : State) (p g : Nat) (c : Ctx) : Bool :=
  match c.block.bind s.block with
  | some b => b.part == some p && b.gang == g
  | none => false

/-- R346: the state as it would be without a gang on its cores. -/
def withoutGang (s : State) (p g : Nat) : State :=
  let out (x : Option Block) : Option Block := match x with
    | some b => if b.part = some p ∧ b.gang = g then some { b with resident := false } else some b
    | none => none
  let t : State := { s with ctxs := s.ctxs.filter (fun x => !inGang s p g x.2), blocks := s.blocks.map fun x => (x.1, out x.2) }
  t.setPart p { t.part p with resident := none, switchAt := none }

/-- R346: are unplaced blocks waiting for the cores that a gang holds? -/
def blocksWait (s : State) (p g : Nat) : Bool :=
  let t := withoutGang s p g
  ((started s).any fun x => x.2.part == p && x.2.code == 1 && (placeNext s x.1 x.2).isNone && (placeNext t x.1 x.2).isSome) ||
  s.queues.any fun x =>
    queuePart s x.1 == p &&
    (match candidate s x.1 with
      | some w => pkType w.packet == 0 && pkCode w.packet == 1 && (startCandidate s x.1 w).isNone && (startCandidate t x.1 w).isSome
      | none => false)

/-- R348: may a block that is new start now, with which a new gang would begin? -/
def newBlocks (s : State) (p : Nat) : Bool :=
  ((started s).any fun x => x.2.part == p && x.2.code == 1 && (placeNext s x.1 x.2).isSome) ||
  s.queues.any fun x =>
    queuePart s x.1 == p &&
    (match candidate s x.1 with
      | some w => pkType w.packet == 0 && pkCode w.packet == 1 && (startCandidate s x.1 w).isSome
      | none => false)

/-- Does a gang hold a core? -/
def gangHolds (s : State) (p g : Nat) : Bool := (partBlocks s p).any fun x => x.2.resident && x.2.gang == g

/-- R348: the gangs that have blocks. -/
def liveGangs (s : State) (p : Nat) : List Nat := (s.part p).gangs.filter fun g => (partBlocks s p).any fun x => x.2.gang == g

/-- R348: the gang with blocks that follows one, which may have ended, in the round robin. -/
def followingGang (s : State) (p g : Nat) (more : Bool) : Option Nat :=
  let live := liveGangs s p
  (nextGang ((s.part p).gangs.filter fun x => x == g || live.contains x) g more).filter live.contains

/-- R349: has the DEADLINE of a partition's switch passed? -/
def switchLate (s : State) (st : PartSt) : Bool :=
  match st.switchAt with
  | some t => decide (t + 2000 * hubF s 0xB80 16 16 < s.cycles)
  | none => false

/-- R348, step 3: blocks that are saved leave their cores, and when the whole resident gang has within DEADLINE, the next one follows. -/
def settleSwitch (s : State) (p : Nat) : State :=
  let s := (partBlocks s p).foldl (fun s x => settleBlock s x.1) s
  let st := s.part p
  match st.resident with
  | none => s
  | some g =>
    if gangHolds s p g then s
    else if switchLate s st then s
    else if st.switchAt.isSome then
      let next := followingGang s p g (blocksWait s p g)
      s.setPart p { st with resident := next, switchAt := none, misses := 0, gangs := liveGangs s p }
    else if (partBlocks s p).any fun x => x.2.gang == g then s
    else s.setPart p { st with resident := followingGang s p g false, gangs := liveGangs s p }

/-- R372: a stopped pack whose copies have landed is saved. -/
def savePack (s : State) (u : Nat) : State :=
  let c := s.ctx u
  if !c.draining || !c.aclanes.isEmpty then s
  else
    let v := imageOf s u c
    let s := dropReserve s u
    settleSwitch (saveImage { s.setCtx u {} with saved := s.saved ++ [v] } (c.part.getD 0) c.pages) (c.part.getD 0)

/-- R411: a stopped host thread is saved; the core's former values return (R361). -/
def saveHost (s : State) (u : Nat) : State :=
  let v := imageOf s u (s.ctx u)
  saveImage { s.setCtx u (Sparse.get (fun _ => ({} : Ctx)) s.former u) with saved := s.saved ++ [v], former := Sparse.erase s.former u } v.part v.ctx.pages

/-- A unit that a request reached stops where it stands; a pack's reservation and its request for one end (R337). -/
def stopWith (s : State) (u : Nat) (c : Ctx) : State :=
  let s := s.setCtx u (stopped c)
  match kindOf u with
  | .host => saveHost s u
  | .pack => savePack (endReserve s u) u
  | _ => s

/-- R369, R370, R411: a unit that a request has reached stops, or a stopped pack is saved once its copies have landed. -/
def execUnitSave (u : Nat) (s : State) : Out :=
  .next (
    let c := s.ctx u
    if !c.live ∨ c.launch.isNone then s
    else if c.draining then (if kindOf u = .pack then savePack s u else s)
    else
      match unitStops u c with
      | none => s
      | some true => stopWith s u { c with flash := none }
      | some false => stopWith (flashback s u).1 u (flashback s u).2)

/-- PTIMEOUT of a partition, in ns. -/
def ptimeout (s : State) (p : Nat) : Nat := hubF s (fBase p + 0x20) 16 16 * 1000

/-- R369: PTIMEOUT has elapsed: the unit stops as it stands. -/
def execPreemptTimeout (u : Nat) (s : State) : Out :=
  .next (
    let c := s.ctx u
    match c.preempt with
    | none => s
    | some t =>
      if !c.live ∨ c.draining then s
      else
        let s := { s with cycles := max s.cycles (2 * (t + ptimeout s (c.part.getD 0))) }
        stopWith s u { c with flash := none })

/-! ### Draining and saving a task (R373) -/

/-- R373, steps 1 to 4, R302: has a stopped task drained? No fault is in service in the shadow context of its core, and what is left of
its records are copies halted on a fault, records whose retirement waits for room in `%oq`, and records held at their start. -/
def taskDrained (s : State) (u : Nat) : Bool :=
  let c := s.ctx u
  let core := coreOf u
  let sh := s.ctx (unitId core 4)
  (s.core core).leashHolder != some (u % 128) && !(sh.live && sh.serving.isSome) &&
  c.flights.all fun f => f.posting || setAside f

/-- R372: what is kept of a Canvas allocation, by offset in it: all of it, or the live range of a flashback; of an entry of the reserved
AREA code 3, nothing (log 48). -/
def canvasKept (flash : Option (Nat × Nat × Nat)) (o : Nat) : Bool :=
  match flash with
  | none => true
  | some (2, off, len) => decide (off ≤ o) && decide (o < off + len)
  | some _ => false

/-- R291, R295: a slot is spilled to the save area of a task by the Shepherd, through the task's translation. An image that cannot be
written is lost; the slot counts as spilled (log 26). -/
def shepherdSpill (core : Nat) (c : Ctx) (u : Nat) (s : State) (slot : Nat) : State :=
  let a := saveBase c.accsave + BitVec.ofNat 64 (4096 * slot)
  let t : TransCtx := { core := core, part := c.part, ttb1 := c.ttb1, ttb2 := c.ttb2, ctxid := c.ctxid, vmid := c.vmid, mode := 1 }
  let s := match imagePages s t .write a with
    | (s, .error _) => s
    | (s, .ok ps) => (writeImage u c.part (slotBytes (s.core core) (4096 * slot) 4096) ps 0 s).1
  spillSlot s core slot 0xFF

/-- The slots of a tag on a core. -/
def slotsOfTag (k : Core) (tag : BitVec 8) : List Nat := (k.owner.filter fun x => x.2 == tag).map (·.1)

/-- R291: spills every slot of a saved or stopped task on a core. -/
def spillTask (s : State) (core : Nat) (c : Ctx) (u : Nat) : State :=
  if tagOf c = 0xFF then s else (slotsOfTag (s.core core) (tagOf c)).foldl (shepherdSpill core c u) s

/-- R291: an owner tag whose task is saved. -/
def unbindTag (k : Core) (tag : BitVec 8) : Core :=
  { k with tagctx := k.tagctx.map fun t => if t.tag = tag.toNat then { t with ctx := none } else t }

/-- R373, steps 5 and 6: a drained task is saved with its Canvas; during MIGRATE its slots are spilled (R389). -/
def saveTask (s : State) (u : Nat) : State :=
  let core := coreOf u
  let c := s.ctx u
  let s := if pPhase s (c.part.getD 0) = 3 then spillTask s core c u else s
  let c := s.ctx u
  let c := { c with flights := c.flights.filter fun f => !f.atStart }
  let k := s.core core
  let rel (a : Nat) : Bool := decide (c.cbase ≤ a) && decide (a < c.cbase + c.csize) && canvasKept c.flash (a - c.cbase)
  let relLine (l : Nat) : Bool := (rangeFrom (64 * l) 64).any rel
  let v := imageOf s u c
  let v := { v with
    canvas := (k.canvas.filter fun x => rel x.1).map fun x => (x.1 - c.cbase, x.2)
    cdesc := (k.cdesc.filter fun x => relLine x.1).map fun x => (x.1 - c.cbase / 64, x.2)
    cpoison := (k.cpoison.filter fun x => relLine x.1).map fun x => (x.1 - c.cbase / 64, x.2) }
  let k := unbindTag (clearCanvas (dropLeash k (u % 128)) c.cbase c.csize) (tagOf c)
  saveImage { (s.setCore core k).setCtx u {} with saved := s.saved ++ [v] } v.part c.pages

/-- R373: a task that has stopped and drained is saved. -/
def execTaskDrain (u : Nat) (s : State) : Out :=
  .next (
    let c := s.ctx u
    if kindOf u ≠ .ctl ∨ !c.live ∨ !c.draining then s
    else
      let core := coreOf u
      let k := s.core core
      let s := settleArray (s.setCore core { k with leashReqs := k.leashReqs.filter fun r => r.ctx != u % 128 }) core
      if taskDrained s u then saveTask s u else s)

/-! ### Restoring (R374) -/

/-- R201: the writes that a unit made on another die reach home before it goes on, and the slices of the die it comes to keep no older
bytes of its partition: the NCF lines of both are written back and invalidated, as an eviction may do at any time. -/
def bringHome (s : State) (p here there : Nat) : State :=
  if here = there then s
  else
    (s.mem.ncf.filter fun x => x.part == some p && (x.site == here || x.site == there)).foldl
      (fun s x => ncfErase (ncfWriteBack s x) x.site x.slice x.line) s

/-- R383, R384: a restored unit's registers and scope entries: the fault and translation registers are reloaded; where no other unit
shares the holder, its saved entries return before the table's are loaded. -/
def restoreCtx (s : State) (u : Nat) (v : Saved) (f : Ctx → Ctx) : State :=
  let c := f (loadRegs s v.part u { v.ctx with age := s.cycles, flash := none })
  let s := s.setCtx u c
  let h := holderOf s u
  let s := if holderShared s u then s else v.scopes.foldl (fun s e => setScopeEnt s h e.1 { reg := e.2.1, snap := e.2.2 }) s
  bringHome (loadHolder s v.part h) v.part (siteOfCore (coreOf v.unit)) (siteOfCore (coreOf u))

/-- Removes an image. -/
def dropImage (s : State) (v : Saved) : State := { s with saved := s.saved.filter fun w => !(w.unit == v.unit && w.ctx == v.ctx && w.blockId == v.blockId) }

/-- One saved pack becomes resident on its block's core. -/
def restorePack (s : State) (b : Nat) (v : Saved) : State :=
  match s.block b with
  | none => s
  | some blk =>
    match freeSlot s blk.core with
    | none => s
    | some k =>
      let u := unitId blk.core k
      let quarter := quarterFor s blk.core
      let s := restoreCtx (dropImage s v) u v fun c => { c with quarter := quarter }
      match s.block b with
      | some blk => s.setBlock b (some { blk with packs := blk.packs.map fun x => if x.1 = v.ctx.index then (x.1, u) else x })
      | none => s

/-- The saved packs of a block. -/
def savedPacks (s : State) (b : Nat) : List Saved := s.saved.filter fun v => v.blockId == some b

/-- A block returns to a core with every pack of it that is saved. -/
def restoreBlock (s : State) (b core : Nat) : State :=
  match s.block b with
  | none => s
  | some blk =>
    let s := setCarve (startWork (s.setBlock b (some { blk with core := core, resident := true })) core) core
    (savedPacks s b).foldl (fun s v => restorePack s b v) s

/-- R374: every block of a list returns, to cores of one die; a block that is partly saved returns to its own core. None where one of them
finds no room now. -/
def restoreBlocks (p d : Nat) : List Nat → State → Option State
  | [], s => some s
  | b :: r, s =>
    match s.block b with
    | none => restoreBlocks p d r s
    | some blk =>
      let n := (savedPacks s b).length
      if n = 0 then restoreBlocks p d r s
      else
        let fits (c : Nat) : Bool := simtFits s p c n blk.vregs blk.narrow (if blk.resident then 0 else blk.sharedSize)
        if blk.resident then (if fits blk.core then restoreBlocks p d r (restoreBlock s b blk.core) else none)
        else match coreOn s d fits with
          | some c => restoreBlocks p d r (restoreBlock s b c)
          | none => none

/-- R348, R374: the blocks that return together: a block, or all of its cohort. -/
def withCohort (s : State) (b : Nat) : List Nat :=
  match s.block b with
  | none => []
  | some blk => match blk.cohort.bind s.cohort with
    | some co => co.blocks
    | none => [b]

/-- The die that the resident blocks of a list stand on, if any does. -/
def dieOfBlocks (s : State) (bs : List Nat) : Option Nat :=
  (bs.filterMap fun b => match s.block b with
    | some blk => if blk.resident then some (siteOfCore blk.core) else none
    | none => none).head?

/-- R348: may blocks of a gang return now? Only the resident gang's may. Where none is resident, a new gang is to begin; where no block could
begin one, the first gang in the round robin is the next. -/
def gangReturns (s : State) (p g : Nat) : Option State :=
  let st := s.part p
  if st.switchAt.isSome then none
  else if st.resident = some g then some s
  else if st.resident.isNone ∧ (liveGangs s p).head? = some g ∧ !newBlocks s p then some (s.setPart p { st with resident := some g })
  else none

/-- R315, R374: a saved block back on cores with its cohort, where they admit it. -/
def groupBack (s : State) (p b : Nat) : Option State :=
  let bs := withCohort s b
  let dies := match dieOfBlocks s bs with
    | some d => [d]
    | none => diesByTemp s (codeDies 1) 2
  dies.findSome? fun d => restoreBlocks p d bs s

/-- R346: does a partition oversubscribe its share: do new blocks, or saved ones of another gang, that R315 could admit wait for the cores that
its resident gang holds? -/
def oversubscribes (s : State) (p g : Nat) : Bool :=
  gangHolds s p g &&
  (blocksWait s p g ||
   (partBlocks s p).any fun x => !x.2.resident && x.2.gang != g && (groupBack (withoutGang s p g) p x.1).isSome)

/-- R374: a saved block returns with its cohort. -/
def restoreGroup (s : State) (p b : Nat) : State :=
  let s := settleSwitch s p
  match s.block b with
  | none => s
  | some blk =>
    match gangReturns s p blk.gang with
    | none => s
    | some s => (groupBack s p b).getD s

/-- A saved Canvas returns at a base. -/
def putSavedCanvas (k : Core) (base : Nat) (v : Saved) : Core :=
  let k := clearCanvas k base v.ctx.csize
  let k := v.canvas.foldl (fun k x => { k with canvas := Sparse.put byte0 k.canvas (base + x.1) x.2 }) k
  let k := v.cdesc.foldl (fun k x => { k with cdesc := Sparse.put desc0 k.cdesc (base / 64 + x.1) x.2 }) k
  v.cpoison.foldl (fun k x => { k with cpoison := Sparse.put poison0 k.cpoison (base / 64 + x.1) x.2 }) k

/-- R373: a halted copy record resumes at its ordinal. -/
def resumeCopies (s : State) (u : Nat) : State :=
  let fs := (s.ctx u).flights.filter fun f => f.halted
  fs.foldl (fun s f =>
    let g := { f with halted := false, cause := 0, sub := 0, faddr := 0 }
    askUnits (s.setCtx u ((s.ctx u).putFlight g)) (coreOf u) (u % 128) g) s

/-- R291, R374: a saved task returns to a context; on another core than before, its slots there are spilled and it takes a tag anew. -/
def restoreTask (s : State) (v : Saved) (core : Nat) : State :=
  match ctxOwned s v.part (core - 256), canvasBase s core v.ctx.csize with
  | some j, some base =>
    let s := s.takeFree
    let u := unitId core j
    let old := coreOf v.unit
    let tagged := tagOf v.ctx != 0xFF
    let s := if tagged && core != old then spillTask s old v.ctx v.unit else s
    let moved := tagged && core != old
    let same (w : Saved) : Bool := w.unit == v.unit && w.part == v.part && w.blockId.isNone && tagOf w.ctx == tagOf v.ctx && !w.host
    let v := if moved then (s.saved.find? same).getD v else v
    let tag : BitVec 8 := if moved then BitVec.ofNat 8 (freeTag s core) else tagOf v.ctx
    let s := if moved then s.setCore old (freeSlots (s.core old) (tagOf v.ctx)) else s
    let s := startWork (if moved then s.takeFree else s) core
    let s := s.setCore core (putSavedCanvas (s.core core) base v)
    let s := restoreCtx (dropImage s v) u v fun c => { c with cbase := base, accsave := if tagged then setField c.accsave 0 8 tag.toNat else c.accsave }
    let s := if tagged then s.setCore core (bindTag (s.core core) tag.toNat j (s.ctx u)) else s
    resumeCopies s u
  | _, _ => s

/-- R361, R411: a saved host thread returns to an idle host core, whose own values are kept. -/
def restoreHost (s : State) (v : Saved) (core : Nat) : State :=
  let u := unitId core 0
  let s := startWork { s with former := Sparse.set s.former u (s.ctx u) } core
  restoreCtx (dropImage s v) u v id

/-- R315, R344: the core that a saved task would return to now. -/
def savedCore (s : State) (v : Saved) : Option Nat :=
  coreAmong s (fun c => taskFits s v.part c v.ctx.csize v.ctx.accslots && (tagOf v.ctx == 0xFF || coreOf v.unit == c || tagFree s c))
    (diesByTemp s (codeDies 2) 4)

/-- R374, R389, R396: the saved unit of an index is restored whole, where R315 and R382 admit it now. -/
def execUnitRestore (id : Nat) (s : State) : Out :=
  .next (
    match (s.saved.drop id).head? with
    | none => s
    | some v =>
      if !mayPlace s v.part then s
      else
        match v.blockId with
        | some b => restoreGroup s v.part b
        | none =>
          if v.host then
            (match coreOn s 0 fun c => hostFits s v.part c with
              | some c => restoreHost s v c
              | none => s)
          else
            (match savedCore s v with
              | some c => restoreTask s v c
              | none => s))

/-! ### The tick (R346 to R349, R366) -/

/-- R348: the resident gang is asked to leave. -/
def startSwitch (s : State) (p g : Nat) : State :=
  let s := ((s.ctxs.filter fun x => x.2.live && inGang s p g x.2).map (·.1)).foldl preemptUnit s
  s.setPart p { s.part p with switchAt := some s.cycles }

/-- R318: the pack count asked of each resident block of an oversubscribing partition is the Shepherd's own choice; else it asks nothing. -/
def writeHints (s : State) (p : Nat) (scarce : Bool) : State :=
  (partBlocks s p).foldl (fun s x =>
    match s.block x.1 with
    | some b =>
      if scarce then ({ s with free := s.free + 1 }).setBlock x.1 (some { b with hint := Config.choice s.free % (b.packs.length + 1) })
      else s.setBlock x.1 (some { b with hint := 0 })
    | none => s) s

/-- R349: abandons a switch: what is still resident goes on, what is saved returns with the same gang. -/
def abandonSwitch (s : State) (p g : Nat) : State :=
  { s with ctxs := s.ctxs.map fun x =>
      if inGang s p g x.2 then (x.1, { x.2 with preempt := none, draining := false, flash := none }) else x }

/-- R349: a switch has missed its deadline: it is abandoned and reported, and the third miss in a row resets the partition. -/
def missSwitch (s : State) (p : Nat) : State :=
  let st := s.part p
  match st.switchAt, st.resident with
  | some t, some g =>
    let s := { s with cycles := max s.cycles (t + 2000 * hubF s 0xB80 16 16) }
    let s := (abandonSwitch s p g).setPart p { st with switchAt := none, misses := st.misses + 1 }
    let s := presentEvent s 4 0 0 (some p) 0 0
    if 3 ≤ st.misses + 1 then resetPartition s p 3 else s
  | _, _ => s

/-- R348: the gang switch of a partition at a tick; none during a Rehang phase. A switch that is late by now has been missed. -/
def tickGangs (s : State) (p : Nat) : State :=
  let s := settleSwitch s p
  let s := if switchLate s (s.part p) then missSwitch s p else s
  match (s.part p).resident with
  | none => s
  | some g =>
    if !mayPlace s p || pPhase s p != 0 || (s.part p).switchAt.isSome then s
    else
      let scarce := oversubscribes s p g
      let s := writeHints s p scarce
      if scarce then startSwitch s p g else s

/-- The effective priority of a unit's launch. -/
def unitPrio (s : State) (c : Ctx) : Nat :=
  match c.launch.bind s.launch with
  | some l => effPrio s l.queue l.packet
  | none => 0

/-- R366: the state with a context idle, its Canvas free. -/
def withoutTask (s : State) (u : Nat) : State := s.setCtx u {}

/-- R366: does a task of higher priority wait for the context of a running one? It waits where no context admits it now. -/
def taskWaits (s : State) (u : Nat) : Bool :=
  let c := s.ctx u
  let p := c.part.getD 0
  let t := withoutTask s u
  let core := coreOf u
  ((started s).any fun x =>
    x.2.part == p && x.2.code == 2 && decide (x.2.placed < x.2.members) && (placeNext s x.1 x.2).isNone && decide (unitPrio s c < effPrio s x.2.queue x.2.packet) &&
    taskFits t p core (pkCanvas x.2.packet) (pkAccslots x.2.packet) && pagesFit s p (taskPages (pkCanvas x.2.packet))) ||
  (s.queues.any fun x =>
    queuePart s x.1 == p &&
    (match candidate s x.1 with
      | some w => pkType w.packet == 0 && pkCode w.packet == 2 && decide (unitPrio s c < effPrio s x.1 w.packet) &&
          !(packetCheck s p w.packet).2.1 && (startCandidate s x.1 w).isNone && taskFits t p core (pkCanvas w.packet) (pkAccslots w.packet) &&
          pagesFit s p (taskPages (pkCanvas w.packet))
      | none => false)) ||
  s.saved.any fun v =>
    v.part == p && v.blockId.isNone && !v.host && decide (unitPrio s c < unitPrio s v.ctx) && (savedCore s v).isNone &&
      taskFits t p core v.ctx.csize v.ctx.accslots

/-- One of the entries of a list with the least key, by a free choice where several have it (log 31). -/
def anyLeast (s : State) (key : Nat → Nat) (l : List Nat) : Option Nat :=
  (leastBy key l).map fun m =>
    let ties := l.filter fun u => key u == key m
    ties.getD (Config.choice s.free % ties.length) m

/-- R366: may a running task be asked to leave at this tick: a waiting one outranks it, and no task of its core has been asked yet? -/
def mayAsk (s : State) (p : Nat) (x : Nat × Ctx) : Bool :=
  kindOf x.1 == .ctl && workOf p x.2 && x.2.preempt.isNone && (s.core (coreOf x.1)).askedAt != some s.lastTick && taskWaits s x.1

/-- R366: a running task of lowest effective priority that a waiting one outranks is asked to leave. -/
def tickTasks (s : State) (p : Nat) : State :=
  match anyLeast s (fun u => unitPrio s (s.ctx u)) ((s.ctxs.filter (mayAsk s p)).map (·.1)) with
  | some u =>
    if mayPlace s p then
      let k := s.core (coreOf u)
      preemptUnit (s.takeFree.setCore (coreOf u) { k with askedAt := some s.lastTick }) u
    else s
  | none => s

/-- R348, R366: a Shepherd tick, TICK after the one before. -/
def execShepherdTick (s : State) : Out :=
  .next (
    let now := max s.cycles (s.lastTick + 2000 * hubF s 0xB80 0 16)
    let s := { s with cycles := now, lastTick := now }
    (rangeFrom 0 16).foldl (fun s p => tickTasks (tickGangs s p) p) s)

/-- R349: a die has not reported its save within DEADLINE of the tick; the third miss in a row resets the partition. -/
def execSaveDeadlineMiss (p : Nat) (s : State) : Out :=
  .next (missSwitch (settleSwitch s p) p)

/-- R376: the moments, in ns, at which a partition's launches and requested saves run out of time; gang switches have none. -/
def watchdogTimes (s : State) (p : Nat) : List Nat :=
  let wdog := hubF s (fBase p + 0x20) 32 16
  let runs := if wdog = 0 then [] else (started s).filterMap fun x => if x.2.part = p then some (x.2.start / 2 + 1000000 * wdog) else none
  let st := s.part p
  let gang (c : Ctx) : Bool := st.switchAt.isSome && (match st.resident with
    | some g => inGang s p g c
    | none => false)
  let saves := s.ctxs.filterMap fun x => match x.2.preempt with
    | some t => if workOf p x.2 && !gang x.2 then some (t + 4 * ptimeout s p) else none
    | none => none
  runs ++ saves

/-- R376: WATCHDOG resets the partition. -/
def execWatchdog (p : Nat) (s : State) : Out :=
  .next (
    match leastBy id (watchdogTimes s p) with
    | none => s
    | some t => resetPartition { s with cycles := max s.cycles (2 * t) } p 2)

end Sys2Proof.Machine
end

