-- ==== Sys2Proof/Machine/Resize.lean ====
section
/-! DEFINITION. Rehang's phases as events: the command and DRAIN (R385 to R388), MIGRATE (R389), REHASH (R390) and COMMIT (R391). -/

namespace Sys2Proof.Machine

/-- The RHCMD ring. -/
def rhRing : Nat := 0x840

/-- R386: the plan; none where its address is misaligned, outside an enabled set, or its line poisoned. -/
def readPlan (s : State) (pa : Nat) : Option (BitVec 2048) :=
  if pa % 256 ≠ 0 ∨ (setOf s pa).isNone ∨ (setOf s (pa + 255)).isNone then none
  else
    match (rangeFrom 0 32).mapM fun i => match (homeRead s (pa + 8 * i) 8).2 with
      | .ok bs => some bs
      | .error _ => none with
    | some l => some (ofBytes 2048 l.flatten)
    | none => none

/-- R387, row 4. -/
def planInvalid (s : State) (plan : BitVec 2048) : Bool :=
  fieldNat plan 8 56 != 0 || fieldNat plan 1248 800 != 0 || (planWeight plan == 0 && fieldNat plan 128 192 != 0) ||
  [false, true].any fun lp => (rangeFrom 0 16).any fun k => planned plan (.set lp k) && !setEnabled s lp k

/-- The owner of a unit that has one owner field. -/
def unitOwner (s : State) (u : PUnit) : Option Nat := ownerOf (hubF s u.fieldOf.1 u.fieldOf.2 8)

/-- R387, row 5: may a unit the plan names not join? -/
def cannotJoin (s : State) (p : Nat) (u : PUnit) : Bool :=
  match u with
  | .simt i => (freeTenant s (64 + i)).isNone
  | .ctx i _ => (ctxOwned s p i).isNone && (rangeFrom 0 4).all fun k => (sysOwner s (256 + i) k).isSome
  | u => (unitOwner s u).isSome

/-- R387, row 5, with the slices. -/
def planConflict (s : State) (p : Nat) (plan : BitVec 2048) : Bool :=
  (allUnits.any fun u => planned plan u && !holdsUnit s p u && cannotJoin s p u) ||
  (rangeFrom 1 6).any fun site => (rangeFrom 0 16).any fun q =>
    q != p && (s.winR site (0x100000 + 8 * q) &&& planSlices plan site) != 0

/-- R387: the status of the first check that fails, or the plan. -/
def proposeCheck (s : State) (entry : Nat) : Except Nat (BitVec 2048) :=
  let w := entryWord s entry 0
  let p := fieldNat w 8 4
  if fieldNat w 0 8 ≠ 1 then .error 6
  else
    match readPlan s (entryWord s entry 1).toNat with
    | none => .error 2
    | some plan =>
      if !pEnabled s p || pQuiesce s p || pPause s p then .error 5
      else if planInvalid s plan then .error 0xA
      else if planConflict s p plan then .error 9
      else .ok plan

/-- R385, R387, R388, R392: the command at the head of RHCMD is checked; PROPOSE passes into DRAIN, the joining units become the
partition's, and its snapshots take the table's bits besides their own. -/
def execRehang (entry : Nat) (s : State) : Out :=
  .next (
    if s.rehang.isSome || !ringHeadAt s rhRing 32 entry then s
    else
      let s := gatherSpan s entry 1
      let s := gatherSpan s (entryWord s entry 1).toNat 4
      match proposeCheck s entry with
      | .error st => finishEntry s rhRing entry st
      | .ok plan =>
        let p := fieldNat (entryWord s entry 0) 8 4
        let joined := joiningUnits s p plan
        let s := enterPhase (enterPhase s p entry 1) p entry 2
        let dies := (rangeFrom 1 6).filter fun site => s.winR site (0x100000 + 8 * p) != planSlices plan site
        let former := dies.map fun site => (site, s.winR site (0x100000 + 8 * p))
        let r : Rehang :=
          { entry := entry, part := p, plan := plan, joined := joined, dies := dies, former := former, ticks := s.lastTick, walked := false }
        let s := (joined.filterMap (PUnit.holder p)).foldl clearScopes { s with rehang := some r }
        let s := joined.foldl (fun s u => giveUnit s u p (planWeight plan)) s
        reloadScopes s p true (partCores s p))

/-- R389: does a resident unit of the partition stand on, or need, a leaving unit? -/
def mustLeave (s : State) (p : Nat) (leaving : List PUnit) (x : Nat × Ctx) : Bool :=
  let i := coreOf x.1
  workOf p x.2 &&
  (match kindOf x.1 with
    | .host => leaving.contains (.host i)
    | .pack =>
      let bs := match x.2.block with
        | some b => withCohort s b
        | none => []
      bs.any fun b => match s.block b with
        | some blk => blk.resident && leaving.contains (.simt (blk.core - 64))
        | none => false
    | .ctl =>
      let j := i - 256
      leaving.contains (.ctx j (x.1 % 128)) || leaving.contains (.ma j) || leaving.contains (.ve j) || leaving.contains (.rt j)
    | .shadow => false)

/-- R389: the units that MIGRATE moves. -/
def migrating (s : State) (r : Rehang) : List Nat :=
  let leaving := leavingUnits s r.part r.plan
  (s.ctxs.filter (mustLeave s r.part leaving)).map (·.1)

/-- R389: are requests that MIGRATE made still to be satisfied? A unit asked later than that was asked by another. -/
def stillAsked (s : State) (r : Rehang) : Bool :=
  (migrating s r).any fun u => match (s.ctx u).preempt with
    | some t => decide (t ≤ r.asked)
    | none => false

/-- R388, R389: DRAIN ends, at the first tick after it began or when nothing stands on a leaving unit, and MIGRATE asks the rest to
leave. -/
def execMigrate (s : State) : Out :=
  .next (
    match s.rehang with
    | none => s
    | some r =>
      if pPhase s r.part ≠ 2 ∨ (s.lastTick = r.ticks ∧ !(migrating s r).isEmpty) then s
      else
        let s := enterPhase s r.part r.entry 3
        let s := { s with rehang := some { r with asked := s.hubTime } }
        (migrating s r).foldl preemptUnit s)

/-- R389, R390: MIGRATE ends when every request is satisfied, and the slice hash moves; the walk of the former slices follows. -/
def execRehash (s : State) : Out :=
  .next (
    match s.rehang with
    | none => s
    | some r =>
      if pPhase s r.part = 3 then
        (if !stillAsked s r then beginRehash (enterPhase s r.part r.entry 4) r.part r.plan else s)
      else if pPhase s r.part = 4 ∧ !r.walked then { walkSlices s r.part with rehang := some { r with walked := true } }
      else s)

/-- R391, step 4: the slots that saved tasks still have on a leaving matrix array are spilled, so that none holds data of the partition. -/
def spillLeaving (s : State) (r : Rehang) : State :=
  let leaving := leavingUnits s r.part r.plan
  let held (v : Saved) : Bool :=
    v.part == r.part && v.blockId.isNone && !v.host && leaving.contains (.ma (coreOf v.unit - 256))
  (s.saved.filter held).foldl (fun s v => spillTask s (coreOf v.unit) v.ctx v.unit) s

/-- R391, R393: COMMIT, once the walk is done. A pause that came meanwhile takes effect. -/
def execCommit (s : State) : Out :=
  .next (
    match s.rehang with
    | none => s
    | some r =>
      if pPhase s r.part = 4 ∧ r.walked then
        let s := commitRehang (spillLeaving s r) r
        if pPause s r.part then preemptPartition s r.part else s
      else s)

end Sys2Proof.Machine
end

