-- ==== Sys2Proof/Machine/FarMemory.lean ====
section
/-! DEFINITION. Far memory: access counters and migration (R84 to R88), the pool (R89 to R95), zero-fill (R115 to R117), peers and the
region invalidations between packages (R31, R74, R163 to R165). -/

namespace Sys2Proof.Machine

/-! ### Command rings (R82) -/

/-- Takes the entry at a ring's HEAD, of 32 bytes: `op` is the operation the row stands for; an operation no row of the ring stands for
completes with BADCMD, also where the pool's port is not usable (log 50); another row's is left to it. -/
def takeCommand (s : State) (ring entry op : Nat) (body : State → Word → State) : State :=
  if !ringHeadAt s ring 32 entry then s
  else
    let s := gatherSpan s entry 1
    let w0 := entryWord s entry 0
    let o := fieldNat w0 0 8
    if o ≠ op then (if o = 1 ∨ o = 2 then s else finishEntry s ring entry 6) else body s w0

/-- Does a range lie wholly in enabled near and LPDDR sets? -/
def rangeInSets (s : State) (pa len : Nat) : Bool := inSets s pa len 33

/-- Does a range overlap a live reduction range? -/
def meetsRange (s : State) (pa len : Nat) : Bool := s.mem.ranges.any fun r => overlaps pa len r.base r.len

/-! ### Copies outside the L1s -/

/-- Drops the copies of lines in every L2 slice and in the memory-side cache, dirty data with them. -/
def dropL2Lines (s : State) (f : Nat → Bool) : State :=
  s.setMem { s.mem with
    ncf := s.mem.ncf.filter fun x => !f x.line
    rem := s.mem.rem.filter fun x => !f x.line
    dir := s.mem.dir.filter fun x => !f x.line
    msc := s.mem.msc.filter fun x => !f x
    partials := s.mem.partials.filter fun x => !f x.line }

/-- Is a line in a physical range? -/
def lineIn (base len line : Nat) : Bool := decide (base ≤ 64 * line) && decide (64 * line < base + len)

/-- Memory whose contents an outside agent has changed, to values this package does not know (log 13): `n` words from a key. -/
def freeWords (s : State) (key : Nat) : Nat → State
  | 0 => s
  | n + 1 => freeWords (s.takeFree.setMem (putBytes s.mem key (toBytes (Config.value s.free) 8))) (key + 8) n

/-- The descriptors of `n` lines from a key, likewise. -/
def freeDescs (s : State) (key : Nat) : Nat → State
  | 0 => s
  | n + 1 => freeDescs (s.takeFree.setMem (putDesc s.mem key (field (Config.value s.free) 0 16))) (key + 64) n

/-! ### Migration (R86 to R88) -/

/-- R86: the size a MIGCMD entry names. -/
def pageSize (w0 : Word) : Nat := if bitAt w0 8 then 0x200000 else 0x10000

/-- R87: why a copy is refused, as its STATUS; an address off its alignment counts as BADADDR. Where BUSY and RANGE
both hold, BUSY is given (log 50). -/
def copyRefused (s : State) (src dst size : Nat) : Option Nat :=
  if src % size ≠ 0 ∨ dst % size ≠ 0 ∨ !rangeInSets s src size ∨ !rangeInSets s dst size ∨ overlaps src size dst size then some 2
  else if !clearOfPairs s src size || !clearOfPairs s dst size || decide (hubF s 0x700 24 8 ≤ s.mem.fwd.length) then some 5
  else if meetsRange s src size || meetsRange s dst size then some 3
  else none

/-- R87: one line is copied: true where it was poisoned. Sharers among the peers are told (R164). -/
def copyLine (s : State) (src dst : Nat) : State × Bool :=
  let l := lineOf src
  let s := dirDrop (dirDrop s l) (lineOf dst)
  let s := s.setMem { s.mem with msc := s.mem.msc.filter fun x => x != l }
  let s := invalidateSharers s src
  match homeKey s src, homeKey s dst with
  | some k, some d =>
    if memPoison s.mem k then (invalidateSharers (s.setMem (putPoison s.mem d true)) dst, true)
    else ((homeApply s dst (BitVec.allOnes 64) (ofBytes 512 (memBytes s.mem k 64)) (some (memDesc s.mem k))).1, false)
  | _, _ => (s, false)

/-- R87: the lines of a page, ascending. -/
def copyLines (src dst : Nat) : Nat → State × Bool → State × Bool
  | 0, a => a
  | n + 1, (s, p) =>
    match copyLine s src dst with
    | (s, q) => copyLines (src + 64) (dst + 64) n (s, p || q)

/-- R87: MIGCMD OP 1. -/
def execCopyAndForward (entry : Nat) (s : State) : Out :=
  .next (takeCommand s 0x740 entry 1 fun s w0 =>
    let size := pageSize w0
    let src := (entryWord s entry 1).toNat
    let dst := (entryWord s entry 2).toNat
    match copyRefused s src dst size with
    | some st => finishEntry s 0x740 entry st
    | none =>
      match copyLines src dst (size / 64) (s, false) with
      | (s, poisoned) =>
        finishEntry (s.setMem { s.mem with fwd := ⟨src, dst, size, size / 64⟩ :: s.mem.fwd }) 0x740 entry (if poisoned then 4 else 1))

/-- R88, step 1: every copy of a range in every die L2 is written back and invalidated. -/
def flushL2 (s : State) (pa len : Nat) : State :=
  let s := (s.mem.ncf.filter fun x => lineIn pa len x.line).foldl (fun s x => ncfErase (ncfWriteBack s x) x.site x.slice x.line) s
  let s := writeOwned s (s.mem.dir.filter fun h => lineIn pa len h.line)
  s.setMem { s.mem with dir := s.mem.dir.filter fun h => !lineIn pa len h.line }

/-- R88: MIGCMD OP 2. -/
def execRelease (entry : Nat) (s : State) : Out :=
  .next (takeCommand s 0x740 entry 2 fun s _ =>
    let src := (entryWord s entry 1).toNat
    let dst := (entryWord s entry 2).toNat
    match s.mem.fwd.find? fun f => f.src == src && f.dst == dst with
    | none => finishEntry s 0x740 entry 2
    | some f =>
      let s := flushL2 s f.src f.size
      finishEntry (s.setMem { s.mem with fwd := s.mem.fwd.filter fun g => g != f }) 0x740 entry 1)

/-! ### Access counters (R84) -/

/-- The address at which a set shows a stored key. -/
def setAddr (s : State) (lp : Bool) (k key : Nat) : Nat :=
  let chs := setChannels s lp k
  let ch := if lp then (key - 2 ^ 40) / 2 ^ 36 else key / 2 ^ 32
  let loc := if lp then key % 2 ^ 36 else key % 2 ^ 32
  setBase s lp k + (loc / 4096 * chs.length + chs.idxOf ch) * 4096 + loc % 4096

/-- The counter store: its set, base and size. -/
def counterStore (s : State) : Option (Nat × Nat) :=
  let base := hubF s 0x708 28 24 * 2 ^ 28
  match setOf s base with
  | some (false, k) => some (k, base)
  | _ => none

/-- R84: at the end of an epoch every counter is halved, and the peers that share the store are told (R164); a promotion may be asked for
again once its counter is below UP (R85). That is looked at here alone: raising UP above a counter that has made its request does not
re-arm it before (log 48). -/
def execCounterEpoch (s : State) : Out :=
  .next (
    if hubF s 0x700 0 1 = 0 then s
    else
      match counterStore s with
      | none => s
      | some (k, base) =>
        let isCounter (key : Nat) : Bool :=
          keyInSet s false k key && decide (base ≤ setAddr s false k key) && decide (setAddr s false k key < base + 2 ^ 28)
        let s := s.setMem { s.mem with
          bytes := s.mem.bytes.filterMap fun x =>
            if isCounter x.1 then (if x.2.toNat / 2 = 0 then none else some (x.1, BitVec.ofNat 8 (x.2.toNat / 2))) else some x }
        let s := invalidateRegions s fun r => decide (base ≤ 2048 * r) && decide (2048 * r < base + 2 ^ 28)
        let now (g a : Nat) : Nat := match homeKey s (counterAddr s (g * 65536) a) with
          | some key => (Sparse.get byte0 s.mem.bytes key).toNat
          | none => 0
        s.setMem { s.mem with promoted := s.mem.promoted.filter fun x => decide (hubF s 0x700 8 8 ≤ now x.1 x.2) })

/-! ### The pool (R90 to R95) -/

/-- R91: a pool response delivers a load level to a Retriever. -/
def execPoolLoadLevel (core : Nat) (level : BitVec 4) (s : State) : Out :=
  .next (
    let s := setHubF s 0x780 16 4 level.toNat
    let k := s.core core
    s.setCore core { k with
      poolLevel := level.toNat, poolLevelAt := s.cycles,
      poolHold := if level = 15 then s.cycles + hubF s 0x788 8 16 else k.poolHold })

/-- R91: 4,096 hub cycles without a level: the Retriever uses 0. -/
def execPoolLevelTimeout (core : Nat) (s : State) : Out :=
  .next (
    let k := s.core core
    if k.poolLevel = 0 then s
    else { s.setCore core { k with poolLevel := 0 } with cycles := max s.cycles (k.poolLevelAt + 4096) })

/-- R91: the pause after level 15 ends. -/
def execPoolHoldEnd (core : Nat) (s : State) : Out :=
  .next (
    let k := s.core core
    { s.setCore core { k with poolHold := 0 } with cycles := max s.cycles k.poolHold })

/-- R90: the hub's bucket gains its tokens since it was last refilled, RATE bytes a nanosecond, up to BURST; requests that wait proceed. -/
def execPoolTokenBucketRefill (s : State) : Out :=
  .next (
    let p := s.mem.pool
    let ns := (s.cycles - p.refilled) / 2
    let have_ := min (p.bucket + ns * hubF s 0x788 32 16) (hubF s 0x788 48 16 * 1024)
    let go := if hubF s 0x788 32 16 = 0 then p.waiting else min p.waiting (have_ / 64)
    s.setMem { s.mem with pool := { p with
      bucket := have_ - 64 * go, refilled := p.refilled + 2 * ns, waiting := p.waiting - go } })

/-- The pool offset of a 2 MiB region that an address names. -/
def regionAt (a : Nat) : Option Nat := if isPool a ∧ a % 0x200000 = 0 then some ((a - poolBase) / 0x200000) else none

/-- Exchanges what two ranges of keys hold. -/
def swapKeys {α : Type} (a b len : Nat) (m : Sparse α) : Sparse α :=
  let inA (k : Nat) : Bool := decide (a ≤ k) && decide (k < a + len)
  let inB (k : Nat) : Bool := decide (b ≤ k) && decide (k < b + len)
  (m.filter fun x => inA x.1 || inB x.1).foldl (fun m x => Sparse.ins m (if inA x.1 then x.1 - a + b else x.1 - b + a) x.2)
    (m.filter fun x => !(inA x.1 || inB x.1))

/-- R93: the copies of a versioned region are dropped, here and at the peers that share it (R164). -/
def backInvalidate (s : State) (region : Nat) : State :=
  let base := poolBase + region * 0x200000
  invalidateRegions (dropL2Lines s (lineIn base 0x200000)) fun r => decide (base ≤ 2048 * r) && decide (2048 * r < base + 0x200000)

/-- Completes a POOLCMD entry that returns a version. -/
def finishVersion (s : State) (entry status : Nat) (v : Word) : State := finishEntry (hubWrite s (entry + 24) [v]) 0x7A0 entry status

/-- R93: runs a command on the versioned region that TARGET names. -/
def poolCommand (s : State) (entry op : Nat) (body : State → Nat → Word → State) : State :=
  takeCommand s 0x7A0 entry op fun s _ =>
    if hubF s 0x780 0 1 = 0 ∨ hubF s 0x780 2 1 = 1 then finishEntry s 0x7A0 entry 7
    else
      match (regionAt (entryWord s entry 1).toNat).bind fun r => s.mem.pool.versioned.find? fun x => x.1 == r with
      | none => finishEntry s 0x7A0 entry 3
      | some (r, v) => body s r v

/-- R93: POOLCMD OP 1. A bad STAGING is found before a VERSION that differs (log 50). -/
def execPublish (entry : Nat) (s : State) : Out :=
  .next (poolCommand s entry 1 fun s r v =>
    match regionAt (entryWord s entry 2).toNat with
    | none => finishEntry s 0x7A0 entry 3
    | some g =>
      if !s.mem.pool.staging.contains g then finishEntry s 0x7A0 entry 3
      else if entryWord s entry 3 ≠ v then finishVersion s entry 2 v
      else
        let s := backInvalidate s r
        let a := 2 ^ 50 + r * 0x200000
        let b := 2 ^ 50 + g * 0x200000
        let p := s.mem.pool
        let s := s.setMem { s.mem with
          bytes := swapKeys a b 0x200000 s.mem.bytes
          poison := swapKeys (a / 64) (b / 64) 0x8000 s.mem.poison
          pool := { p with versioned := p.versioned.map fun x => if x.1 = r then (r, v + 1) else x } }
        finishVersion s entry 1 (v + 1))

/-- R93: POOLCMD OP 2. -/
def execQuery (entry : Nat) (s : State) : Out := .next (poolCommand s entry 2 fun s _ v => finishVersion s entry 1 v)

/-- R93: another host publishes a versioned region: its copies are dropped, its version rises, and it holds contents this package does
not know (log 13). -/
def execBackInvalidation (region : Nat) (s : State) : Out :=
  .next (
    let s := backInvalidate s region
    let p := s.mem.pool
    if p.versioned.any fun x => x.1 == region then
      let s := freeWords s (2 ^ 50 + region * 0x200000) 0x40000
      s.setMem { s.mem with pool := { p with versioned := p.versioned.map fun x => if x.1 = region then (region, x.2 + 1) else x } }
    else s)

/-- R94: the pool reports lost lines, by pool offset: every copy is invalidated, dirty ones discarded. -/
def execPoolLineLoss (base len : Nat) (s : State) : Out :=
  .next (
    let s := dropLines s (lineIn (poolBase + base) len)
    s.setMem { s.mem with pool := { s.mem.pool with lost := (base, len) :: s.mem.pool.lost } })

/-- What is left of a range when another is taken out of it. -/
def cutRange (base len : Nat) (r : Nat × Nat) : List (Nat × Nat) :=
  [(r.1, min (r.1 + r.2) base - r.1), (max r.1 (base + len), r.1 + r.2 - max r.1 (base + len))].filter fun x => x.2 != 0

/-- R94: the pool's manager restores a range: reads no longer meet POISON. What the restored lines hold is not stated. -/
def execPoolRangeRestore (base len : Nat) (s : State) : Out :=
  .next (
    let lines := (rangeFrom (base / 64) (len / 64)).filter fun l => poolLost s (poolBase + 64 * l)
    let s := lines.foldl (fun s l => freeWords s (2 ^ 50 + 64 * l) 8) s
    s.setMem { s.mem with pool := { s.mem.pool with lost := s.mem.pool.lost.flatMap (cutRange base len) } })

/-- Does a table at a physical base map anything to the pool? Tables are read as home holds them. -/
def tableMapsPool (s : State) (base : Nat) : Nat → Bool
  | 0 => false
  | n + 1 => (rangeFrom 0 512).any fun i =>
      let e := ofBytes 64 ((rangeFrom (base + 8 * i) 8).map (physByte s))
      if (entryFails false n e).isSome then false
      else if isLeaf e then isPool (entryAddr e)
      else tableMapsPool s (entryAddr e) n

/-- R95: has a partition a pool mapping? The tables that end in physical addresses are those of stage 2 where it is enabled. -/
def mapsPool (s : State) (p : Nat) : Bool :=
  let t := if ttbEn (s.hubR (pBase p + 0x18)) then s.hubR (pBase p + 0x18) else s.hubR (pBase p + 8)
  pEnabled s p && ttbEn t && tableMapsPool s (ttbBase t) 5

/-- R95: the pool reports loss of its metadata: nothing waits for the pool any longer. The event's ARG is not stated. -/
def execPoolMetadataLoss (s : State) : Out :=
  .next (
    let rings := 16 :: (rangeFrom 0 16).filter (mapsPool s)
    let s := setHubF (setHubF (setHubF s 0x780 2 1 1) 0x780 0 1 0) 0x780 8 8 0
    let s := dropLines s fun l => isPool (64 * l)
    let s := s.setMem { s.mem with pool := { s.mem.pool with trained := false, waiting := 0 } }
    presentTo s.takeFree rings 4 0 0 none 0 (Config.value s.free))

/-- R89, R95: the port that carries the pool trains. -/
def execPoolPortTrained (sizeLog2 : Nat) (s : State) : Out :=
  .next (
    let s := setHubF s 0x780 8 8 (min sizeLog2 48)
    s.setMem { s.mem with pool := { s.mem.pool with trained := true } })

/-! ### Zero-fill (R115 to R117) -/

/-- R116: the size a SCRUBCMD entry names; code 3 names none. -/
def frameSize (w0 : Word) : Option Nat :=
  match fieldNat w0 8 2 with
  | 0 => some 0x1000
  | 1 => some 0x10000
  | 2 => some 0x200000
  | _ => none

/-- R117: zero-fills the frame of an entry, then continues with what the operation does next; a frame off its alignment counts as
BADADDR. -/
def scrubCommand (s : State) (entry op : Nat) (next : State → Nat → State) : State :=
  takeCommand s 0x820 entry op fun s w0 =>
    let frame := (entryWord s entry 1).toNat
    match frameSize w0 with
    | none => finishEntry s 0x820 entry 6
    | some size =>
      if frame % size ≠ 0 ∨ !rangeInSets s frame size ∨ !clearOfPairs s frame size then finishEntry s 0x820 entry 2
      else if meetsRange s frame size then finishEntry s 0x820 entry 3
      else next (zeroFrame s frame size) frame

/-- R117: SCRUBCMD OP 1. -/
def execZeroFill (entry : Nat) (s : State) : Out := .next (scrubCommand s entry 1 fun s _ => finishEntry s 0x820 entry 1)

/-- R115, R117: appends a frame to the Kennel at an address: the STATUS it gives. A header that cannot be read is not provided for:
nothing is appended, and STATUS is BADADDR or FULL (log 4). Any LOG2 is taken as it stands, FSZ is not looked at, and a write of the entry or
of TAIL that home refuses changes neither TAIL's advance nor STATUS (log 50). -/
def deposit (s : State) (kennel frame : Nat) : State × Nat :=
  let s := gatherSpan (dirRecall s (lineOf kennel)) (kennel / 64 * 64) 2
  match hubRead s kennel 4 with
  | (s, .error _) => (s.takeFree, if Config.choice s.free % 2 = 0 then 2 else 8)
  | (s, .ok ws) =>
    let head := ws.getD 0 0
    let tail := ws.getD 1 0
    let log2 := fieldNat (ws.getD 2 0) 0 5
    if tail - head = BitVec.ofNat 64 (2 ^ log2) then (s, 8)
    else
      let s := hubWrite s ((ws.getD 3 0).toNat + 8 * (tail.toNat % 2 ^ log2)) [BitVec.ofNat 64 frame]
      (hubWrite s (kennel + 8) [tail + 1], 1)

/-- R117: SCRUBCMD OP 2. -/
def execZeroFillAndDeposit (entry : Nat) (s : State) : Out :=
  .next (scrubCommand s entry 2 fun s frame =>
    match deposit s (entryWord s entry 2).toNat frame with
    | (s, st) => finishEntry s 0x820 entry st)

/-! ### Peers (R31, R74, R163 to R165) -/

/-- R31, R74: a scale-up port trains with a peer; one of the package's own number is a link error, and its port is not opened. -/
def execPeerAdmit (dev : Nat) (s : State) : Out :=
  .next (
    if 64 ≤ dev ∨ dev = hubF s 8 0 6 ∨ s.mem.peers.contains dev then s
    else s.setMem { s.mem with peers := dev :: s.mem.peers })

/-- Is a line one of a peer's? -/
def lineOfPeer (dev line : Nat) : Bool := isRemote (64 * line) && (64 * line - remoteBase) / 2 ^ 44 == dev

/-- R165: the link to a peer fails. -/
def losePeer (s : State) (dev : Nat) : State :=
  let s := dropLines s (lineOfPeer dev)
  let strip (w : Word) : Word := w &&& ~~~ (BitVec.ofNat 64 (2 ^ dev))
  settleReleases (s.setMem { s.mem with
    peers := s.mem.peers.filter fun d => d != dev
    invals := s.mem.invals.filter fun x => x.1 != dev
    sharers := s.mem.sharers.filterMap fun x => if strip x.2 = 0 then none else some (x.1, strip x.2) })

/-- R165. -/
def execPeerLinkFailure (dev : Nat) (s : State) : Out := .next (if dev < 64 then losePeer s dev else s)

/-- R164: a region invalidation arrives from a home package: every copy of the region's lines is invalidated and acknowledged. What the
region holds then is the peer's (log 13). -/
def execRegionInvalidation (dev region : Nat) (s : State) : Out :=
  .next (
    if 64 ≤ dev ∨ 2 ^ 30 ≤ region then s
    else
      let base := remoteBase + dev * 2 ^ 44 + region * 2048
      let key := 2 ^ 60 + (base - remoteBase)
      freeDescs (freeWords (dropLines s (lineIn base 2048)) key 256) key 32)

/-- R164: a peer acknowledges a region invalidation. -/
def execRegionInvalidationAck (dev region : Nat) (s : State) : Out :=
  .next (settleReleases (s.setMem { s.mem with
    invals := match s.mem.invals.find? fun x => x.1 == dev && x.2.1 == region with
      | some x => s.mem.invals.erase x
      | none => s.mem.invals }))

/-- R165: an invalidation of a peer has stood for 1 ms without its acknowledgement: its link counts as failed. -/
def execRegionInvalidationTimeout (dev : Nat) (s : State) : Out :=
  .next (
    match s.mem.invals.find? fun x => x.1 == dev with
    | none => s
    | some x => losePeer { s with cycles := max s.cycles (x.2.2 + 2000000) } dev)

end Sys2Proof.Machine
end

