-- ==== Sys2Proof/Machine/CacheEvents.lean ====
section
/-! DEFINITION. What reaches home from the caches, the peers and the client hosts (R76, R149 to R153, R161, R164), the IOMMU (R109), the
renewal of leases by stream TLBs (R104) and the period of the slice ports (R167). -/

namespace Sys2Proof.Machine

/-! ### Home (R76, R149, R150) -/

/-- R76: what ECC finds where a line is read from its channel. A line that a FULL holder owns is written home whole before anyone reads
it, so its stored copy is only counted. -/
def eccMeets (s : State) (pa : Nat) (ecc : EccOutcome) : State :=
  match setOf s (forwarded s pa), homeKey s (64 * lineOf pa) with
  | some _, some key =>
    (match ecc with
      | .clean => s
      | .corrected => satAddHub s 0x7C0 0 32 1
      | .uncorrectable =>
        let owned := s.mem.dir.any fun h => sameLine s h.line (lineOf pa) && (h.st == .m || h.st == .o)
        if memPoison s.mem key then s
        else
          let s := satAddHub s 0x7C0 32 16 1
          if owned then s else s.setMem (putPoison s.mem key true))
  | _, _ => s

/-- R79: what ECC finds on a request that the memory-side cache does not answer. -/
def eccMissed (s : State) (pa : Nat) (ecc : EccOutcome) : State := if s.mem.msc.contains (mscLine s pa) then s else eccMeets s pa ecc

/-- R149: the snoop filter may drop an entry for capacity, which it recalls from every holder first: which, is not stated. -/
def filterRecall (s : State) : State :=
  let n := Config.choice s.free
  if s.mem.dir = [] then s
  else if n % 2 = 0 then s.takeFree
  else match s.mem.dir[n / 2 % s.mem.dir.length]? with
    | some h => dirDrop s.takeFree h.line
    | none => s.takeFree

/-- The DEVNUM of a requester numbered among the peers: the model numbers peer `d` as agent 256 + d (log 13). -/
def peerOf (agent : Nat) : Option Nat := if 256 ≤ agent ∧ agent < 320 then some (agent - 256) else none

/-- The sharer vector of a region (R164). -/
def sharersOf (s : State) (pa : Nat) : Word := Sparse.get (fun _ => (0 : Word)) s.mem.sharers (pa / 2048)

/-- Replaces a sharer vector. -/
def setSharers (s : State) (pa : Nat) (v : Word) : State :=
  s.setMem { s.mem with sharers := Sparse.put (fun _ => (0 : Word)) s.mem.sharers (pa / 2048) v }

/-- R164: the region table may drop an entry for capacity, whose sharers are told to invalidate the region first: which, is not stated
(log 4). -/
def regionRecall (s : State) : State :=
  let n := Config.choice s.free
  if s.mem.sharers = [] then s
  else if n % 2 = 0 then s.takeFree
  else match s.mem.sharers[n / 2 % s.mem.sharers.length]? with
    | some x => invalidateRegions s.takeFree fun r => r == x.1
    | none => s.takeFree

/-- Is an agent number that of an enumerated chiplet, with a slice it has? -/
def isHolder (agent slice : Nat) : Bool := decide (1 ≤ agent) && decide (agent ≤ 8) && decide (slice < slicesOf (agent - 1))

/-- R150: the directory after a read by an agent: a FULL or IOC holder is recorded, any other only recalls; a line of a live range is
cached nowhere (R157). -/
def recordRead (s : State) (agent slice pa : Nat) : State :=
  if isHolder agent slice && (liveRange s pa).isNone && cohClass s (agent - 1) != 2 then dirRead s agent slice (lineOf pa)
  else dirRecall s (lineOf pa)

/-- R94: a read of a lost pool line by an agent that is not modelled in its own step meets POISON, which the hub counts. -/
def lostRead (s : State) : State := satAddHub s 0x790 32 32 1

/-- R150, R153, R164: a read request reaches home. What the requester does with the answer is part of its own step. A lost line is answered
with POISON and held nowhere. -/
def execHomeReadMiss (agent slice pa : Nat) (ecc : EccOutcome) (s : State) : Out :=
  .next (
    if (homeKey s pa).isNone || isRemote pa then s
    else if poolLost s pa then lostRead (countAccess s agent pa)
    else
      let s := eccMissed (countAccess (filterRecall s) agent pa) pa ecc
      let s := fillMsc (recordRead (gatherIfLive s pa) agent slice pa) pa
      match peerOf agent with
      | some d =>
        let s := regionRecall s
        setSharers s pa (sharersOf s pa ||| BitVec.ofNat 64 (2 ^ d))
      | none => s)

/-- R150: the directory after a write by an agent. -/
def recordWrite (s : State) (agent slice pa : Nat) : State :=
  if isHolder agent slice && (liveRange s pa).isNone then
    (if cohClass s (agent - 1) = 0 then dirWrite s agent slice (lineOf pa)
     else if cohClass s (agent - 1) = 1 then dirThrough s agent slice (lineOf pa)
     else dirDrop s (lineOf pa))
  else dirDrop s (lineOf pa)

/-- R164: what home writes for a requester, by `f`: a peer alone in its region's vector is not told of its own write. -/
def writtenBy (s : State) (dev : Option Nat) (pa : Nat) (f : State → State × Option (BitVec 8)) : State × Option (BitVec 8) :=
  match dev with
  | none => f s
  | some d =>
    let v := sharersOf s pa
    if v = BitVec.ofNat 64 (2 ^ d) then
      (match f (setSharers s pa 0) with
        | (s, c) => (setSharers s pa v, c))
    else f s

/-- R92, R94, R150: home answers a request for ownership alone: a versioned region is not written, and a poisoned or lost line is answered
with poison. -/
def ownRequest (s : State) (pa : Nat) : State × Option (BitVec 8) :=
  if versionedAt s pa then (s, some cFABRIC)
  else match homeRead s pa 1 with
    | (s, .ok _) => (s, none)
    | (s, .error c) => (s, some c)

/-- R150: an ownership request or a write-through reaches home with the bytes written, within one line. One that home answers with an error
(R92, R94) leaves the requester no holder, and fills nothing. -/
def execHomeWrite (agent slice pa : Nat) (data : List Byte) (ecc : EccOutcome) (s : State) : Out :=
  .next (
    if (homeKey s pa).isNone || isRemote pa then s
    else
      let s := eccMissed (countAccess (filterRecall s) agent pa) pa ecc
      let bs := data.take (64 - pa % 64)
      match (if bs.isEmpty then ownRequest s pa else writtenBy s (peerOf agent) pa fun s => homeWrite s pa bs none) with
      | (s, some _) => s
      | (s, none) => fillMsc (recordWrite s agent slice pa) pa)

/-- R152: the slices of an NCF die write a line back, and keep it clean. -/
def execNcfWriteBack (site pa : Nat) (s : State) : Out :=
  .next ((s.mem.ncf.filter fun x => x.site == site && x.line == lineOf pa).foldl Machine.ncfWriteBack s)

/-- R150, R161, R163: a slice evicts a line. -/
def execSliceEviction (agent slice pa : Nat) (s : State) : Out :=
  .next (if 1 ≤ agent ∧ agent ≤ 8 then sliceEvict s (agent - 1) slice (lineOf pa) else s)

/-- R161: a reduction performed at home: the line is gathered, then the value combined last. One of another size, or to a line in no live range
of the requester's partition, is answered with an error (R157, R160). -/
def reduceFrom (s : State) (dev p : Option Nat) (pa nb : Nat) (v : Word) : State :=
  match rangeOf s p pa with
  | none => s
  | some r =>
    if !sizeMatches r true nb || pa % nb != 0 then s
    else
      (writtenBy s dev pa fun s =>
        if nb = 4 ∧ rfmtBytes r.fmt = 2 then reduceHome (reduceHome s r pa (v.toNat % 65536)).1 r (pa + 2) (v.toNat / 65536 % 65536)
        else reduceHome s r pa (v.toNat % 2 ^ (8 * nb))).1

/-- R109: the tables the IOMMU translates a client host's request with: the partition's. The mode its permissions are judged in is not
stated (log 4). -/
def clientTrans (s : State) (p : Nat) : TransCtx := { shepherdTrans s p with mode := if Config.choice s.free % 2 = 0 then 0 else 1 }

/-- R84, R109, R161: a reduction from a peer or a client host: a client host's goes through the IOMMU and is counted as the link
chiplet's; one that fails its checks ends with an error. The partition a peer's carries is the event's (log 13). -/
def execRemoteReduction (src : RedSource) (nb : Nat) (v : Word) (s : State) : Out :=
  .next (
    match src with
    | .peer dev part pa => if 64 ≤ dev then s else reduceFrom s (some dev) part pa nb v
    | .client p va =>
      if 16 ≤ p then s
      else
        let t := clientTrans s p
        match translate s.takeFree t .atomic false va with
        | (s, .error _) => s
        | (s, .ok tr) =>
          let s := countAccess s 8 tr.pa
          if homeRefuses s t.part tr.pa then s else reduceFrom s none t.part tr.pa nb v)

/-- R76, R79: the scrub engine reads a line of either tier, through the memory-side cache. -/
def execScrubPatrol (pa : Nat) (ecc : EccOutcome) (s : State) : Out := .next (eccMissed (gatherIfLive s pa) pa ecc)

/-! ### Client hosts (R109, R134) -/

/-- R134: the line of an address loses its descriptor. -/
def untype (s : State) (pa : Nat) : State :=
  match homeKey s (64 * lineOf pa) with
  | some key => if isPool pa then s else s.setMem (putDesc s.mem key 0)
  | none => s

/-- One line of a client host's request, at home: false where it ends with an error. -/
def clientLine (s : State) (t : TransCtx) (va : Word) (n : Nat) (data : Option (List Byte)) : State × Bool :=
  match translate s t (if data.isSome then .write else .read) false va with
  | (s, .error _) => (s, false)
  | (s, .ok tr) =>
    let s := countAccess s 8 tr.pa
    if isDevice tr.pa || homeRefuses s t.part tr.pa then (s, false)
    else
      match data with
      | none => (match homeRead (dirRecall s (lineOf tr.pa)) tr.pa n with
          | (s, .ok _) => (s, true)
          | (s, .error _) => (s, false))
      | some bs => (match homeWrite (dirDrop s (lineOf tr.pa)) tr.pa bs none with
          | (s, none) => (untype s tr.pa, true)
          | (s, some _) => (s, false))

/-- The lines of a client host's request, ascending; the first that fails ends it. -/
def clientLines (t : TransCtx) (data : Option (List Byte)) : Nat → State → Word → Nat → State
  | 0, s, _, _ => s
  | k + 1, s, va, n =>
    if n = 0 then s
    else
      let here := min n (64 - va.toNat % 64)
      match clientLine s t va here (data.map fun d => d.take here) with
      | (s, true) => clientLines t (data.map fun d => d.drop here) k s (va + BitVec.ofNat 64 here) (n - here)
      | (s, false) => s

/-- R109, R134: a client host's request of a partition. -/
def execClientHostRequest (part : Nat) (req : ClientReq) (s : State) : Out :=
  .next (
    if 16 ≤ part then s
    else
      let t := clientTrans s part
      let s := s.takeFree
      match req with
      | .read va n => clientLines t none (n + 1) s va n
      | .write va data => clientLines t (some data) (data.length + 1) s va data.length)

/-! ### Stream TLBs (R104) -/

/-- Is a held entry a leaf of a core whose lease has less than 2 µs left? -/
def renewable (s : State) (core : Nat) (h : TlbEntry) : Bool :=
  h.core == core && isLeaf h.entry && decide (s.hubTime < h.expiry) && decide (h.expiry < s.hubTime + 2000)

/-- R104: a stream TLB walks a page afresh: it keeps the new translation only if its leaves have A set and admit the stream's kind of
access. -/
def renewEntry (s : State) (t : TransCtx) (k : AccKind) (h : TlbEntry) : State :=
  let a := h.vpn * 2 ^ levelShift h.level
  prefetchWalk s t false k (BitVec.ofNat 64 (if a / 2 ^ 56 % 2 = 1 then a + (2 ^ 64 - 2 ^ 57) else a))

/-- R104: which current page is renewed, and for which kind of access its stream runs, the stream knows. Host cores have no stream TLB. -/
def execStreamTlbRenewal (core : Nat) (s : State) : Out :=
  .next (
    if core < Config.simtBase then s
    else
      let n := Config.choice s.free
      let s := s.takeFree
      let hs := s.mem.tlb.filter (renewable s core)
      match hs[n / 2 % hs.length]? with
      | none => s
      | some h =>
        let streams (x : Nat × Ctx) : Bool :=
          x.2.live && coreOf x.1 == core && x.2.vmid == h.vmid && (h.glob || x.2.ctxid == h.ctxid) && h.stage2 != ttbEn x.2.ttb1
        match s.ctxs.find? streams with
        | none => s
        | some x => renewEntry s (unitTrans s x.1 x.2.mode) (if n % 2 = 0 then .read else .write) h)

/-! ### Slice ports (R167) -/

/-- R167: refills the buckets of the partitions that take part; what exceeds BURST spills to the pool. -/
def refillPort (s : State) (site : Nat) (x : Port) (p : Nat) : Port :=
  if s.winR site (0x100000 + 8 * p) = 0 then { x with bucket := Sparse.erase x.bucket p }
  else
    let r := s.winR site (0x100100 + 8 * p)
    let b := Sparse.get (fun _ => 0) x.bucket p + fieldNat r 0 16
    let burst := fieldNat r 16 16
    let poolMax := fieldNat (s.winR site 0x100180) 0 16
    if burst < b then { x with bucket := Sparse.set x.bucket p burst, pool := min (x.pool + (b - burst)) poolMax }
    else { x with bucket := Sparse.set x.bucket p b }

/-- One turn of the partitions that wait: each is served one request. -/
def servePort (x : Port) (p : Nat) : Port :=
  let w := Sparse.get (fun _ => 0) x.waiting p
  if w = 0 then x
  else match x.take p with
    | none => x
    | some y => { (y.note p) with waiting := Sparse.set y.waiting p (w - 1) }

/-- R167: requests that waited are served in round-robin order, before the period's new ones. -/
def serveWaiting : Nat → Port → Port
  | 0, x => x
  | n + 1, x => serveWaiting n ((rangeFrom 0 16).foldl servePort x)

/-- How many requests wait at a port. -/
def Port.backlog (x : Port) : Nat := x.waiting.foldl (fun n w => n + w.2) 0

/-- R167: the start of a period at a slice port. -/
def portPeriod (s : State) (site : Nat) (x : Port) : Port :=
  let x := (rangeFrom 0 16).foldl (refillPort s site) x
  let active := (rangeFrom 0 16).filter fun p => x.active.contains p || Sparse.get (fun _ => 0) x.waiting p != 0
  let allow := if active.isEmpty then 0 else x.pool / active.length
  let x := { x with allow := (rangeFrom 0 16).map fun p => (p, allow), active := [] }
  serveWaiting x.backlog x

/-- R166, R167: every 256 hub cycles. -/
def execL2BucketPeriod (site slice : Nat) (s : State) : Out :=
  .next (
    if site = 0 ∨ slicesOf site ≤ slice then s
    else
      let d := s.die site
      let old := Sparse.get (fun _ => ({} : Port)) d.ports slice
      let s := if slice = 0 then
          s.setWin site 0x100180 (setField (s.winR site 0x100180) 32 16 ((rangeFrom 0 16).foldl (refillPort s site) old).pool)
        else s
      s.setDie site { d with ports := Sparse.set d.ports slice (portPeriod s site old) })

end Sys2Proof.Machine
end

