-- ==== Sys2Proof/Machine/LaneInt.lean ====
section
/-! DEFINITION. Lane integer arithmetic and compares (R259 to R264). -/

namespace Sys2Proof.Machine

/-- What a lane instruction needs: registers that hold values of a type, and single registers. -/
def laneGate (ts : List ETy) (t : ETy) (vals singles : List LReg) : Gate :=
  { feats := fp64 ts, regs := vals.map (regsOf t) ++ singles.map (fun r => (r.toNat, 1)), odd := oddFor t vals }

/-- R259, R260: writes `f` of each active lane to `vd`; every source is read before any destination is written. -/
def writeLanes (s : State) (t : ETy) (sm : SReg) (vd : LReg) (f : Nat → Word) : State :=
  (s.setMe ((s.activeLanes sm).foldl (fun c l => c.setVal t vd l (f l)) s.me)).advance

/-- A lane instruction that writes one value per active lane. -/
def laneOp (g : Gate) (t : ETy) (sm : SReg) (price : Nat) (vd : LReg) (f : State → Nat → Word) (s : State) : State :=
  laneGated s g sm price fun s => writeLanes s t sm vd (f s)

/-- An integer operation at the width of a type. -/
def atType (t : ETy) (f : (n : Nat) → BitVec n → BitVec n → BitVec n) (a b : Word) : Word :=
  if t.is64 then f 64 a b else (f 32 (a.setWidth 32) (b.setWidth 32)).setWidth 64

/-- An operation of one operand, the same way. -/
def atType1 (t : ETy) (f : (n : Nat) → BitVec n → BitVec n) (a : Word) : Word :=
  if t.is64 then f 64 a else (f 32 (a.setWidth 32)).setWidth 64

/-- Signed or unsigned by the type. -/
def bySign (t : ETy) (f g : (n : Nat) → BitVec n → BitVec n → BitVec n) : (n : Nat) → BitVec n → BitVec n → BitVec n :=
  if t.isSigned then f else g

/-- R262: saturating addition. -/
def iaddSat (t : ETy) (n : Nat) (a b : BitVec n) : BitVec n :=
  BitVec.ofInt n (clampInt (intLo t.isSigned n) (intHi t.isSigned n) (intOf t.isSigned n a.toNat + intOf t.isSigned n b.toNat))
/-- R262: saturating subtraction. -/
def isubSat (t : ETy) (n : Nat) (a b : BitVec n) : BitVec n :=
  BitVec.ofInt n (clampInt (intLo t.isSigned n) (intHi t.isSigned n) (intOf t.isSigned n a.toNat - intOf t.isSigned n b.toNat))
/-- R262: IABS wraps for i types and leaves n types. -/
def iabsOp (t : ETy) (n : Nat) (a : BitVec n) : BitVec n := if t.isSigned && a.msb then -a else a

/-- The register form of a two-operand integer operation. -/
def laneInt2 (f : (n : Nat) → BitVec n → BitVec n → BitVec n) (t : ETy) (sm : SReg) (vd va vb : LReg) (s : State) : State :=
  laneOp (laneGate [t] t [vd, va, vb] []) t sm 0 vd (fun s l => atType t f (s.laneVal t va l) (s.laneVal t vb l)) s

/-- R259: the immediate form; imm18 is sign-extended to the type's width. -/
def laneInt2I (f : (n : Nat) → BitVec n → BitVec n → BitVec n) (t : ETy) (sm : SReg) (vd va : LReg) (imm : BitVec 18) (s : State) : State :=
  laneOp (laneGate [t] t [vd, va] []) t sm 0 vd (fun s l => atType t f (s.laneVal t va l) (imm.signExtend 64)) s

/-- R262: a shift by a single register. -/
def laneShift (f : (n : Nat) → BitVec n → BitVec n → BitVec n) (t : ETy) (sm : SReg) (vd va vb : LReg) (s : State) : State :=
  laneOp (laneGate [t] t [vd, va] [vb]) t sm 0 vd (fun s l => atType t f (s.laneVal t va l) ((s.rv vb.toNat l).setWidth 64)) s

/-- R262: a shift by an immediate amount. -/
def laneShiftI (f : (n : Nat) → BitVec n → BitVec n → BitVec n) (t : ETy) (sm : SReg) (vd va : LReg) (amt : BitVec 6) (s : State) : State :=
  laneOp (laneGate [t] t [vd, va] []) t sm 0 vd (fun s l => atType t f (s.laneVal t va l) (amt.setWidth 64)) s

/-- A one-operand integer operation. -/
def laneInt1 (f : (n : Nat) → BitVec n → BitVec n) (t : ETy) (sm : SReg) (vd va : LReg) (s : State) : State :=
  laneOp (laneGate [t] t [vd, va] []) t sm 0 vd (fun s l => atType1 t f (s.laneVal t va l)) s

/-- R263: the extraction of IBFX. -/
def ibfxOf (t : ETy) (a : Word) (lo width : Nat) : Word :=
  let n := min width (t.width - lo)
  if n = 0 then 0
  else if t.isSigned then (field a lo n).signExtend 64 else (field a lo n).setWidth 64

/-- R264: a lane compare into a scalar mask. -/
def laneCmp (g : Gate) (sm sd : SReg) (price : Nat) (f : State → Nat → Bool) (s : State) : State :=
  laneGated s g sm price fun s => s.setS sd (maskOf (s.activeLanes sm) (f s))

/-- The integer a lane's value stands for. -/
def laneInt (t : ETy) (v : Word) : Int := intOf t.isSigned t.width v.toNat

/-- R262: IADD. -/
def execIadd (t : ETy) (sat : Bool) (sm : SReg) (vd va vb : LReg) (s : State) : Out :=
  .next (laneInt2 (if sat then iaddSat t else addOp) t sm vd va vb s)
/-- R262: IADD, with an immediate. -/
def execIaddImm (t : ETy) (sat : Bool) (sm : SReg) (vd va : LReg) (imm : BitVec 18) (s : State) : Out :=
  .next (laneInt2I (if sat then iaddSat t else addOp) t sm vd va imm s)
/-- R262: ISUB. -/
def execIsub (t : ETy) (sat : Bool) (sm : SReg) (vd va vb : LReg) (s : State) : Out :=
  .next (laneInt2 (if sat then isubSat t else subOp) t sm vd va vb s)
/-- R262: ISUB, with an immediate. -/
def execIsubImm (t : ETy) (sat : Bool) (sm : SReg) (vd va : LReg) (imm : BitVec 18) (s : State) : Out :=
  .next (laneInt2I (if sat then isubSat t else subOp) t sm vd va imm s)
/-- R262: IMUL. -/
def execImul (t : ETy) (sm : SReg) (vd va vb : LReg) (s : State) : Out := .next (laneInt2 mulOp t sm vd va vb s)
/-- R262: IMUL, with an immediate. -/
def execImulImm (t : ETy) (sm : SReg) (vd va : LReg) (imm : BitVec 18) (s : State) : Out := .next (laneInt2I mulOp t sm vd va imm s)
/-- R262: IMULH. -/
def execImulh (t : ETy) (sm : SReg) (vd va vb : LReg) (s : State) : Out := .next (laneInt2 (bySign t mulhOp mulhuOp) t sm vd va vb s)
/-- R262: IMULH, with an immediate. -/
def execImulhImm (t : ETy) (sm : SReg) (vd va : LReg) (imm : BitVec 18) (s : State) : Out := .next (laneInt2I (bySign t mulhOp mulhuOp) t sm vd va imm s)
/-- R262: IAND. -/
def execIand (t : ETy) (sm : SReg) (vd va vb : LReg) (s : State) : Out := .next (laneInt2 andOp t sm vd va vb s)
/-- R262: IAND, with an immediate. -/
def execIandImm (t : ETy) (sm : SReg) (vd va : LReg) (imm : BitVec 18) (s : State) : Out := .next (laneInt2I andOp t sm vd va imm s)
/-- R262: IOR. -/
def execIor (t : ETy) (sm : SReg) (vd va vb : LReg) (s : State) : Out := .next (laneInt2 orOp t sm vd va vb s)
/-- R262: IOR, with an immediate. -/
def execIorImm (t : ETy) (sm : SReg) (vd va : LReg) (imm : BitVec 18) (s : State) : Out := .next (laneInt2I orOp t sm vd va imm s)
/-- R262: IXOR. -/
def execIxor (t : ETy) (sm : SReg) (vd va vb : LReg) (s : State) : Out := .next (laneInt2 xorOp t sm vd va vb s)
/-- R262: IXOR, with an immediate. -/
def execIxorImm (t : ETy) (sm : SReg) (vd va : LReg) (imm : BitVec 18) (s : State) : Out := .next (laneInt2I xorOp t sm vd va imm s)
/-- R262: IMIN. -/
def execImin (t : ETy) (sm : SReg) (vd va vb : LReg) (s : State) : Out := .next (laneInt2 (bySign t minOp minuOp) t sm vd va vb s)
/-- R262: IMIN, with an immediate. -/
def execIminImm (t : ETy) (sm : SReg) (vd va : LReg) (imm : BitVec 18) (s : State) : Out := .next (laneInt2I (bySign t minOp minuOp) t sm vd va imm s)
/-- R262: IMAX. -/
def execImax (t : ETy) (sm : SReg) (vd va vb : LReg) (s : State) : Out := .next (laneInt2 (bySign t maxOp maxuOp) t sm vd va vb s)
/-- R262: IMAX, with an immediate. -/
def execImaxImm (t : ETy) (sm : SReg) (vd va : LReg) (imm : BitVec 18) (s : State) : Out := .next (laneInt2I (bySign t maxOp maxuOp) t sm vd va imm s)
/-- R263: IDIV. -/
def execIdiv (t : ETy) (sm : SReg) (vd va vb : LReg) (s : State) : Out := .next (laneInt2 (bySign t divOp divuOp) t sm vd va vb s)
/-- R263: IDIV, with an immediate. -/
def execIdivImm (t : ETy) (sm : SReg) (vd va : LReg) (imm : BitVec 18) (s : State) : Out := .next (laneInt2I (bySign t divOp divuOp) t sm vd va imm s)
/-- R262: ISHL; the amount stands in one register. -/
def execIshl (t : ETy) (sm : SReg) (vd va vb : LReg) (s : State) : Out := .next (laneShift shlOp t sm vd va vb s)
/-- R262: ISHL by an immediate amount. -/
def execIshlImm (t : ETy) (sm : SReg) (vd va : LReg) (amt : BitVec 6) (s : State) : Out := .next (laneShiftI shlOp t sm vd va amt s)
/-- R262: ISHR; the amount stands in one register. -/
def execIshr (t : ETy) (sm : SReg) (vd va vb : LReg) (s : State) : Out := .next (laneShift shrOp t sm vd va vb s)
/-- R262: ISHR by an immediate amount. -/
def execIshrImm (t : ETy) (sm : SReg) (vd va : LReg) (amt : BitVec 6) (s : State) : Out := .next (laneShiftI shrOp t sm vd va amt s)
/-- R262: ISAR; the amount stands in one register. -/
def execIsar (t : ETy) (sm : SReg) (vd va vb : LReg) (s : State) : Out := .next (laneShift sarOp t sm vd va vb s)
/-- R262: ISAR by an immediate amount. -/
def execIsarImm (t : ETy) (sm : SReg) (vd va : LReg) (amt : BitVec 6) (s : State) : Out := .next (laneShiftI sarOp t sm vd va amt s)
/-- R262: IABS. -/
def execIabs (t : ETy) (sm : SReg) (vd va : LReg) (s : State) : Out := .next (laneInt1 (iabsOp t) t sm vd va s)
/-- R262: IPOPC. -/
def execIpopc (t : ETy) (sm : SReg) (vd va : LReg) (s : State) : Out := .next (laneInt1 popcOp t sm vd va s)
/-- R262: ICLZ. -/
def execIclz (t : ETy) (sm : SReg) (vd va : LReg) (s : State) : Out := .next (laneInt1 clzOp t sm vd va s)
/-- R262: IMAD, one wrap at the end. -/
def execImad (t : ETy) (sm : SReg) (vd va vb vc : LReg) (s : State) : Out :=
  .next (laneOp (laneGate [t] t [vd, va, vb, vc] []) t sm 0 vd (fun s l =>
    atType t addOp (atType t mulOp (s.laneVal t va l) (s.laneVal t vb l)) (s.laneVal t vc l)) s)
/-- R263: IBFX. -/
def execIbfx (t : ETy) (sm : SReg) (vd va vb vc : LReg) (s : State) : Out :=
  .next (laneOp (laneGate [t] t [vd, va] [vb, vc]) t sm 0 vd (fun s l =>
    ibfxOf t (s.laneVal t va l) ((s.rv vb.toNat l).toNat % t.width) (s.rv vc.toNat l).toNat) s)
/-- R263: IBFX with an immediate field. -/
def execIbfxImm (t : ETy) (sm : SReg) (vd va : LReg) (lo : BitVec 6) (wd : BitVec 7) (s : State) : Out :=
  .next (laneOp (laneGate [t] t [vd, va] []) t sm 0 vd (fun s l => ibfxOf t (s.laneVal t va l) lo.toNat wd.toNat) s)
/-- R262: ISEL; its selector is one register. -/
def execIsel (t : ETy) (sm : SReg) (vd va vb vc : LReg) (s : State) : Out :=
  .next (laneOp (laneGate [t] t [vd, va, vb] [vc]) t sm 0 vd (fun s l =>
    if s.rv vc.toNat l ≠ 0 then s.laneVal t va l else s.laneVal t vb l) s)
/-- R264: ICMP. -/
def execIcmp (t : ETy) (c : Cond) (sm : SReg) (sd : SReg) (va vb : LReg) (s : State) : Out :=
  .next (laneCmp (laneGate [t] t [va, vb] []) sm sd 0 (fun s l => condInt c (laneInt t (s.laneVal t va l)) (laneInt t (s.laneVal t vb l))) s)
/-- R264: ICMP with an immediate. -/
def execIcmpImm (t : ETy) (c : Cond) (sm : SReg) (sd : SReg) (va : LReg) (imm : BitVec 18) (s : State) : Out :=
  .next (laneCmp (laneGate [t] t [va] []) sm sd 0 (fun s l =>
    condInt c (laneInt t (s.laneVal t va l)) (laneInt t (imm.signExtend 64))) s)

end Sys2Proof.Machine
end

