-- ==== Sys2Proof/Machine/LaneMem.lean ====
section
/-! DEFINITION. Lane memory (R215 to R220, R229 to R232): loads, stores, atomics and reductions, global and block-shared, with the
locality throttle of LDL (R339). -/

namespace Sys2Proof.Machine

/-! ### Checks -/

/-- A lane that passed its checks: its address and translation. -/
structure LaneAt where
  lane : Nat
  ea : Word
  tr : Trans
  deriving DecidableEq, Repr

/-- R216, rows 3 to 5, for the active lanes in order: the failing lanes, and the others. `own` is the instruction's last row. -/
def laneChecks (k : AccKind) (plain : Bool) (nb : Nat) (ea : Nat → Word) (own : State → Trans → Option Cause) :
    List Nat → State → State × List LaneFault × List LaneAt
  | [], s => (s, [], [])
  | l :: r, s =>
    let one : State × Except Cause Trans :=
      if (ea l).toNat % nb ≠ 0 then (s, .error (cMISALIGN, 0))
      else
        match checkVa s k plain (ea l) with
        | (s, .error c) => (s, .error c)
        | (s, .ok tr) =>
          match own s tr with
          | some c => (s, .error c)
          | none => (s, .ok tr)
    match one with
    | (s, .error c) =>
      (match laneChecks k plain nb ea own r s with
        | (s, fs, ls) => (s, ⟨l, c, ea l⟩ :: fs, ls))
    | (s, .ok tr) =>
      match laneChecks k plain nb ea own r s with
      | (s, fs, ls) => (s, fs, ⟨l, ea l, tr⟩ :: ls)

/-- No row of its own. -/
def noRow : State → Trans → Option Cause := fun _ _ => none

/-- Checks every active lane of a global access, then performs it on them. -/
def lanesChecked (s : State) (k : AccKind) (plain : Bool) (nb : Nat) (sm : SReg) (ea : Nat → Word) (own : State → Trans → Option Cause)
    (go : State → List LaneAt → State) : State :=
  match laneChecks k plain nb ea own (s.activeLanes sm) s with
  | (s, f :: fs, _) => trapLanes s sm (f :: fs) false false
  | (s, [], ls) => go (portStream s k (s.activeLanes sm) ea) ls

/-- What a global lane access needs: a value register of a type, the address pair, an offset register. -/
def globalGate (t : ETy) (vals : List LReg) (va : LReg) (singles : List LReg) : Gate :=
  { feats := fp64 [t], regs := vals.map (regsOf t) ++ [(va.toNat, 2)] ++ singles.map (fun r => (r.toNat, 1)), odd := oddFor t vals || bitAt va 0 }

/-! ### Loads and stores (R230) -/

/-- R220: lanes of one load that touch a byte read the same value of it: of the bytes from `pa`, those that an earlier lane read are as it
read them. -/
def sameBytes (seen : List (Nat × Byte)) (pa : Nat) (bs : List Byte) : List Byte :=
  bs.zipIdx.map fun b => match seen.find? fun x => x.1 == pa + b.2 with
    | some x => x.2
    | none => b.1

/-- R217, R220: the loads of every lane; none is written if any meets a late fault. `seen` holds the bytes that earlier lanes read. -/
def laneLoads (late : Late) (nb : Nat) (wide : Bool) (seen : List (Nat × Byte)) :
    List LaneAt → State → State × List LaneFault × List (Nat × List Byte)
  | [], s => (s, [], [])
  | x :: r, s =>
    let got : State × Except (BitVec 8) (List Byte) := match lateAt late x.lane with
      | some c => (s, .error c)
      | none => physRead s { s.req x.tr wide with ldl := true } x.tr.pa nb
    match got with
    | (s, .error c) =>
      (match laneLoads late nb wide seen r s with
        | (s, fs, vs) => (s, ⟨x.lane, (c, 0), x.ea⟩ :: fs, vs))
    | (s, .ok bs) =>
      let bs := if x.tr.dev then bs else sameBytes seen x.tr.pa bs
      match laneLoads late nb wide (bs.zipIdx.map (fun b => (x.tr.pa + b.2, b.1)) ++ seen) r s with
      | (s, fs, vs) => (s, fs, (x.lane, bs) :: vs)

/-- R217, R220: the stores of the lanes, ascending; a lane that meets a late fault performs nothing. -/
def laneStores (late : Late) (nb : Nat) (wide : Bool) (v : Nat → Word) : List LaneAt → State → State × List LaneFault
  | [], s => (s, [])
  | x :: r, s =>
    match (match lateAt late x.lane with
      | some c => (s, some c)
      | none => storeAt s x.tr (toBytes (v x.lane) nb) wide) with
    | (s, some c) =>
      (match laneStores late nb wide v r s with
        | (s, fs) => (s, ⟨x.lane, (c, 0), x.ea⟩ :: fs))
    | (s, none) => laneStores late nb wide v r s

/-- R217: the end of a writing instruction: a side effect unless every lane failed late, then its late fault if it met one. -/
def endWrites (s : State) (sm : SReg) (lanes : Nat) (fs : List LaneFault) : State :=
  let s := if fs.length < lanes then s.dirtied else s
  match fs with
  | [] => s.advance
  | f :: r => trapLanes s sm (f :: r) true true

/-- R339: may the acting pack issue an LDL? -/
def ldlPermitted (s : State) : Bool :=
  let c := coreOf s.cur
  let w := s.winR (siteOfCore c) (0x100200 + 8 * (c - (coresOfSite (siteOfCore c)).1))
  decide ((s.cur % 128 + 64 - fieldNat w 24 6) % 64 < fieldNat w 16 7) || (s.core c).locKeep.contains s.cur

/-- R230: LDL. -/
def laneLdl (s0 : State) (late : Late) (t : ETy) (ord : MOrd) (scope : Nat) (sm : SReg) (vd va : LReg) (singles : List LReg) (ea : State → Nat → Word) : State :=
  let g := globalGate t [vd] va singles
  laneGated s0 (if ord = .relaxed then g else { g with scope := some scope }) sm 2 fun s =>
    if !ldlPermitted s then s0.stall .issue
    else
      let c := coreOf s.cur
      let s := s.setCore c { s.core c with locKeep := (s.core c).locKeep.filter fun u => u != s.cur }
      lanesChecked s .read true (tyBytes t) sm (ea s) noRow fun s ls =>
        let s := if ord = .relaxed then s else acquirePoint s scope
        match laneLoads late (tyBytes t) (ord != .relaxed && wideScope s s.cur scope) [] ls s with
        | (s, f :: fs, _) => trapLanes s sm (f :: fs) true false
        | (s, [], vs) => (s.setMe (vs.foldl (fun c v => c.setVal t vd v.1 (laneLoaded t v.2)) s.me)).advance

/-- R230: STL; a release waits as R214 lays down, and pays nothing meanwhile. -/
def laneStl (s0 : State) (late : Late) (t : ETy) (ord : MOrd) (scope : Nat) (sm : SReg) (vd va : LReg) (singles : List LReg) (ea : State → Nat → Word) : State :=
  let g := globalGate t [vd] va singles
  laneGated s0 (if ord = .relaxed then g else { g with scope := some scope }) sm 2 fun s =>
    lanesChecked s .write true (tyBytes t) sm (ea s) noRow fun s ls =>
      if ord ≠ .relaxed ∧ !releaseReady s scope then s0.stall .release
      else
        match laneStores late (tyBytes t) (ord != .relaxed && wideScope s s.cur scope) (fun l => s.laneVal t vd l) ls s with
        | (s, fs) => endWrites s sm ls.length fs

/-- R230: LDL. -/
def execLdl (t : ETy) (ord : MOrd) (scope : BitVec 4) (sm : SReg) (vd va vb : LReg) (s : State) : Out :=
  .next (laneLdl s none t ord scope.toNat sm vd va [vb] fun s => laneEa s va vb)
/-- R230: LDL with an immediate. -/
def execLdlImm (t : ETy) (ord : MOrd) (scope : BitVec 4) (sm : SReg) (vd va : LReg) (imm : BitVec 18) (s : State) : Out :=
  .next (laneLdl s none t ord scope.toNat sm vd va [] fun s => laneEaImm s va imm)
/-- R230: STL. -/
def execStl (t : ETy) (ord : MOrd) (scope : BitVec 4) (sm : SReg) (vd va vb : LReg) (s : State) : Out :=
  .next (laneStl s none t ord scope.toNat sm vd va [vb] fun s => laneEa s va vb)
/-- R230: STL with an immediate. -/
def execStlImm (t : ETy) (ord : MOrd) (scope : BitVec 4) (sm : SReg) (vd va : LReg) (imm : BitVec 18) (s : State) : Out :=
  .next (laneStl s none t ord scope.toNat sm vd va [] fun s => laneEaImm s va imm)

/-! ### Block-shared memory (R215, R216) -/

/-- R216: the failing lanes of a shared access. -/
def sharedFails (room nb : Nat) (o : Nat → Nat) (ls : List Nat) : List LaneFault :=
  ls.filterMap fun l =>
    if o l % nb ≠ 0 then some ⟨l, (cMISALIGN, 0), BitVec.ofNat 64 (o l)⟩
    else if room < o l + nb then some ⟨l, (cBOUNDS, 8), BitVec.ofNat 64 (o l)⟩
    else none

/-- Checks the active lanes of a shared access, then performs it on the pack's block. -/
def sharedChecked (s : State) (nb : Nat) (sm : SReg) (o : Nat → Nat) (go : State → Nat → Block → State) : State :=
  match myBlock s with
  | none => s.advance
  | some (b, blk) =>
    match sharedFails blk.sharedSize nb o (s.activeLanes sm) with
    | f :: fs => trapLanes s sm (f :: fs) false false
    | [] => go s b blk

/-- What a shared access needs. -/
def sharedGate (t : ETy) (vals singles : List LReg) : Gate :=
  { feats := fp64 [t], regs := vals.map (regsOf t) ++ singles.map (fun r => (r.toNat, 1)), odd := oddFor t vals }

/-- R230: LDSH. -/
def laneLdsh (s : State) (t : ETy) (sm : SReg) (vd : LReg) (singles : List LReg) (o : State → Nat → Nat) : State :=
  laneGated s (sharedGate t [vd] singles) sm 1 fun s =>
    sharedChecked s (tyBytes t) sm (o s) fun s _ blk => writeLanes s t sm vd fun l => laneLoaded t (sharedBytes blk (o s l) (tyBytes t))

/-- R230, R220: STSH. -/
def laneStsh (s : State) (t : ETy) (sm : SReg) (vd : LReg) (singles : List LReg) (o : State → Nat → Nat) : State :=
  laneGated s (sharedGate t [vd] singles) sm 1 fun s =>
    sharedChecked s (tyBytes t) sm (o s) fun s b blk =>
      (s.setBlock b (some ((s.activeLanes sm).foldl (fun k l => putShared k (o s l) (toBytes (s.laneVal t vd l) (tyBytes t))) blk))).dirtied.advance

/-- R230: LDSH. -/
def execLdsh (t : ETy) (sm : SReg) (vd va vb : LReg) (s : State) : Out := .next (laneLdsh s t sm vd [va, vb] fun s => laneSh s va vb)
/-- R230: LDSH with an immediate. -/
def execLdshImm (t : ETy) (sm : SReg) (vd va : LReg) (imm : BitVec 18) (s : State) : Out :=
  .next (laneLdsh s t sm vd [va] fun s => laneShImm s va imm)
/-- R230: STSH. -/
def execStsh (t : ETy) (sm : SReg) (vd va vb : LReg) (s : State) : Out := .next (laneStsh s t sm vd [va, vb] fun s => laneSh s va vb)
/-- R230: STSH with an immediate. -/
def execStshImm (t : ETy) (sm : SReg) (vd va : LReg) (imm : BitVec 18) (s : State) : Out :=
  .next (laneStsh s t sm vd [va] fun s => laneShImm s va imm)

/-! ### Atomics (R231, R225) -/

/-- R220, R217: the atomics of the lanes, ascending; the old values of those that took effect. -/
def laneAtomics (late : Late) (nb : Nat) (wide : Bool) (f : Nat → Nat → Option Nat) :
    List LaneAt → State → State × List LaneFault × List (Nat × List Byte)
  | [], s => (s, [], [])
  | x :: r, s =>
    let got : State × Except (BitVec 8) (List Byte) := match lateAt late x.lane with
      | some c => (s, .error c)
      | none => atomicAt s x.tr nb wide (fun old => (f x.lane (ofBytesNat old)).map fun v => toBytes (BitVec.ofNat 64 v) nb)
    match got with
    | (s, .error c) =>
      (match laneAtomics late nb wide f r s with
        | (s, fs, vs) => (s, ⟨x.lane, (c, 0), x.ea⟩ :: fs, vs))
    | (s, .ok old) =>
      match laneAtomics late nb wide f r s with
      | (s, fs, vs) => (s, fs, (x.lane, old) :: vs)

/-- R231: ATOML and CASL: `f` gives each lane's new value from its old one. -/
def laneAtomic (s0 : State) (late : Late) (g : Gate) (t : ETy) (ord : MOrd) (scope : Nat) (sm : SReg) (vd va : LReg) (f : State → Nat → Nat → Option Nat) : State :=
  laneGated s0 { g with scope := some scope } sm 2 fun s =>
    lanesChecked s .atomic true (tyBytes t) sm (fun l => s.rv64 va.toNat l) noRow fun s ls =>
      if releases ord && !releaseReady s scope then s0.stall .release
      else
        let s := if acquires ord then acquirePoint s scope else s
        match laneAtomics late (tyBytes t) (wideScope s s.cur scope) (f s) ls s with
        | (s, fs, vs) => endWrites (s.setMe (vs.foldl (fun c v => c.setVal t vd v.1 (ofBytes 64 v.2)) s.me)) sm ls.length fs

/-- R231: what a lane of ATOML writes. -/
def atomlNew (op : AOp) (t : ETy) (vb : LReg) (s : State) (l old : Nat) : Option Nat :=
  some (atomicOp op old (s.laneVal t vb l).toNat (tyBytes t))

/-- R231, R225: what a lane of CASL writes. -/
def caslNew (t : ETy) (vb vc : LReg) (s : State) (l old : Nat) : Option Nat :=
  if old = (s.laneVal t vb l).toNat then some (s.laneVal t vc l).toNat else none

/-- R231: ATOML. -/
def execAtoml (op : AOp) (t : ETy) (ord : MOrd) (scope : BitVec 4) (sm : SReg) (vd va vb : LReg) (s : State) : Out :=
  .next (laneAtomic s none (globalGate t [vd, vb] va []) t ord scope.toNat sm vd va (atomlNew op t vb))

/-- R231, R225: CASL. -/
def execCasl (t : ETy) (ord : MOrd) (scope : BitVec 4) (sm : SReg) (vd va vb vc : LReg) (s : State) : Out :=
  .next (laneAtomic s none (globalGate t [vd, vb, vc] va []) t ord scope.toNat sm vd va (caslNew t vb vc))

/-- R231: the atomics of the lanes on shared memory, ascending, with their old values. -/
def sharedAtomics (nb : Nat) (o : Nat → Nat) (f : Nat → Nat → Nat) : List Nat → Block → Block × List (Nat × Word)
  | [], b => (b, [])
  | l :: r, b =>
    let old := ofBytesNat (sharedBytes b (o l) nb)
    match sharedAtomics nb o f r (putShared b (o l) (toBytes (BitVec.ofNat 64 (f l old)) nb)) with
    | (b, vs) => (b, (l, BitVec.ofNat 64 old) :: vs)

/-- R231: ATOMSH; its orders reach no further than the block. -/
def execAtomsh (op : AOp) (t : ETy) (ord : MOrd) (scope : BitVec 4) (sm : SReg) (vd va vb : LReg) (s : State) : Out :=
  .next (laneGated s { sharedGate t [vd, vb] [va] with scope := if ord = .relaxed then none else some scope.toNat } sm 1 fun s =>
    sharedChecked s (tyBytes t) sm (fun l => (s.rv va.toNat l).toNat) fun s b blk =>
      match sharedAtomics (tyBytes t) (fun l => (s.rv va.toNat l).toNat) (fun l old => atomicOp op old (s.laneVal t vb l).toNat (tyBytes t))
          (s.activeLanes sm) blk with
      | (blk, vs) =>
        let s := s.setBlock b (some blk)
        (s.setMe (vs.foldl (fun c v => c.setVal t vd v.1 v.2) s.me)).dirtied.advance)

/-! ### Reductions (R232) -/

/-- R160: does a type match a range's format? -/
def typeMatches (t : ETy) (fmt : RFmt) : Bool :=
  match fmt with
  | .f32 => t == .f32
  | .bf16 => t == .bf16
  | .f64 => t == .f64
  | .i32wrap | .i32sat => t == .i32

/-- R216, row 5: a lane's line lies in a live range of the partition, of its type. -/
def redRow (t : ETy) (s : State) (tr : Trans) : Option Cause :=
  if isRemote tr.pa then none
  else
    match rangeOf s (partOf s s.cur) tr.pa with
    | none => some (cBOUNDS, 6)
    | some r => if typeMatches t r.fmt then none else some (cBOUNDS, 5)

/-- R160, R217: the reductions of the lanes, ascending. -/
def laneReduces (late : Late) (t : ETy) (v : Nat → Word) : List LaneAt → State → State × List LaneFault
  | [], s => (s, [])
  | x :: r, s =>
    let one : State × Option Cause :=
      if (lateAt late x.lane).isSome then (s, (lateAt late x.lane).map fun c => (c, 0))
      else if isRemote x.tr.pa then reduceRemote s (s.req x.tr false) x.tr.pa (tyBytes t)
      else
        match rangeOf s (partOf s s.cur) x.tr.pa with
        | none => (s, some (cBOUNDS, 6))
        | some g =>
          match reduceInto s (s.req x.tr false) g x.tr.pa (tyBytes t) (v x.lane).toNat with
          | (s, c) => (s, c.map fun c => (c, 0))
    match one with
    | (s, some c) =>
      (match laneReduces late t v r s with
        | (s, fs) => (s, ⟨x.lane, c, x.ea⟩ :: fs))
    | (s, none) => laneReduces late t v r s

/-- R232: what REDST needs. -/
def redstGate (t : ETy) (vd va : LReg) (singles : List LReg) : Gate :=
  let g := globalGate t [vd] va singles
  { g with feats := g.feats ++ [2], new6 := true }

/-- R232: REDST. -/
def laneRedst (s : State) (late : Late) (t : ETy) (sm : SReg) (vd va : LReg) (singles : List LReg) (ea : State → Nat → Word) : State :=
  laneGated s (redstGate t vd va singles) sm 2 fun s =>
    lanesChecked s .atomic false (tyBytes t) sm (ea s) (redRow t) fun s ls =>
      match laneReduces late t (fun l => s.laneVal t vd l) ls s with
      | (s, fs) => endWrites s sm ls.length fs

/-- R232: REDST. -/
def execRedst (t : ETy) (sm : SReg) (vd va vb : LReg) (s : State) : Out := .next (laneRedst s none t sm vd va [vb] fun s => laneEa s va vb)
/-- R232: REDST with an immediate. -/
def execRedstImm (t : ETy) (sm : SReg) (vd va : LReg) (imm : BitVec 18) (s : State) : Out :=
  .next (laneRedst s none t sm vd va [] fun s => laneEaImm s va imm)

end Sys2Proof.Machine
end

