-- ==== Sys2Proof/Machine/Faulting.lean ====
section
/-! DEFINITION. What stops a unit at an instruction without being part of one instruction's own effect: fetch faults (R40), words that
encode nothing (R55, R56), and late faults (R217). -/

namespace Sys2Proof.Machine

/-- R40, R362: the fetch of an instruction's word fails: KIND 1 with WORD 0. An error completion or POISON that answers the fetch is
late. -/
def execInstructionFetchFault (cause sub : BitVec 8) (addr : Word) (s : State) : Out :=
  .next (trapScalar { s with word := 0 } (cause, sub) addr (cause == cFABRIC || cause == cPOISON) false)

/-- R55: which contexts execute the S-class opcode of a word. -/
def opcodeGate (op : BitVec 8) : Gate :=
  if op = 0x70 ∨ op = 0x71 ∨ op = 0x72 ∨ op = 0x73 ∨ op = 0x74 ∨ op = 0x75 ∨ op = 0x9B then { host := false, ctl := false, shadow := false }
  else if op = 0x78 ∨ op = 0x79 ∨ op = 0x7A then { host := false }
  else if op = 0x96 then { shadow := false, pack := false }
  else {}

/-- R55: does this kind of context execute the class or the opcode of a word? -/
def wordKindOk (k : Kind) (w : Word) : Bool :=
  match (field w 62 2).toNat with
  | 0 => (opcodeGate (sHead w).op).kindOk k
  | 1 => k == .pack
  | 2 => k == .ctl || (k == .shadow && ((eHead w).op == 0x08 || (eHead w).op == 0x09 || (eHead w).op == 0x0A))
  | _ => true

/-- R55, R56: a word that is no instruction raises ILLEGAL: subcause 4 where this kind of context executes nothing of its class or
opcode, else 0. An L-class word is a lane instruction (KIND 0); in a pack, one with an all-zero mask is not issued. -/
def execUnassignedOpcode (w : Word) (s : State) : Out :=
  .next (
    let sub : BitVec 8 := if wordKindOk (kindOf s.cur) w then 0 else 4
    if field w 62 2 = 1 then
      let sm := (lHead w).sm
      if kindOf s.cur = .pack ∧ s.activeMask sm = 0 then s.advance else trapAllLanes s sm (cILLEGAL, sub)
    else trapS s (cILLEGAL, sub) 0)

/-- R217: the memory accesses that a late fault can answer, each performed with it; none for any other instruction. -/
def lateRun (late : Late) (s : State) : Instr → Option State
  | .ld sz sx k sd sa sb => some (scalarLoad s late sz sx sd (eaIndex s k sa sb))
  | .ldImm sz sx sd sa imm => some (scalarLoad s late sz sx sd (eaImm s sa imm))
  | .st sz k sd sa sb => some (scalarStore s late sz sd (eaIndex s k sa sb))
  | .stImm sz sd sa imm => some (scalarStore s late sz sd (eaImm s sa imm))
  | .ldo sz sx scope sd sa imm => some (orderedLoad s late sz sx scope sd (eaImm s sa imm))
  | .sto sz scope sd sa imm => some (orderedStore s late sz scope sd (eaImm s sa imm))
  | .atom sz op ord scope sd sa sb => some (scalarAtomic s late sz ord scope sd sa (atomNew sz op sb))
  | .cas sz ord scope sd sa sb sc => some (scalarAtomic s late sz ord scope sd sa (casNew sz sb sc))
  | .reds sz sa sb => some (scalarReduce s late sz sa sb)
  | .ldl t ord scope sm vd va vb => some (laneLdl s late t ord scope.toNat sm vd va [vb] fun s => laneEa s va vb)
  | .ldlImm t ord scope sm vd va imm => some (laneLdl s late t ord scope.toNat sm vd va [] fun s => laneEaImm s va imm)
  | .stl t ord scope sm vd va vb => some (laneStl s late t ord scope.toNat sm vd va [vb] fun s => laneEa s va vb)
  | .stlImm t ord scope sm vd va imm => some (laneStl s late t ord scope.toNat sm vd va [] fun s => laneEaImm s va imm)
  | .atoml op t ord scope sm vd va vb =>
    some (laneAtomic s late (globalGate t [vd, vb] va []) t ord scope.toNat sm vd va (atomlNew op t vb))
  | .casl t ord scope sm vd va vb vc =>
    some (laneAtomic s late (globalGate t [vd, vb, vc] va []) t ord scope.toNat sm vd va (caslNew t vb vc))
  | .redst t sm vd va vb => some (laneRedst s late t sm vd va [vb] fun s => laneEa s va vb)
  | .redstImm t sm vd va imm => some (laneRedst s late t sm vd va [] fun s => laneEaImm s va imm)
  | _ => none

/-- The memory access at the PC of the acting unit, as it fetches it. -/
def accessHere (s : State) : Option (State × Instr) :=
  if !s.me.live || s.me.wait != .none then none
  else
    match fetchWord s s.cur s.me.mode s.me.pc with
    | (_, .error _) => none
    | (s, .ok w) =>
      match decodeWord w none with
      | .ok i => some ({ s with word := w }, i)
      | .error _ => none

/-- The access that an instruction makes, of those a late fault can answer: does it write, and at which address in each lane? -/
def accessOf (s : State) : Instr → Option (Bool × (Nat → Word))
  | .ld _ _ k _ sa sb => some (false, fun _ => eaIndex s k sa sb)
  | .ldImm _ _ _ sa imm | .ldo _ _ _ _ sa imm => some (false, fun _ => eaImm s sa imm)
  | .st _ k _ sa sb => some (true, fun _ => eaIndex s k sa sb)
  | .stImm _ _ sa imm | .sto _ _ _ sa imm => some (true, fun _ => eaImm s sa imm)
  | .atom _ _ _ _ _ sa _ | .cas _ _ _ _ sa _ _ | .reds _ sa _ => some (true, fun _ => s.rs sa)
  | .ldl _ _ _ _ _ va vb => some (false, laneEa s va vb)
  | .ldlImm _ _ _ _ _ va imm => some (false, laneEaImm s va imm)
  | .stl _ _ _ _ _ va vb | .redst _ _ _ va vb => some (true, laneEa s va vb)
  | .stlImm _ _ _ _ _ va imm | .redstImm _ _ _ va imm => some (true, laneEaImm s va imm)
  | .atoml _ _ _ _ _ _ va _ | .casl _ _ _ _ _ va _ _ => some (true, fun l => s.rv64 va.toNat l)
  | _ => none

/-- Is a completion that names a lane mask, an address and the kind of access the answer to an instruction's access? The address is that
of the lowest lane named. -/
def answersAccess (s : State) (i : Instr) (addr lanes : Word) (isWrite : Bool) : Bool :=
  match accessOf s i, (rangeFrom 0 64).find? fun l => bitAt lanes l with
  | some x, some l => x.1 == isWrite && x.2 l == addr
  | _, _ => false

/-- R217: an error completion or POISON answers the access at the PC of the acting unit after its checks, in the lanes that `lanes` names
(bit 0 for a scalar access): the instruction is performed with it. A load's fault is precise; a write's other lanes take effect, and it
is taken after the instruction. Where no access of that kind stands there at that address, nothing is answered. -/
def execLateFault (cause : BitVec 8) (addr lanes : Word) (isWrite : Bool) (s : State) : Out :=
  .next (
    if cause ≠ cPOISON ∧ cause ≠ cFABRIC then s
    else
      match accessHere s with
      | none => s
      | some (t, i) => if answersAccess t i addr lanes isWrite then (lateRun (some (cause, lanes)) t i).getD s else s)

end Sys2Proof.Machine
end

