-- ==== Sys2Proof/Machine/LaneFloat.lean ====
section
/-! DEFINITION. Lane floating point (R265 to R270), conversions and the binary8 family (R271 to R273). -/

namespace Sys2Proof.Machine

/-- R120: the format of a float type. -/
def fmtOf : ETy → Fmt
  | .f64 => f64Fmt
  | .f16 => f16Fmt
  | .bf16 => bf16Fmt
  | _ => f32Fmt

/-- R259: does a register hold two elements of the type? -/
def twoElems (t : ETy) : Bool := t == .f16 || t == .bf16

/-- R265: an operation of one operand on the codes of every element. -/
def elem1 (t : ETy) (f : Nat → Nat) (a : Word) : Word :=
  if twoElems t then BitVec.ofNat 64 (f (fieldNat a 0 16) + 65536 * f (fieldNat a 16 16)) else BitVec.ofNat 64 (f (fieldNat a 0 t.width))

/-- R265: of two operands. -/
def elem2 (t : ETy) (f : Nat → Nat → Nat) (a b : Word) : Word :=
  if twoElems t then BitVec.ofNat 64 (f (fieldNat a 0 16) (fieldNat b 0 16) + 65536 * f (fieldNat a 16 16) (fieldNat b 16 16))
  else BitVec.ofNat 64 (f (fieldNat a 0 t.width) (fieldNat b 0 t.width))

/-- R265: of three operands. -/
def elem3 (t : ETy) (f : Nat → Nat → Nat → Nat) (a b c : Word) : Word :=
  if twoElems t then
    BitVec.ofNat 64 (f (fieldNat a 0 16) (fieldNat b 0 16) (fieldNat c 0 16) +
      65536 * f (fieldNat a 16 16) (fieldNat b 16 16) (fieldNat c 16 16))
  else BitVec.ofNat 64 (f (fieldNat a 0 t.width) (fieldNat b 0 t.width) (fieldNat c 0 t.width))

/-- R261: the price of the sums, products, minima and maxima. -/
def floatPrice (t : ETy) : Nat := if t == .f64 then 2 else 1

/-- R265, R266: the exact result of two operands, rounded once. -/
def laneFloat2 (price : Nat) (r : Rnd) (f : Val → Val → Val) (t : ETy) (sm : SReg) (vd va vb : LReg) (s : State) : State :=
  laneOp (laneGate [t] t [vd, va, vb] []) t sm price vd (fun s l =>
    elem2 t (fun a b => encodeFmt (fmtOf t) r false (f (decodeFmt (fmtOf t) a) (decodeFmt (fmtOf t) b))) (s.laneVal t va l) (s.laneVal t vb l)) s

/-- R267: an approximation, at price 3. -/
def laneFloat1 (f : Nat → Nat) (t : ETy) (sm : SReg) (vd va : LReg) (s : State) : State :=
  laneOp (laneGate [t] t [vd, va] []) t sm 3 vd (fun s l => elem1 t f (s.laneVal t va l)) s

/-- R270: the class of a code. -/
def fclassOf (f : Fmt) (code : Nat) : Nat :=
  match decodeFmt f code with
  | .nan => if (code % 2 ^ f.width).testBit (f.p - 2) then 9 else 8
  | .inf neg => if neg then 0 else 7
  | .fin neg m _ =>
    if m = 0 then (if neg then 3 else 4)
    else if m < 2 ^ (f.p - 1) then (if neg then 2 else 5)
    else (if neg then 1 else 6)

/-- R266: FADD. -/
def execFadd (t : ETy) (r : Rnd) (sm : SReg) (vd va vb : LReg) (s : State) : Out :=
  .next (laneFloat2 (floatPrice t) r (fun a b => addVal r a b) t sm vd va vb s)
/-- R266: FSUB. -/
def execFsub (t : ETy) (r : Rnd) (sm : SReg) (vd va vb : LReg) (s : State) : Out :=
  .next (laneFloat2 (floatPrice t) r (fun a b => addVal r a (negVal b)) t sm vd va vb s)
/-- R266: FMUL. -/
def execFmul (t : ETy) (r : Rnd) (sm : SReg) (vd va vb : LReg) (s : State) : Out :=
  .next (laneFloat2 (floatPrice t) r (fun a b => mulVal a b) t sm vd va vb s)
/-- R266: FDIV. -/
def execFdiv (t : ETy) (r : Rnd) (sm : SReg) (vd va vb : LReg) (s : State) : Out :=
  .next (laneFloat2 3 r (fun a b => divVal (fmtOf t).p a b) t sm vd va vb s)
/-- R266: FMIN. -/
def execFmin (t : ETy) (sm : SReg) (vd va vb : LReg) (s : State) : Out :=
  .next (laneFloat2 (floatPrice t) .rne minVal t sm vd va vb s)
/-- R266: FMAX. -/
def execFmax (t : ETy) (sm : SReg) (vd va vb : LReg) (s : State) : Out :=
  .next (laneFloat2 (floatPrice t) .rne maxVal t sm vd va vb s)
/-- R267, R268: FRCP. -/
def execFrcp (t : ETy) (sm : SReg) (vd va : LReg) (s : State) : Out := .next (laneFloat1 (approxCode .rcp (fmtOf t)) t sm vd va s)
/-- R267, R268: FRSQ. -/
def execFrsq (t : ETy) (sm : SReg) (vd va : LReg) (s : State) : Out := .next (laneFloat1 (approxCode .rsq (fmtOf t)) t sm vd va s)
/-- R267, R268: FEX2. -/
def execFex2 (t : ETy) (sm : SReg) (vd va : LReg) (s : State) : Out := .next (laneFloat1 (approxCode .ex2 (fmtOf t)) t sm vd va s)
/-- R267, R268: FLG2. -/
def execFlg2 (t : ETy) (sm : SReg) (vd va : LReg) (s : State) : Out := .next (laneFloat1 (approxCode .lg2 (fmtOf t)) t sm vd va s)
/-- R267, R268: FSIN. -/
def execFsin (t : ETy) (sm : SReg) (vd va : LReg) (s : State) : Out := .next (laneFloat1 (approxCode .sin (fmtOf t)) t sm vd va s)
/-- R267, R268: FCOS. -/
def execFcos (t : ETy) (sm : SReg) (vd va : LReg) (s : State) : Out := .next (laneFloat1 (approxCode .cos (fmtOf t)) t sm vd va s)
/-- R266: FFMA, fused. -/
def execFfma (t : ETy) (r : Rnd) (sm : SReg) (vd va vb vc : LReg) (s : State) : Out :=
  .next (laneOp (laneGate [t] t [vd, va, vb, vc] []) t sm (floatPrice t) vd (fun s l =>
    elem3 t (fun a b c => encodeFmt (fmtOf t) r false
      (addVal r (mulVal (decodeFmt (fmtOf t) a) (decodeFmt (fmtOf t) b)) (decodeFmt (fmtOf t) c)))
      (s.laneVal t va l) (s.laneVal t vb l) (s.laneVal t vc l)) s)
/-- R266: FSQRT. -/
def execFsqrt (t : ETy) (r : Rnd) (sm : SReg) (vd va : LReg) (s : State) : Out :=
  .next (laneFloat1 (fun a => encodeFmt (fmtOf t) r false (sqrtVal (fmtOf t).p (decodeFmt (fmtOf t) a))) t sm vd va s)
/-- R269: FCMP; on two-element types it compares element 0. -/
def execFcmp (t : ETy) (c : Cond) (sm : SReg) (sd : SReg) (va vb : LReg) (s : State) : Out :=
  .next (laneCmp (laneGate [t] t [va, vb] []) sm sd 0 (fun s l =>
    condFloat c (decodeFmt (fmtOf t) (s.laneVal t va l).toNat) (decodeFmt (fmtOf t) (s.laneVal t vb l).toNat)) s)
/-- R270: FCLASS; its result is one register, even for f64. -/
def execFclass (t : ETy) (sm : SReg) (vd va : LReg) (s : State) : Out :=
  .next (laneOp (laneGate [t] t [va] [vd]) .n32 sm 0 vd (fun s l => BitVec.ofNat 64 (2 ^ fclassOf (fmtOf t) (s.laneVal t va l).toNat)) s)

/-! ### Conversions -/

/-- R47: the float format of a type in a conversion; none for integers. -/
def cvtFmt (t : ETy) (f : B8Fmt) : Option Fmt :=
  match t with
  | .f64 | .f32 | .f16 | .bf16 => some (fmtOf t)
  | .b8 => some (b8FmtOf f.p.toNat f.signed f.inf)
  | _ => none

/-- R57, R271: a binary8 side with p other than 3 or 4 is new in WIS-6. -/
def newB8 (f : B8Fmt) : Bool := f.p != 3 && f.p != 4

/-- R271: a value of type `src` as a value of type `d`, as a code. -/
def convert (d src : ETy) (r : Rnd) (f : B8Fmt) (code : Nat) : Nat :=
  let x := code % 2 ^ src.width
  match cvtFmt d f, cvtFmt src f with
  | some fd, some fs => encodeFmt fd r f.sat (decodeFmt fs x)
  | some fd, none => encodeFmt fd r f.sat (ofInt (intOf src.isSigned src.width x))
  | none, some fs => wrapInt d.width (valToInt r d.isSigned d.width (decodeFmt fs x))
  | none, none =>
    let i := intOf src.isSigned src.width x
    wrapInt d.width (if f.sat then clampInt (intLo d.isSigned d.width) (intHi d.isSigned d.width) i else i)

/-- R271: how a result is written: i8 and i16 sign-extended, every other narrow type zero-extended. -/
def narrowResult (d : ETy) (code : Nat) : Word :=
  if d == .i8 || d == .i16 then BitVec.ofInt 64 (intOf true d.width code) else BitVec.ofNat 64 code

/-- R57, R271: what CVT needs. -/
def cvtGate (d src : ETy) (f : B8Fmt) (vd va : LReg) : Gate :=
  { feats := fp64 [d, src], new6 := (d == .b8 || src == .b8) && newB8 f, regs := [regsOf d vd, regsOf src va],
    odd := oddFor d [vd] || oddFor src [va] }

/-- R57, R272, R273: what a conversion of packed binary8 codes needs. -/
def packGate8 (f : B8Fmt) (rs : List LReg) : Gate := { new6 := newB8 f, regs := rs.map fun r => (r.toNat, 1) }

/-- R271: CVT. -/
def execCvt (d src : ETy) (r : Rnd) (f : B8Fmt) (sm : SReg) (vd va : LReg) (s : State) : Out :=
  .next (laneOp (cvtGate d src f vd va) d sm 1 vd (fun s l => narrowResult d (convert d src r f (s.laneVal src va l).toNat)) s)

/-- R272: PACKB. -/
def execPackb (src : ETy) (r : Rnd) (f : B8Fmt) (sm : SReg) (vd va vb : LReg) (s : State) : Out :=
  let code (x : Nat) : Nat := convert .b8 src r f x
  .next (laneOp (packGate8 f [vd, va, vb]) .n32 sm 1 vd (fun s l =>
    let a := (s.rv va.toNat l).toNat
    let b := (s.rv vb.toNat l).toNat
    BitVec.ofNat 64 (
      if src == .f32 then code a + 2 ^ 8 * code b
      else code a + 2 ^ 8 * code (a / 65536) + 2 ^ 16 * code b + 2 ^ 24 * code (b / 65536))) s)

/-- R273: the value of a binary8 code in f32, f16 or bf16: exact but for an overflow of f16, which the saturating bit governs;
an infinity stays one in each of the three (log 17). -/
def unpackCode (d : ETy) (f : B8Fmt) (code : Nat) : Nat :=
  match cvtFmt d f, cvtFmt .b8 f with
  | some fd, some fs => encodeOver fd .rne f.sat (decodeFmt fs code)
  | _, _ => 0

/-- R273: UNPKB. -/
def execUnpkb (d : ETy) (k : BitVec 2) (f : B8Fmt) (sm : SReg) (vd va : LReg) (s : State) : Out :=
  .next (laneOp (packGate8 f [vd, va]) .n32 sm 1 vd (fun s l =>
    let byte (i : Nat) : Nat := fieldNat (s.rv va.toNat l) (8 * i) 8
    BitVec.ofNat 64 (
      if d == .f32 then unpackCode d f (byte k.toNat) else unpackCode d f (byte k.toNat) + 65536 * unpackCode d f (byte (k.toNat + 1)))) s)

end Sys2Proof.Machine
end

