-- ==== Sys2Proof/Machine/LaneCross.lean ====
section
/-! DEFINITION. Cross-lane operations (R274 to R277), the fragment multiply (R278, R279) and the lane moves (R234). -/

namespace Sys2Proof.Machine

/-- R275: a shuffle: lane `l` takes the value of lane `src l`. -/
def shuffle (t : ETy) (sm : SReg) (vd va : LReg) (singles : List LReg) (src : State → Nat → Nat) (s : State) : State :=
  laneOp (laneGate [t] t [vd, va] singles) t sm 0 vd (fun s l => s.laneVal t va (src s l)) s

/-- R275: SHFL. -/
def execShfl (t : ETy) (sm : SReg) (vd va vb : LReg) (s : State) : Out :=
  .next (shuffle t sm vd va [vb] (fun s l => (s.rv vb.toNat l).toNat % s.me.width) s)
/-- R275: SHFL from a fixed lane. -/
def execShflImm (t : ETy) (sm : SReg) (vd va : LReg) (k : BitVec 6) (s : State) : Out :=
  .next (shuffle t sm vd va [] (fun s _ => k.toNat % s.me.width) s)
/-- R275: SHFLUP. -/
def execShflup (t : ETy) (sm : SReg) (vd va : LReg) (k : BitVec 6) (s : State) : Out :=
  .next (shuffle t sm vd va [] (fun _ l => if k.toNat ≤ l then l - k.toNat else l) s)
/-- R275: SHFLDN. -/
def execShfldn (t : ETy) (sm : SReg) (vd va : LReg) (k : BitVec 6) (s : State) : Out :=
  .next (shuffle t sm vd va [] (fun s l => if l + k.toNat < s.me.width then l + k.toNat else l) s)
/-- R275: SHFLX. -/
def execShflx (t : ETy) (sm : SReg) (vd va : LReg) (k : BitVec 6) (s : State) : Out :=
  .next (shuffle t sm vd va [] (fun s l => l ^^^ (k.toNat % s.me.width)) s)

/-- R276: BALLOT. -/
def execBallot (t : ETy) (sm : SReg) (sd : SReg) (va : LReg) (s : State) : Out :=
  .next (laneCmp (laneGate [t] t [va] []) sm sd 0 (fun s l => s.laneVal t va l != 0) s)
/-- R276: LANEID. -/
def execLaneid (sm : SReg) (vd : LReg) (s : State) : Out :=
  .next (laneOp (laneGate [] .n32 [vd] []) .n32 sm 0 vd (fun _ l => BitVec.ofNat 64 l) s)

/-! ### Reductions and scans over lanes (R277) -/

/-- R277: the step g of two codes of one element. -/
def stepCode (op : ROp) (t : ETy) (r : Rnd) (x y : Nat) : Nat :=
  if t.isFloat then combineFloat (fmtOf t) op r x y
  else
    let a := intOf t.isSigned t.width x
    let b := intOf t.isSigned t.width y
    wrapInt t.width (match op with
      | .add => a + b
      | .min => min a b
      | .max => max a b)

/-- R277: the step on the elements of a value. -/
def stepVal (op : ROp) (t : ETy) (r : Rnd) (x y : Word) : Word := elem2 t (stepCode op t r) x y

/-- R277: the identity of an operation, as a code. -/
def laneIdentity (op : ROp) (t : ETy) : Nat :=
  if t.isFloat then
    match op with
    | .add => withSign (fmtOf t) true 0
    | .min => encodeFmt (fmtOf t) .rne false (.inf false)
    | .max => encodeFmt (fmtOf t) .rne false (.inf true)
  else
    match op with
    | .add => 0
    | .min => wrapInt t.width (intHi t.isSigned t.width)
    | .max => wrapInt t.width (intLo t.isSigned t.width)

/-- R277: the running results of the lanes after the first, with the one before each: lane, before, after. -/
def scanFrom (g : Word → Word → Word) (v : Nat → Word) (acc : Word) : List Nat → List (Nat × Word × Word)
  | [] => []
  | l :: r => (l, acc, g acc (v l)) :: scanFrom g v (g acc (v l)) r

/-- R277: the outcome at each active lane, ascending. -/
def scanLanes (g : Word → Word → Word) (v : Nat → Word) (ident : Word) : List Nat → List (Nat × Word × Word)
  | [] => []
  | l :: r => (l, ident, v l) :: scanFrom g v (v l) r

/-- The price of REDL and SCANL (R261). -/
def scanPrice (t : ETy) : Nat := if t.isFloat then floatPrice t else 0

/-- R277: the values of the lanes, written by `pick` of the scan. -/
def laneScan (op : ROp) (t : ETy) (r : Rnd) (sm : SReg) (vd va : LReg) (pick : List (Nat × Word × Word) → Nat → Word) (s : State) : State :=
  laneOp (laneGate [t] t [vd, va] []) t sm (scanPrice t) vd (fun s l =>
    let ident := elem1 t (fun _ => laneIdentity op t) 0
    pick (scanLanes (stepVal op t r) (fun l => s.laneVal t va l) ident (s.activeLanes sm)) l) s

/-- R277: REDL. -/
def execRedl (op : ROp) (t : ETy) (r : Rnd) (sm : SReg) (vd va : LReg) (s : State) : Out :=
  .next (laneScan op t r sm vd va (fun x _ => (x.getLastD (0, 0, 0)).2.2) s)
/-- R277: SCANL. -/
def execScanl (op : ROp) (excl : Bool) (t : ETy) (r : Rnd) (sm : SReg) (vd va : LReg) (s : State) : Out :=
  .next (laneScan op t r sm vd va (fun x l => match x.find? fun e => e.1 == l with
    | some e => if excl then e.2.1 else e.2.2
    | none => 0) s)

/-! ### Moves (R234) -/

/-- R234: MOVL. -/
def execMovl (t : ETy) (sm : SReg) (vd va : LReg) (s : State) : Out :=
  .next (laneOp (laneGate [t] t [vd, va] []) t sm 0 vd (fun s l => s.laneVal t va l) s)
/-- R234: MOVSL. -/
def execMovsl (t : ETy) (sm : SReg) (vd : LReg) (sa : SReg) (s : State) : Out :=
  .next (laneOp (laneGate [t] t [vd] []) t sm 0 vd (fun s _ => s.rs sa) s)
/-- R234: MOVLS reads lane `k` whatever the mask; a lane beyond a narrow pack reads zero. -/
def execMovls (t : ETy) (sm : SReg) (sd : SReg) (va : LReg) (k : BitVec 6) (s : State) : Out :=
  .next (laneGated s (laneGate [t] t [va] []) sm 0 fun s => s.setS sd (if k.toNat < s.me.width then s.laneVal t va k.toNat else 0))

/-! ### PMMA (R278, R279) -/

/-- A fragment multiply's shape. -/
structure Frag where
  n : Nat
  k : Nat
  acc : Fmt
  /-- the code of a(i, k), b(k, j) and c(i, j) -/
  a : Nat → Nat → Val
  b : Nat → Nat → Val
  c : Nat → Nat → Nat

/-- R279: one element of D. -/
def fragElem (f : Frag) (i j : Nat) : Nat :=
  accumulate f.acc false (f.c i j) (sumVals ((rangeFrom 0 f.k).map fun k => prodVal (f.a i k) (f.b k j)))

/-- Element `e` of a bf16 register. -/
def bfElem (s : State) (r lane e : Nat) : Val := decodeFmt bf16Fmt (fieldNat (s.rv r lane) (16 * e) 16)

/-- R278: bf16 in a 64-thread pack. -/
def fragFull (s : State) (va vb vc : Nat) : Frag :=
  { n := 16, k := 16, acc := f32Fmt
    a := fun i k => bfElem s (va + k % 4 / 2) (i + 16 * (k / 4)) (k % 2)
    b := fun k j => bfElem s (vb + k % 4 / 2) (j + 16 * (k / 4)) (k % 2)
    c := fun i j => (s.rv (vc + j % 4) (i + 16 * (j / 4))).toNat }

/-- R278: bf16 in narrow mode. -/
def fragNarrow (s : State) (va vb vc : Nat) : Frag :=
  { n := 8, k := 16, acc := f32Fmt
    a := fun i k => bfElem s (va + k % 8 / 2) (i + 16 * (k / 8)) (k % 2)
    b := fun k j => bfElem s (vb + k % 4 / 2) (j + 8 * (k / 4)) (k % 2)
    c := fun i j => (s.rv (vc + j % 4) (i + 16 * (j / 4))).toNat }

/-- R278: f64. -/
def fragF64 (s : State) (va vb vc : Nat) : Frag :=
  { n := 8, k := 8, acc := f64Fmt
    a := fun i k => decodeFmt f64Fmt (s.rv64 va (8 * i + k)).toNat
    b := fun k j => decodeFmt f64Fmt (s.rv64 vb (8 * k + j)).toNat
    c := fun i j => (s.rv64 vc (8 * i + j)).toNat }

/-- R278: row and first column of a thread's fragment of D. -/
def fragPlace (t : ETy) (lane : Nat) : Nat × Nat := if t == .f64 then (lane / 8, lane % 8) else (lane % 16, 4 * (lane / 16))

/-- R278: what PMMA needs, in a narrow pack or a full one. -/
def pmmaGate (narrow : Bool) (t : ETy) (vd va vb vc : LReg) : Gate :=
  let d := t == .f64
  let na := if d then 2 else if narrow then 4 else 2
  let nc := if d then 2 else 4
  { feats := 1 :: fp64 [t], new6 := d, regs := [(va.toNat, na), (vb.toNat, 2), (vc.toNat, nc), (vd.toNat, nc)]
    odd := va.toNat % na != 0 || vb.toNat % 2 != 0 || vc.toNat % nc != 0 || vd.toNat % nc != 0 }

/-- R278, R279: PMMA. -/
def execPmma (t : ETy) (sm : SReg) (vd va vb vc : LReg) (s : State) : Out :=
  let d := t == .f64
  .next (laneGated s (pmmaGate s.me.narrow t vd va vb vc) sm (if d then 24 else 16) fun s =>
    let f := if d then fragF64 s va.toNat vb.toNat vc.toNat
             else if s.me.narrow then fragNarrow s va.toNat vb.toNat vc.toNat else fragFull s va.toNat vb.toNat vc.toNat
    let put (c : Ctx) (l : Nat) : Ctx :=
      let p := fragPlace t l
      if d then c.setLane64 vd.toNat l (BitVec.ofNat 64 (fragElem f p.1 p.2))
      else (rangeFrom 0 4).foldl (fun c j => c.setLane (vd.toNat + j) l (BitVec.ofNat 32 (fragElem f p.1 (p.2 + j)))) c
    (s.setMe ((s.activeLanes sm).foldl put s.me)).advance)

end Sys2Proof.Machine
end

