-- ==== Sys2Proof/Machine/Power.lean ====
section
/-! DEFINITION. The Palette ring and the hub's grants (R323 to R331), issue selection, reservations and the locality throttle (R334 to
R339), operating points, temperature, wear and boost (R350 to R355). -/

namespace Sys2Proof.Machine

/-- Hub cycles of a span of milliseconds (R5: the hub clock runs at 2 GHz). -/
def msCycles (ms : Nat) : Nat := ms * 2000000

/-- The dies with a Palette ring. -/
def ringDies : List Nat := rangeFrom 1 6


/-- Is any core of a die hungry? -/
def dieHungry (s : State) (n : Nat) : Bool := (coresAt n).any fun c => (s.core c).hungry

/-! ### The ring (R323 to R325) -/

/-- R323: the stops of a die's ring. -/
def stopsOf (n : Nat) : Nat := (coresOfSite n).2 + 1

/-- The flits of a die by the stop they stand at; empty ones at first. -/
def flitsOf (s : State) (n : Nat) : List (Nat × Nat) :=
  let l := (s.die n).flits
  if l.length = stopsOf n then l else List.replicate (stopsOf n) (0, 0)

/-- R323: every flit moves on by one stop; the last core's returns to the hub stop. -/
def rotate (l : List (Nat × Nat)) : List (Nat × Nat) := l.drop (l.length - 1) ++ l.take (l.length - 1)

/-- R325: the flit at a core's stop after the core has captured or released, and how many tokens it captured. -/
def coreStop (s : State) (n c : Nat) (flit : Nat × Nat) : State × (Nat × Nat) × Nat :=
  let k := s.core c
  let wmark := hubF s (corectl c) 16 16
  let put (got : Nat) (k' : Core) : Core :=
    let since := match k.wantSince with
      | some t => t
      | none => s.cycles
    { k' with tokens := k.tokens + got, wantSince := if k.want ≠ 0 ∧ k.tokens + got < k.want then some since else none }
  if wmark < k.tokens then
    let out := min (k.tokens - wmark) (2047 - flit.1)
    (s.setCore c { k with tokens := k.tokens - out }, (flit.1 + out, flit.2), 0)
  else
    let lacks := if dieHungry s n then (if k.hungry then k.want - k.tokens else 0) else wmark - k.tokens
    let got := min flit.1 lacks
    if got = 0 then (s, flit, 0) else (s.setCore c (put got k), (flit.1 - got, flit.2), got)

/-- R325: every core stop of a die acts on its flit. -/
def coreStops (n : Nat) : List Nat → List (Nat × Nat) → State → State × List (Nat × Nat) × Nat
  | c :: cs, f :: fs, s =>
    match coreStop s n c f with
    | (s, f, got) =>
      match coreStops n cs fs s with
      | (s, fs, sum) => (s, f :: fs, got + sum)
  | _, fs, s => (s, fs, 0)

/-- R324: the hub stop returns the arriving flit's tokens to the reserve, discarding those of an ended period, and loads it afresh. -/
def hubStop (d : Die) (flit : Nat × Nat) : Die × (Nat × Nat) :=
  let reserve := d.reserve + (if flit.2 = d.period then flit.1 else 0)
  let load := min 2047 reserve
  ({ d with reserve := reserve - load }, (load, d.period))

/-- R324, R325: one hub cycle of a die's ring. Units that wait for tokens are served from what their core has captured (R327). -/
def execRingHubCycle (site : Nat) (s : State) : Out :=
  .next (
    if !ringDies.contains site then s
    else
      match rotate (flitsOf s site) with
      | [] => s
      | f :: fs =>
        match hubStop (s.die site) f, coreStops site (coresAt site) fs s with
        | (d, f), (s, fs, got) =>
          let s := s.setDie site { d with flits := f :: fs, used := d.used + got }
          (coresAt site).foldl (fun s c => if kindOf (unitId c 0) = .ctl ∧ (!(s.core c).tokq.isEmpty ∨ (s.core c).want ≠ 0) then serveTokens s c else s) s)

/-! ### The hub's grants (R330, R331, R355) -/

/-- A die's share in the computation of R331. -/
structure Share where
  site : Nat
  floor : Nat
  cap : Nat
  give : Nat
  weight : Nat
  deriving DecidableEq, Repr

/-- R330, R331, R353: a die's floor, cap and weight. -/
def shareOf (s : State) (n : Nat) : Share :=
  let cs := (coresOfSite n).2
  let used := (s.die n).used
  { site := n, floor := if dieHungry s n then 1536 * cs else 0,
    cap := if hubF s (0xA40 + 8 * n) 16 1 = 1 then 0 else used + used / 4 + 4096 * cs, give := 0, weight := hubF s (0xA40 + 8 * n) 0 16 }

/-- R331: one of the two passes over the dies that are still open. -/
def sharePass (avail : Nat) (l : List Share) : List Share :=
  let w := ((l.filter fun x => decide (x.give < x.cap)).map (·.weight)).sum
  let pot := avail - (l.map (·.give)).sum
  l.map fun x => if x.give < x.cap then { x with give := min x.cap (x.give + pot * x.weight / w) } else x

/-- R331: every die's share under a package allowance in watts. -/
def shares (s : State) (watts : Nat) : List Share :=
  let l := ringDies.map (shareOf s)
  let avail := (watts - hubF s 0xA00 16 16) * 1000000 / 256 - (l.map (·.floor)).sum
  sharePass avail (sharePass avail l)

/-- R354, R355: k of a domain. -/
def wearK (s : State) (c : Nat) : Nat := 16 * (s.hubR (0x2000 + 8 * c)).toNat / Config.wearMax.toNat

/-- R355: may a boost window open? -/
def boostAllowed (s : State) : Bool :=
  s.boostOpen.isNone &&
  (match s.boostLast with
    | none => true
    | some t => decide (t + 10 * msCycles (hubF s 0xA00 48 8) ≤ s.cycles)) &&
  (rangeFrom 64 320).all fun c => decide (wearK s c ≤ 11)

/-- R355: opens a boost window where demand exceeds what the budget grants. -/
def tryBoost (s : State) (l : List Share) : State :=
  if boostAllowed s && l.any (fun x => decide (x.give < x.cap)) then { s with boostOpen := some s.cycles } else s

/-- R355: a boost window that has lasted BOOSTMS ends. -/
def closeBoost (s : State) : State :=
  match s.boostOpen with
  | some t => if t + msCycles (hubF s 0xA00 48 8) ≤ s.cycles then { s with boostOpen := none, boostLast := some s.cycles } else s
  | none => s

/-- R331: a die's grant for the period that starts. -/
def grantDie (s : State) (x : Share) : State :=
  let off := 0xA40 + 8 * x.site
  let s := setHubF (setHubF s off 32 32 (x.floor + x.give)) off 17 1 (if x.give < x.cap then 1 else 0)
  let d := s.die x.site
  s.setDie x.site { d with reserve := x.floor + x.give, used := 0, period := d.period + 1 }

/-- R324, R331: a refill period starts. -/
def execRefillPeriod (s : State) : Out :=
  .next (
    let s := closeBoost s
    let s := tryBoost s (shares s (hubF s 0xA00 0 16))
    (shares s (if s.boostOpen.isSome then hubF s 0xA00 32 16 else hubF s 0xA00 0 16)).foldl grantDie s)

/-- R355: a boost window ends. -/
def execBoostWindowEnd (s : State) : Out :=
  .next (
    match s.boostOpen with
    | some _ => { s with boostOpen := none, boostLast := some s.cycles }
    | none => s)

/-! ### Hunger and reservations (R329, R337) -/

/-- R329: WANT has exceeded COUNT for two revolutions without a break: the core becomes hungry, unless it has left hunger in this round. -/
def execCoreHungry (core : Nat) (s : State) : Out :=
  .next (
    let k := s.core core
    match k.wantSince with
    | none => s
    | some t =>
      if k.hungry || k.served || k.want = 0 || core < 64 then s
      else { s.setCore core { k with hungry := true } with cycles := max s.cycles (t + 2 * stopsOf (siteOfCore core)) })

/-- Hub cycles that `n` front-end cycles of a core take, rounded up. -/
def frontEnd (s : State) (c n : Nat) : Nat := ceilDiv (80 * n) (max 1 (hubF s (corectl c) 32 8))

/-- Since when a pack's wide instruction has been short of tokens. -/
def shortSince (s : State) (u : Nat) : Nat :=
  match (s.ctx u).needs with
  | some n => n.2
  | none => 0

/-- R337: did pack `u` ask for a reservation before `v`: in an earlier cycle, or in the same one from a lower core slot? -/
def asksBefore (s : State) (u v : Nat) : Bool :=
  decide (shortSince s u < shortSince s v) || (shortSince s u == shortSince s v && decide (u < v))

/-- R337: a pack's wide instruction has been short of tokens for 64 front-end cycles: it asks for a reservation. One granted in the same
cycle to a higher core slot comes after it. -/
def execReservationRequest (u : Nat) (s : State) : Out :=
  .next (
    let c := coreOf u
    let k := s.core c
    match (s.ctx u).needs with
    | none => s
    | some (price, since) =>
      if !(s.ctx u).live || decide (price ≤ k.tokens) || k.reserve == some u || k.reserveq.contains u then s
      else
        let asked := since + frontEnd s c 64
        let s := { s with cycles := max s.cycles asked }
        let line := k.reserveq.filter (fun v => asksBefore s v u) ++ u :: k.reserveq.filter fun v => !asksBefore s v u
        match k.reserve with
        | none => setWant (s.setCore c { k with reserve := some u }) c price
        | some v =>
          if s.cycles = asked ∧ shortSince s v = since ∧ u < v then
            setWant (s.setCore c { k with reserve := some u, reserveq := v :: k.reserveq }) c price
          else s.setCore c { k with reserveq := line })

/-! ### Issue selection (R334, R335) -/

/-- R219, R261: the full price of a lane word. -/
def wordPrice (h : LHead) : Nat :=
  let float (f64 other : Nat) : Nat := if h.ty = 5 then f64 else if h.ty = 4 ∨ h.ty = 6 ∨ h.ty = 7 then other else 0
  let op := h.op.toNat
  if 0x20 ≤ op ∧ op ≤ 0x25 then float 2 1
  else if 0x26 ≤ op ∧ op ≤ 0x2D then 3
  else if 0x30 ≤ op ∧ op ≤ 0x32 then 1
  else if op = 0x3D ∨ op = 0x3E then float 2 1
  else if op = 0x48 then float 24 16
  else if op = 0x50 ∨ op = 0x51 ∨ op = 0x54 ∨ op = 0x56 ∨ op = 0x57 then 2
  else if op = 0x52 ∨ op = 0x53 ∨ op = 0x55 ∨ op = 0x58 then 1
  else 0

/-- R307: front-end cycles a word of a pack occupies its quarter for, at the core's ratio. -/
def wordCycles (s : State) (u : Nat) (w : Word) : Nat :=
  if field w 62 2 ≠ 1 then 1
  else
    let h := lHead w
    let quick := decide (0x20 ≤ h.op.toNat ∧ h.op.toNat ≤ 0x23) && h.ty != 5
    let lane := (if quick then 2 else 4) / (if (s.ctx u).narrow then 2 else 1)
    match (s.core (coreOf u)).ratio with
    | 0 => 2 * lane
    | 1 => lane
    | _ => max 1 (lane / 2)

/-- Is what a unit waits for over, so that its next instruction is ready? -/
def waitDone (s : State) (u : Nat) : Bool :=
  let t := { s with cur := u }
  match (s.ctx u).wait with
  | .none | .issue => true
  | .bar b | .barwt b => !barWaits t b
  | .cohbar => (match myCohort t with
      | some x => !x.2.bar.waits (myName t)
      | none => true)
  | .nap e => decide (e ≤ s.cycles)
  | .lwait e => decide (e ≤ s.hubTime)
  | .event | .halted => (s.ctx u).evt
  | .tbwait a n => tbMbz (tbRead t a) != 0 || tbExpect (tbRead t a) == 0 || tbPhase (tbRead t a) == n
  | .acwait n => acCount t.me n == 0
  | .qwait q v => decide (v ≤ t.me.counter q)
  | .popq => !t.me.oq.isEmpty
  | .room q | .pushm q _ => decide ((t.me.entries q).length < qSize q)
  | .launch q _ => decide ((s.queue q).length < 64)
  | .lwaitAck | .release | .pushmRel _ _ => acknowledged s
  | .copies => t.me.aclanes.isEmpty
  | .tags n => acCount t.me n != 255
  | .records => recordsGone t.me
  | .marks => decide (t.me.lq.length < 32) && decide (t.me.sq.length < 32)
  | .slot n => !slotBusy t n

/-- R321: a context of a control core that has yielded waits while another context of its core is ready, the shadow context among them. -/
def yieldsNow (s : State) (u : Nat) : Bool :=
  (kindOf u == .ctl || kindOf u == .shadow) && (s.core (coreOf u)).yielded == some (u % 128) &&
  (rangeFrom 0 5).any fun j => j != u % 128 && mayIssue s (unitId (coreOf u) j) && waitDone s (unitId (coreOf u) j)

/-- R39, R40: the word at the PC of the acting unit, with the second of a long instruction fetched too; none where the fetch faults. -/
def wordHere (s : State) : Option Word :=
  match fetchWord s s.cur s.me.mode s.me.pc with
  | (_, .error _) => none
  | (s, .ok w) =>
    if !isLongFirst w then some w
    else match (fetchWord s s.cur s.me.mode (s.me.pc + 8)).2 with
      | .ok _ => some w
      | .error _ => none

/-- R56, R260: is a word a lane instruction without an active lane, which is not issued? -/
def maskedOut (s : State) (w : Word) : Bool := field w 62 2 == 1 && s.activeMask (lHead w).sm == 0

/-- R55, R259: what a wide lane instruction needs; none for an instruction of price 0. -/
def wideGate (narrow : Bool) : Instr → Option Gate
  | .fadd t _ _ vd va vb | .fsub t _ _ vd va vb | .fmul t _ _ vd va vb | .fdiv t _ _ vd va vb | .fmin t _ vd va vb | .fmax t _ vd va vb =>
    some (laneGate [t] t [vd, va, vb] [])
  | .frcp t _ vd va | .frsq t _ vd va | .fex2 t _ vd va | .flg2 t _ vd va | .fsin t _ vd va | .fcos t _ vd va | .fsqrt t _ _ vd va
  | .redl _ t _ _ vd va | .scanl _ _ t _ _ vd va => some (laneGate [t] t [vd, va] [])
  | .ffma t _ _ vd va vb vc => some (laneGate [t] t [vd, va, vb, vc] [])
  | .cvt d src _ f _ vd va => some (cvtGate d src f vd va)
  | .packb _ _ f _ vd va vb => some (packGate8 f [vd, va, vb])
  | .unpkb _ _ f _ vd va => some (packGate8 f [vd, va])
  | .pmma t _ vd va vb vc => some (pmmaGate narrow t vd va vb vc)
  | .ldl t _ _ _ vd va vb | .stl t _ _ _ vd va vb => some (globalGate t [vd] va [vb])
  | .ldlImm t _ _ _ vd va _ | .stlImm t _ _ _ vd va _ => some (globalGate t [vd] va [])
  | .ldsh t _ vd va vb | .stsh t _ vd va vb => some (sharedGate t [vd] [va, vb])
  | .ldshImm t _ vd va _ | .stshImm t _ vd va _ => some (sharedGate t [vd] [va])
  | .atoml _ t _ _ _ vd va vb => some (globalGate t [vd, vb] va [])
  | .casl t _ _ _ vd va vb vc => some (globalGate t [vd, vb, vc] va [])
  | .atomsh _ t _ _ _ vd va vb => some (sharedGate t [vd, vb] [va])
  | .redst t _ vd va vb => some (redstGate t vd va [vb])
  | .redstImm t _ vd va _ => some (redstGate t vd va [])
  | .acpy _ _ _ vd va vb => some (acpyGate vd va vb)
  | _ => none

/-- R327: does a lane word raise ILLEGAL at decode, which is before issue and asks for no token? -/
def illegalHere (s : State) (w : Word) : Bool :=
  match decodeWord w none with
  | .error _ => true
  | .ok i => match wideGate s.me.narrow i with
    | some g => (gateCause s { g with scope := none }).isSome
    | none => false

/-- R334: is a pack eligible, and how long will its next instruction occupy the quarter? -/
def eligible (s : State) (u : Nat) : Option Nat :=
  let c := s.ctx u
  if !mayIssue s u || !waitDone s u then none
  else
    let t := { s with cur := u }
    match wordHere t with
    | none => some 1
    | some w =>
      let h := lHead w
      if field w 62 2 ≠ 1 || maskedOut t w || illegalHere t w then some 1
      else if canPay t (c.price (wordPrice h)) && (h.op != 0x50 || ldlPermitted t) then some (wordCycles s u w)
      else none

/-- The packs of a tenant on a quarter that are eligible, with what each would occupy. -/
def eligiblePacks (s : State) (core quarter e : Nat) : List (Nat × Nat) :=
  (rangeFrom 0 64).filterMap fun i =>
    let u := unitId core i
    let c := s.ctx u
    if c.live ∧ c.quarter = quarter ∧ c.part.bind (tenantOf s core) = some e then (eligible s u).map fun n => (u, n) else none

/-- A tenant's deficit counter on a quarter. -/
def deficitOf (k : Core) (quarter e : Nat) : Int := Sparse.get (fun _ => (0 : Int)) k.deficit (quarter * 8 + e)

/-- R335: while no tenant with an eligible pack is in credit, every tenant's counter rises by its weight. -/
def refillDeficit (s : State) (core quarter : Nat) (es : List Nat) : Nat → Core → Core
  | 0, k => k
  | n + 1, k =>
    if es.any fun e => decide (0 < deficitOf k quarter e) then k
    else
      refillDeficit s core quarter es n ((rangeFrom 0 8).foldl (fun k e =>
        if (tenantOwner s core e).isSome then
          { k with deficit := Sparse.set k.deficit (quarter * 8 + e) (deficitOf k quarter e + tenantWeight s core e) }
        else k) k)

/-- R334: of a tenant's packs the one of the earliest age, the lower core slot on a tie. -/
def oldestPack (s : State) : List (Nat × Nat) → Option (Nat × Nat)
  | [] => none
  | x :: r =>
    match oldestPack s r with
    | none => some x
    | some y => if (s.ctx x.1).age ≤ (s.ctx y.1).age then some x else some y

/-- The tenants with an eligible pack on a quarter. -/
def readyTenants (s : State) (core quarter : Nat) : List Nat := (rangeFrom 0 8).filter fun e => !(eligiblePacks s core quarter e).isEmpty

/-- R335: a tenant with no eligible pack keeps no positive deficit counter. -/
def idleDeficit (quarter : Nat) (ready : List Nat) (k : Core) : Core :=
  (rangeFrom 0 8).foldl (fun k e =>
    if ready.contains e || decide (deficitOf k quarter e ≤ 0) then k
    else { k with deficit := Sparse.set k.deficit (quarter * 8 + e) 0 }) k

/-- What a quarter's selection names: the pack, the front-end cycles it occupies the quarter for, and its tenant. -/
structure Pick where
  unit : Nat
  cycles : Nat
  tenant : Nat
  deriving DecidableEq, Repr

/-- R334, R335: the tenant a quarter chooses and its oldest eligible pack, with the counters as the choice leaves them. -/
def pick (s : State) (core quarter : Nat) : State × Option Pick :=
  let ready := readyTenants s core quarter
  let k := idleDeficit quarter ready (if ready.isEmpty then s.core core else refillDeficit s core quarter ready 8 (s.core core))
  let last := Sparse.get (fun _ => 7) k.lastTenant quarter
  let chosen := ((rangeFrom 1 8).map fun i => (last + i) % 8).find? fun e => ready.contains e && decide (0 < deficitOf k quarter e)
  (s.setCore core k, chosen.bind fun e => (oldestPack s (eligiblePacks s core quarter e)).map fun x => ⟨x.1, x.2, e⟩)

/-- R307, R327: the front-end cycle in which a quarter can next issue: once it is free, and after the quarters below it in the cycle. -/
def nextCycle (k : Core) (quarter : Nat) : Nat :=
  max (Sparse.get (fun _ => 0) k.quarterFree quarter) (if k.issueAt.2 < quarter then k.issueAt.1 else k.issueAt.1 + 1)

/-- R327, R334: is it a quarter's turn: of the quarters that have an eligible pack, does it issue first? -/
def quarterTurn (s : State) (core quarter : Nat) : Bool :=
  let at_ (q : Nat) : Nat := nextCycle (s.core core) q
  (rangeFrom 0 4).all fun q =>
    q == quarter || (readyTenants s core q).isEmpty || decide (at_ quarter < at_ q) || (at_ quarter == at_ q && decide (quarter < q))

/-- R334, R335: a quarter chooses a tenant and its oldest eligible pack, whose issue is the next step (log 3). -/
def execIssueSelection (core quarter : Nat) (s : State) : Out :=
  .next (
    if core < Config.simtBase ∨ Config.sysBase ≤ core ∨ 4 ≤ quarter || !quarterTurn s core quarter then s
    else
      match pick s core quarter with
      | (t, none) => t
      | (t, some x) => { t with script := .run x.unit :: t.script })

/-- Is a unit a pack of a tenant, whose issue the quarter's selection governs? -/
def selected (s : State) (u : Nat) : Bool := kindOf u == .pack && ((s.ctx u).part.bind (tenantOf s (coreOf u))).isSome

/-- R334: the state a unit's turn begins in: a pack that its quarter chooses now has its tenant's counter as the choice leaves it. -/
def pickFor (s : State) (u : Nat) : State × Option Pick :=
  let core := coreOf u
  let q := (s.ctx u).quarter
  if !selected s u || !quarterTurn s core q then (s, none)
  else
    match pick s core q with
    | (t, some x) => if x.unit = u then (t, some x) else (s, none)
    | (_, none) => (s, none)

/-- R327: did a turn end in the entry of an exception that is found at decode? -/
def decodeTrap (before after : Ctx) : Bool :=
  let e := after.exc after.mode
  (field e.cause 0 8 == cILLEGAL || field e.cause 0 8 == cPRIV) && after.mode != 0 && after.pmode == before.mode && e.epc == before.pc &&
  after.pc == e.fhandler

/-- R56, R260, R314, R327: did the turn of the unit that acts in `b`, which gave `t`, issue an instruction? One that waits in an instruction it
has issued only looks; an instruction that is not ready, that could not be fetched, that has no active lane or that is refused at decode does
not issue, and a unit at the end address executes none. -/
def issues (b t : State) : Bool :=
  let after := t.ctx b.cur
  (!after.live ||
    (match b.me.wait, after.wait with
      | .bar _, _ | .cohbar, _ | .nap _, _ | .lwait _, _ => false
      | _, .none | _, .bar _ | _, .cohbar | _, .nap _ | _, .lwait _ => true
      | _, _ => false)) &&
  !standsAtEnd b && !(after.live && decodeTrap b.me after) &&
  (match wordHere b with
    | some w => !maskedOut b w
    | none => false)

/-- R334, R335: an issue of a pack: its age is now; its quarter is occupied, and its tenant is charged and was chosen last. -/
def charge (s : State) (x : Option Pick) (t : State) : State :=
  let u := s.cur
  let quarter := s.me.quarter
  let t := if (t.ctx u).live then t.setCtx u { t.ctx u with age := t.cycles } else t
  match x with
  | none => t
  | some x =>
    let core := coreOf u
    let k := t.core core
    let now := nextCycle (s.core core) quarter
    t.setCore core { k with
      deficit := Sparse.set k.deficit (quarter * 8 + x.tenant) (deficitOf k quarter x.tenant - x.cycles)
      lastTenant := Sparse.set k.lastTenant quarter x.tenant
      issueAt := (now, quarter)
      quarterFree := Sparse.set k.quarterFree quarter (now + x.cycles) }

/-- R321: the acting context of a control core has issued in `s`, which gave `t`: a YIELD before this instruction has had its effect. A
context that waited in an instruction has fetched none in this turn. -/
def yieldOver (s t : State) : State :=
  let issued := t.setCore (coreOf s.cur) { t.core (coreOf s.cur) with yielded := none }
  if s.me.wait ≠ .none then issued
  else
    match decodeWord t.word none with
    | .ok .yield => t
    | _ => issued

/-- R321, R334: the end of the turn of the unit that acts in `s`, which gave `t`: a pack of a tenant issues only where its quarter chose it; in
any other turn it takes no step (log 3). -/
def endTurn (s : State) (x : Option Pick) (t : State) : Option State :=
  if !issues s t then some t
  else match kindOf s.cur with
    | .host => some t
    | .ctl | .shadow => some (yieldOver s t)
    | .pack => if selected s s.cur ∧ x.isNone then none else some (charge s x t)

/-! ### The locality throttle (R339) -/

/-- R339: an epoch of a SIMT core's throttle ends. -/
def execLocalityEpoch (core : Nat) (s : State) : Out :=
  .next (
    if core < Config.simtBase ∨ Config.sysBase ≤ core then s
    else
      let site := siteOfCore core
      let off := 0x100200 + 8 * (core - (coresOfSite site).1)
      let w := s.winR site off
      let score := fieldNat w 0 16
      let n := fieldNat w 16 7
      let keep := ((rangeFrom 0 64).map (unitId core)).filter fun u => (s.ctx u).live && ldlPermitted { s with cur := u }
      let n' :=
        if !bitAt w 48 then 64
        else if fieldNat w 32 8 < score then max (n / 2) 2
        else if score < fieldNat w 40 8 then min (2 * n) 64
        else n
      let w := setField (setField (setField w 24 6 ((fieldNat w 24 6 + n) % 64)) 16 7 n') 0 16 (score / 2)
      (s.setWin site off w).setCore core { s.core core with locKeep := keep })

/-! ### Operating points (R350, R351) -/

/-- R350, R351: a write of FREQ and RATIO. -/
def execOperatingPointRequest (core freq ratio : Nat) (s : State) : Out :=
  .next (if core < 384 then corectlWrite s core (setField (setField (s.hubR (corectl core)) 8 8 freq) 0 2 ratio) else s)

/-- R351: the regulator of a core moves by 5 mV; a higher point takes effect once the voltage has settled. -/
def execVoltageStep (core : Nat) (s : State) : Out :=
  .next (
    if 384 ≤ core then s
    else
      let k := s.core core
      let point := k.pending.getD (hubF s (corectl core) 32 8, k.ratio)
      let target := pointVolt core point.1 point.2
      let v := voltNow s core
      let v' := if v < target then min target (v + 5) else max target (v - 5)
      if v' = target then
        setHubF (setHubF (s.setCore core { k with volt := some v', ratio := point.2, pending := none }) (corectl core) 32 8 point.1) (corectl core) 40 1 0
      else s.setCore core { k with volt := some v' })

/-! ### Temperature (R352, R353) -/

/-- R352: a transition of a die's throttle: its cores' points are requested anew, and an event is presented by the die's agent. -/
def throttle (s : State) (n : Nat) (on temp : Nat) : State :=
  let s := setHubF s (0xA80 + 8 * n) 16 1 on
  let s := s.setDie n { s.die n with lastTransition := some s.cycles, coolSince := none }
  let s := (coresAt n).foldl (fun s c => requestPoint (setHubF s (corectl c) 41 1 on) c) s
  presentEvent s 3 (n + 1) 0 none 0 (BitVec.ofNat 64 (1000 * temp))

/-- R352, R353: a die's temperature is sampled, in °C: the highest reading of its sensors, of which `sensors` are the cores' own. The host
cores' sensors are read for R344 alone. -/
def execThermalSample (site temp : Nat) (sensors : List Nat) (s : State) : Out :=
  .next (
    if site = 0 then s.setDie 0 { s.die 0 with sensors := sensors }
    else if !ringDies.contains site then s
    else
      let t := min 255 (sensors.foldl max temp)
      let off := 0xA80 + 8 * site
      let clamp (s : State) (v : Nat) : State := setHubF s (0xA40 + 8 * site) 16 1 v
      let s := setHubF (s.setDie site { s.die site with sensors := sensors }) off 8 8 t
      let thr := hubF s off 0 8
      let d := s.die site
      let rested := match d.lastTransition with
        | none => true
        | some x => decide (x + msCycles 4 ≤ s.cycles)
      if hubF s off 16 1 = 0 then
        (if thr ≤ t then (if rested then throttle (clamp s 0) site 1 t else clamp s 1) else clamp s 0)
      else
        let s := if t < thr then clamp s 0 else s
        if t + 3 ≤ thr then
          let since := d.coolSince.getD s.cycles
          let s := s.setDie site { s.die site with coolSince := some since }
          if rested && decide (since + msCycles 2 ≤ s.cycles) then throttle s site 0 t else s
        else s.setDie site { s.die site with coolSince := none })

/-! ### Wear (R354, R355) -/

/-- The largest number of `n` bits, above a prefix, whose 50th power is at most a bound. -/
def root50 (bound : Nat) : Nat → Nat → Nat
  | 0, w => w
  | n + 1, w => root50 bound n (if (w + 2 ^ n) ^ 50 ≤ bound then w + 2 ^ n else w)

/-- R354: the increment of a domain at a voltage and a temperature: ⌊2^(8 + x/50)⌋ with x = (V − 750) + 5 (T − 85), and at least 1. -/
def wearStep (mv : Nat) (temp : Int) : Nat :=
  let x : Int := 400 + ((mv : Int) - 750) + 5 * (temp - 85)
  if x < 0 then 1 else max 1 (root50 (2 ^ x.toNat) (x.toNat / 50 + 1) 0)

/-- R355: CEIL of a core, in units of 25 MHz. -/
def ceilOf (s : State) (c : Nat) : Nat := (if c < 64 then 120 else 80) - wearK s c

/-- R354, R355: a domain's wear counter rises; its boost ceiling follows. A core's voltage is its regulator's; the hub's is given. -/
def execWearUpdate (domain mv : Nat) (temp : Int) (s : State) : Out :=
  .next (
    if 384 < domain then s
    else
      let off := 0x2000 + 8 * domain
      let v := if domain < 384 then voltNow s domain else mv
      let new := min ((s.hubR off).toNat + wearStep v temp) Config.wearMax.toNat
      let s := s.setHub off (BitVec.ofNat 64 new)
      let s :=
        if domain < 384 ∧ hubF s (corectl domain) 48 8 ≠ ceilOf s domain then
          requestPoint (setHubF s (corectl domain) 48 8 (ceilOf s domain)) domain
        else s
      tryBoost s (shares s (hubF s 0xA00 0 16)))

end Sys2Proof.Machine
end

