-- ==== Sys2Proof/Machine/Dispatch.lean ====
section
/-! DEFINITION. The dispatch: one arm per constructor of `Instr`, each one direct call of its meaning. -/

namespace Sys2Proof.Machine

/-- The effect of one instruction, record, packet, command or event. -/
def exec (i : Instr) (s : State) : Host.Outcome State Fault Refusal :=
  match i with
  | .add w sd sa sb => Sys2Proof.Machine.execAdd w sd sa sb s
  | .addImm w sd sa imm => Sys2Proof.Machine.execAddImm w sd sa imm s
  | .sub w sd sa sb => Sys2Proof.Machine.execSub w sd sa sb s
  | .subImm w sd sa imm => Sys2Proof.Machine.execSubImm w sd sa imm s
  | .mul w sd sa sb => Sys2Proof.Machine.execMul w sd sa sb s
  | .mulImm w sd sa imm => Sys2Proof.Machine.execMulImm w sd sa imm s
  | .mulh w sd sa sb => Sys2Proof.Machine.execMulh w sd sa sb s
  | .mulhImm w sd sa imm => Sys2Proof.Machine.execMulhImm w sd sa imm s
  | .mulhu w sd sa sb => Sys2Proof.Machine.execMulhu w sd sa sb s
  | .mulhuImm w sd sa imm => Sys2Proof.Machine.execMulhuImm w sd sa imm s
  | .div w sd sa sb => Sys2Proof.Machine.execDiv w sd sa sb s
  | .divImm w sd sa imm => Sys2Proof.Machine.execDivImm w sd sa imm s
  | .divu w sd sa sb => Sys2Proof.Machine.execDivu w sd sa sb s
  | .divuImm w sd sa imm => Sys2Proof.Machine.execDivuImm w sd sa imm s
  | .rem w sd sa sb => Sys2Proof.Machine.execRem w sd sa sb s
  | .remImm w sd sa imm => Sys2Proof.Machine.execRemImm w sd sa imm s
  | .remu w sd sa sb => Sys2Proof.Machine.execRemu w sd sa sb s
  | .remuImm w sd sa imm => Sys2Proof.Machine.execRemuImm w sd sa imm s
  | .and w sd sa sb => Sys2Proof.Machine.execAnd w sd sa sb s
  | .andImm w sd sa imm => Sys2Proof.Machine.execAndImm w sd sa imm s
  | .or w sd sa sb => Sys2Proof.Machine.execOr w sd sa sb s
  | .orImm w sd sa imm => Sys2Proof.Machine.execOrImm w sd sa imm s
  | .xor w sd sa sb => Sys2Proof.Machine.execXor w sd sa sb s
  | .xorImm w sd sa imm => Sys2Proof.Machine.execXorImm w sd sa imm s
  | .andn w sd sa sb => Sys2Proof.Machine.execAndn w sd sa sb s
  | .andnImm w sd sa imm => Sys2Proof.Machine.execAndnImm w sd sa imm s
  | .orn w sd sa sb => Sys2Proof.Machine.execOrn w sd sa sb s
  | .ornImm w sd sa imm => Sys2Proof.Machine.execOrnImm w sd sa imm s
  | .xnor w sd sa sb => Sys2Proof.Machine.execXnor w sd sa sb s
  | .xnorImm w sd sa imm => Sys2Proof.Machine.execXnorImm w sd sa imm s
  | .shl w sd sa sb => Sys2Proof.Machine.execShl w sd sa sb s
  | .shlImm w sd sa amt => Sys2Proof.Machine.execShlImm w sd sa amt s
  | .shr w sd sa sb => Sys2Proof.Machine.execShr w sd sa sb s
  | .shrImm w sd sa amt => Sys2Proof.Machine.execShrImm w sd sa amt s
  | .sar w sd sa sb => Sys2Proof.Machine.execSar w sd sa sb s
  | .sarImm w sd sa amt => Sys2Proof.Machine.execSarImm w sd sa amt s
  | .rol w sd sa sb => Sys2Proof.Machine.execRol w sd sa sb s
  | .rolImm w sd sa amt => Sys2Proof.Machine.execRolImm w sd sa amt s
  | .ror w sd sa sb => Sys2Proof.Machine.execRor w sd sa sb s
  | .rorImm w sd sa amt => Sys2Proof.Machine.execRorImm w sd sa amt s
  | .min w sd sa sb => Sys2Proof.Machine.execMin w sd sa sb s
  | .minImm w sd sa imm => Sys2Proof.Machine.execMinImm w sd sa imm s
  | .max w sd sa sb => Sys2Proof.Machine.execMax w sd sa sb s
  | .maxImm w sd sa imm => Sys2Proof.Machine.execMaxImm w sd sa imm s
  | .minu w sd sa sb => Sys2Proof.Machine.execMinu w sd sa sb s
  | .minuImm w sd sa imm => Sys2Proof.Machine.execMinuImm w sd sa imm s
  | .maxu w sd sa sb => Sys2Proof.Machine.execMaxu w sd sa sb s
  | .maxuImm w sd sa imm => Sys2Proof.Machine.execMaxuImm w sd sa imm s
  | .seq w sd sa sb => Sys2Proof.Machine.execSeq w sd sa sb s
  | .seqImm w sd sa imm => Sys2Proof.Machine.execSeqImm w sd sa imm s
  | .sne w sd sa sb => Sys2Proof.Machine.execSne w sd sa sb s
  | .sneImm w sd sa imm => Sys2Proof.Machine.execSneImm w sd sa imm s
  | .slt w sd sa sb => Sys2Proof.Machine.execSlt w sd sa sb s
  | .sltImm w sd sa imm => Sys2Proof.Machine.execSltImm w sd sa imm s
  | .sltu w sd sa sb => Sys2Proof.Machine.execSltu w sd sa sb s
  | .sltuImm w sd sa imm => Sys2Proof.Machine.execSltuImm w sd sa imm s
  | .sle w sd sa sb => Sys2Proof.Machine.execSle w sd sa sb s
  | .sleImm w sd sa imm => Sys2Proof.Machine.execSleImm w sd sa imm s
  | .sleu w sd sa sb => Sys2Proof.Machine.execSleu w sd sa sb s
  | .sleuImm w sd sa imm => Sys2Proof.Machine.execSleuImm w sd sa imm s
  | .sel sd sa sb sc => Sys2Proof.Machine.execSel sd sa sb sc s
  | .madd w sd sa sb sc => Sys2Proof.Machine.execMadd w sd sa sb sc s
  | .addsh w sd sa sb k => Sys2Proof.Machine.execAddsh w sd sa sb k s
  | .popc w sd sa => Sys2Proof.Machine.execPopc w sd sa s
  | .clz w sd sa => Sys2Proof.Machine.execClz w sd sa s
  | .ctz w sd sa => Sys2Proof.Machine.execCtz w sd sa s
  | .brev w sd sa => Sys2Proof.Machine.execBrev w sd sa s
  | .bfx sd sa sb sc => Sys2Proof.Machine.execBfx sd sa sb sc s
  | .bfxImm sd sa lo wd => Sys2Proof.Machine.execBfxImm sd sa lo wd s
  | .bfxu sd sa sb sc => Sys2Proof.Machine.execBfxu sd sa sb sc s
  | .bfxuImm sd sa lo wd => Sys2Proof.Machine.execBfxuImm sd sa lo wd s
  | .bfi sd sa sb sc => Sys2Proof.Machine.execBfi sd sa sb sc s
  | .bfiImm sd sa lo wd => Sys2Proof.Machine.execBfiImm sd sa lo wd s
  | .mlow sd sa sb => Sys2Proof.Machine.execMlow sd sa sb s
  | .mlowImm sd sa n => Sys2Proof.Machine.execMlowImm sd sa n s
  | .mclr sd sa sb => Sys2Proof.Machine.execMclr sd sa sb s
  | .mclrImm sd sa n => Sys2Proof.Machine.execMclrImm sd sa n s
  | .movi sd imm => Sys2Proof.Machine.execMovi sd imm s
  | .moviN32 sd imm => Sys2Proof.Machine.execMoviN32 sd imm s
  | .moviHi sd imm => Sys2Proof.Machine.execMoviHi sd imm s
  | .movi64 sd imm => Sys2Proof.Machine.execMovi64 sd imm s
  | .br disp => Sys2Proof.Machine.execBr disp s
  | .beq sa sb disp => Sys2Proof.Machine.execBeq sa sb disp s
  | .bne sa sb disp => Sys2Proof.Machine.execBne sa sb disp s
  | .blt sa sb disp => Sys2Proof.Machine.execBlt sa sb disp s
  | .bge sa sb disp => Sys2Proof.Machine.execBge sa sb disp s
  | .bltu sa sb disp => Sys2Proof.Machine.execBltu sa sb disp s
  | .bgeu sa sb disp => Sys2Proof.Machine.execBgeu sa sb disp s
  | .bz sa disp => Sys2Proof.Machine.execBz sa disp s
  | .bnz sa disp => Sys2Proof.Machine.execBnz sa disp s
  | .loop sa disp => Sys2Proof.Machine.execLoop sa disp s
  | .call disp => Sys2Proof.Machine.execCall disp s
  | .callr sa => Sys2Proof.Machine.execCallr sa s
  | .jr sa => Sys2Proof.Machine.execJr sa s
  | .ld sz sx k sd sa sb => Sys2Proof.Machine.execLd sz sx k sd sa sb s
  | .ldImm sz sx sd sa imm => Sys2Proof.Machine.execLdImm sz sx sd sa imm s
  | .st sz k sd sa sb => Sys2Proof.Machine.execSt sz k sd sa sb s
  | .stImm sz sd sa imm => Sys2Proof.Machine.execStImm sz sd sa imm s
  | .ldo sz sx scope sd sa imm => Sys2Proof.Machine.execLdo sz sx scope sd sa imm s
  | .sto sz scope sd sa imm => Sys2Proof.Machine.execSto sz scope sd sa imm s
  | .atom sz op ord scope sd sa sb => Sys2Proof.Machine.execAtom sz op ord scope sd sa sb s
  | .cas sz ord scope sd sa sb sc => Sys2Proof.Machine.execCas sz ord scope sd sa sb sc s
  | .pref lvl wr sa imm => Sys2Proof.Machine.execPref lvl wr sa imm s
  | .fence kind scope => Sys2Proof.Machine.execFence kind scope s
  | .reds sz sa sb => Sys2Proof.Machine.execReds sz sa sb s
  | .bar b => Sys2Proof.Machine.execBar b s
  | .bararr b => Sys2Proof.Machine.execBararr b s
  | .barwt b => Sys2Proof.Machine.execBarwt b s
  | .attach sa disp => Sys2Proof.Machine.execAttach sa disp s
  | .nap sa => Sys2Proof.Machine.execNap sa s
  | .napImm n => Sys2Proof.Machine.execNapImm n s
  | .tbinit sa sb => Sys2Proof.Machine.execTbinit sa sb s
  | .tbarr sa sb => Sys2Proof.Machine.execTbarr sa sb s
  | .tbwait sd sa sb => Sys2Proof.Machine.execTbwait sd sa sb s
  | .cwb sa sb => Sys2Proof.Machine.execCwb sa sb s
  | .cinv sa sb => Sys2Proof.Machine.execCinv sa sb s
  | .cwbi sa sb => Sys2Proof.Machine.execCwbi sa sb s
  | .rrdef fmt op sa sb => Sys2Proof.Machine.execRrdef fmt op sa sb s
  | .rrdrop sa => Sys2Proof.Machine.execRrdrop sa s
  | .dset sa sb sc => Sys2Proof.Machine.execDset sa sb sc s
  | .dget sd sa => Sys2Proof.Machine.execDget sd sa s
  | .movc sd n => Sys2Proof.Machine.execMovc sd n s
  | .mtc n sa => Sys2Proof.Machine.execMtc n sa s
  | .trap n => Sys2Proof.Machine.execTrap n s
  | .time sd => Sys2Proof.Machine.execTime sd s
  | .ppoint k => Sys2Proof.Machine.execPpoint k s
  | .tlbiPage sa => Sys2Proof.Machine.execTlbiPage sa s
  | .acwait t => Sys2Proof.Machine.execAcwait t s
  | .launch sa sb => Sys2Proof.Machine.execLaunch sa sb s
  | .iadd t sat sm vd va vb => Sys2Proof.Machine.execIadd t sat sm vd va vb s
  | .iaddImm t sat sm vd va imm => Sys2Proof.Machine.execIaddImm t sat sm vd va imm s
  | .isub t sat sm vd va vb => Sys2Proof.Machine.execIsub t sat sm vd va vb s
  | .isubImm t sat sm vd va imm => Sys2Proof.Machine.execIsubImm t sat sm vd va imm s
  | .imul t sm vd va vb => Sys2Proof.Machine.execImul t sm vd va vb s
  | .imulImm t sm vd va imm => Sys2Proof.Machine.execImulImm t sm vd va imm s
  | .imulh t sm vd va vb => Sys2Proof.Machine.execImulh t sm vd va vb s
  | .imulhImm t sm vd va imm => Sys2Proof.Machine.execImulhImm t sm vd va imm s
  | .imad t sm vd va vb vc => Sys2Proof.Machine.execImad t sm vd va vb vc s
  | .iand t sm vd va vb => Sys2Proof.Machine.execIand t sm vd va vb s
  | .iandImm t sm vd va imm => Sys2Proof.Machine.execIandImm t sm vd va imm s
  | .ior t sm vd va vb => Sys2Proof.Machine.execIor t sm vd va vb s
  | .iorImm t sm vd va imm => Sys2Proof.Machine.execIorImm t sm vd va imm s
  | .ixor t sm vd va vb => Sys2Proof.Machine.execIxor t sm vd va vb s
  | .ixorImm t sm vd va imm => Sys2Proof.Machine.execIxorImm t sm vd va imm s
  | .ishl t sm vd va vb => Sys2Proof.Machine.execIshl t sm vd va vb s
  | .ishlImm t sm vd va amt => Sys2Proof.Machine.execIshlImm t sm vd va amt s
  | .ishr t sm vd va vb => Sys2Proof.Machine.execIshr t sm vd va vb s
  | .ishrImm t sm vd va amt => Sys2Proof.Machine.execIshrImm t sm vd va amt s
  | .isar t sm vd va vb => Sys2Proof.Machine.execIsar t sm vd va vb s
  | .isarImm t sm vd va amt => Sys2Proof.Machine.execIsarImm t sm vd va amt s
  | .imin t sm vd va vb => Sys2Proof.Machine.execImin t sm vd va vb s
  | .iminImm t sm vd va imm => Sys2Proof.Machine.execIminImm t sm vd va imm s
  | .imax t sm vd va vb => Sys2Proof.Machine.execImax t sm vd va vb s
  | .imaxImm t sm vd va imm => Sys2Proof.Machine.execImaxImm t sm vd va imm s
  | .iabs t sm vd va => Sys2Proof.Machine.execIabs t sm vd va s
  | .ipopc t sm vd va => Sys2Proof.Machine.execIpopc t sm vd va s
  | .iclz t sm vd va => Sys2Proof.Machine.execIclz t sm vd va s
  | .ibfx t sm vd va vb vc => Sys2Proof.Machine.execIbfx t sm vd va vb vc s
  | .ibfxImm t sm vd va lo wd => Sys2Proof.Machine.execIbfxImm t sm vd va lo wd s
  | .isel t sm vd va vb vc => Sys2Proof.Machine.execIsel t sm vd va vb vc s
  | .icmp t c sm sd va vb => Sys2Proof.Machine.execIcmp t c sm sd va vb s
  | .icmpImm t c sm sd va imm => Sys2Proof.Machine.execIcmpImm t c sm sd va imm s
  | .idiv t sm vd va vb => Sys2Proof.Machine.execIdiv t sm vd va vb s
  | .idivImm t sm vd va imm => Sys2Proof.Machine.execIdivImm t sm vd va imm s
  | .fadd t r sm vd va vb => Sys2Proof.Machine.execFadd t r sm vd va vb s
  | .fsub t r sm vd va vb => Sys2Proof.Machine.execFsub t r sm vd va vb s
  | .fmul t r sm vd va vb => Sys2Proof.Machine.execFmul t r sm vd va vb s
  | .ffma t r sm vd va vb vc => Sys2Proof.Machine.execFfma t r sm vd va vb vc s
  | .fmin t sm vd va vb => Sys2Proof.Machine.execFmin t sm vd va vb s
  | .fmax t sm vd va vb => Sys2Proof.Machine.execFmax t sm vd va vb s
  | .fdiv t r sm vd va vb => Sys2Proof.Machine.execFdiv t r sm vd va vb s
  | .fsqrt t r sm vd va => Sys2Proof.Machine.execFsqrt t r sm vd va s
  | .frcp t sm vd va => Sys2Proof.Machine.execFrcp t sm vd va s
  | .frsq t sm vd va => Sys2Proof.Machine.execFrsq t sm vd va s
  | .fex2 t sm vd va => Sys2Proof.Machine.execFex2 t sm vd va s
  | .flg2 t sm vd va => Sys2Proof.Machine.execFlg2 t sm vd va s
  | .fsin t sm vd va => Sys2Proof.Machine.execFsin t sm vd va s
  | .fcos t sm vd va => Sys2Proof.Machine.execFcos t sm vd va s
  | .fcmp t c sm sd va vb => Sys2Proof.Machine.execFcmp t c sm sd va vb s
  | .fclass t sm vd va => Sys2Proof.Machine.execFclass t sm vd va s
  | .cvt d src r f sm vd va => Sys2Proof.Machine.execCvt d src r f sm vd va s
  | .packb src r f sm vd va vb => Sys2Proof.Machine.execPackb src r f sm vd va vb s
  | .unpkb d k f sm vd va => Sys2Proof.Machine.execUnpkb d k f sm vd va s
  | .shfl t sm vd va vb => Sys2Proof.Machine.execShfl t sm vd va vb s
  | .shflImm t sm vd va k => Sys2Proof.Machine.execShflImm t sm vd va k s
  | .shflup t sm vd va k => Sys2Proof.Machine.execShflup t sm vd va k s
  | .shfldn t sm vd va k => Sys2Proof.Machine.execShfldn t sm vd va k s
  | .shflx t sm vd va k => Sys2Proof.Machine.execShflx t sm vd va k s
  | .ballot t sm sd va => Sys2Proof.Machine.execBallot t sm sd va s
  | .laneid sm vd => Sys2Proof.Machine.execLaneid sm vd s
  | .redl op t r sm vd va => Sys2Proof.Machine.execRedl op t r sm vd va s
  | .scanl op excl t r sm vd va => Sys2Proof.Machine.execScanl op excl t r sm vd va s
  | .movl t sm vd va => Sys2Proof.Machine.execMovl t sm vd va s
  | .movsl t sm vd sa => Sys2Proof.Machine.execMovsl t sm vd sa s
  | .movls t sm sd va k => Sys2Proof.Machine.execMovls t sm sd va k s
  | .pmma t sm vd va vb vc => Sys2Proof.Machine.execPmma t sm vd va vb vc s
  | .ldl t ord scope sm vd va vb => Sys2Proof.Machine.execLdl t ord scope sm vd va vb s
  | .ldlImm t ord scope sm vd va imm => Sys2Proof.Machine.execLdlImm t ord scope sm vd va imm s
  | .stl t ord scope sm vd va vb => Sys2Proof.Machine.execStl t ord scope sm vd va vb s
  | .stlImm t ord scope sm vd va imm => Sys2Proof.Machine.execStlImm t ord scope sm vd va imm s
  | .ldsh t sm vd va vb => Sys2Proof.Machine.execLdsh t sm vd va vb s
  | .ldshImm t sm vd va imm => Sys2Proof.Machine.execLdshImm t sm vd va imm s
  | .stsh t sm vd va vb => Sys2Proof.Machine.execStsh t sm vd va vb s
  | .stshImm t sm vd va imm => Sys2Proof.Machine.execStshImm t sm vd va imm s
  | .atoml op t ord scope sm vd va vb => Sys2Proof.Machine.execAtoml op t ord scope sm vd va vb s
  | .atomsh op t ord scope sm vd va vb => Sys2Proof.Machine.execAtomsh op t ord scope sm vd va vb s
  | .casl t ord scope sm vd va vb vc => Sys2Proof.Machine.execCasl t ord scope sm vd va vb vc s
  | .redst t sm vd va vb => Sys2Proof.Machine.execRedst t sm vd va vb s
  | .redstImm t sm vd va imm => Sys2Proof.Machine.execRedstImm t sm vd va imm s
  | .acpy sz tag sm vd va vb => Sys2Proof.Machine.execAcpy sz tag sm vd va vb s
  | .pushr q scope sa => Sys2Proof.Machine.execPushr q scope sa s
  | .pushm q scope sd => Sys2Proof.Machine.execPushm q scope sd s
  | .popq scope sa => Sys2Proof.Machine.execPopq scope sa s
  | .qwait q v => Sys2Proof.Machine.execQwait q v s
  | .qwaitReg q sx => Sys2Proof.Machine.execQwaitReg q sx s
  | .qstat sd q => Sys2Proof.Machine.execQstat sd q s
  | .leash n => Sys2Proof.Machine.execLeash n s
  | .leashReg sx => Sys2Proof.Machine.execLeashReg sx s
  | .aownr sd slot => Sys2Proof.Machine.execAownr sd slot s
  | .aownrReg sd sx => Sys2Proof.Machine.execAownrReg sd sx s
  | .asave sd slot => Sys2Proof.Machine.execAsave sd slot s
  | .asaveReg sd sx => Sys2Proof.Machine.execAsaveReg sd sx s
  | .arest sd slot => Sys2Proof.Machine.execArest sd slot s
  | .arestReg sd sx => Sys2Proof.Machine.execArestReg sd sx s
  | .attestationReport entry => Sys2Proof.Machine.execAttestationReport entry s
  | .attestationKeyCertificate entry => Sys2Proof.Machine.execAttestationKeyCertificate entry s
  | .deviceIdentityCertificate entry => Sys2Proof.Machine.execDeviceIdentityCertificate entry s
  | .copyAndForward entry => Sys2Proof.Machine.execCopyAndForward entry s
  | .release entry => Sys2Proof.Machine.execRelease entry s
  | .publish entry => Sys2Proof.Machine.execPublish entry s
  | .query entry => Sys2Proof.Machine.execQuery entry s
  | .zeroFill entry => Sys2Proof.Machine.execZeroFill entry s
  | .zeroFillAndDeposit entry => Sys2Proof.Machine.execZeroFillAndDeposit entry s
  | .lateFault cause addr lanes isWrite => Sys2Proof.Machine.execLateFault cause addr lanes isWrite s
  | .dispatchPacket q p => Sys2Proof.Machine.execDispatchPacket q p s
  | .barrierAndPacket q p => Sys2Proof.Machine.execBarrierAndPacket q p s
  | .barrierOrPacket q p => Sys2Proof.Machine.execBarrierOrPacket q p s
  | .signalPacket q p => Sys2Proof.Machine.execSignalPacket q p s
  | .rehang entry => Sys2Proof.Machine.execRehang entry s
  | .unassignedOpcode w => Sys2Proof.Machine.execUnassignedOpcode w s
  | .instructionFetchFault cause sub addr => Sys2Proof.Machine.execInstructionFetchFault cause sub addr s
  | .nop => Sys2Proof.Machine.execNop s
  | .cohbar => Sys2Proof.Machine.execCohbar s
  | .detach => Sys2Proof.Machine.execDetach s
  | .yield => Sys2Proof.Machine.execYield s
  | .eret => Sys2Proof.Machine.execEret s
  | .wfe => Sys2Proof.Machine.execWfe s
  | .sev => Sys2Proof.Machine.execSev s
  | .halt => Sys2Proof.Machine.execHalt s
  | .tlbiCtx => Sys2Proof.Machine.execTlbiCtx s
  | .tlbiAll => Sys2Proof.Machine.execTlbiAll s
  | .lwait => Sys2Proof.Machine.execLwait s
  | .qmark => Sys2Proof.Machine.execQmark s
  | .unleash => Sys2Proof.Machine.execUnleash s
  | .packageResetRelease fwOk fwMeas policy => Sys2Proof.Machine.execPackageResetRelease fwOk fwMeas policy s
  | .linkTrained site table sigOk digest loaderOk => Sys2Proof.Machine.execLinkTrained site table sigOk digest loaderOk s
  | .chipletResetComplete site => Sys2Proof.Machine.execChipletResetComplete site s
  | .siteLinkFailure site => Sys2Proof.Machine.execSiteLinkFailure site s
  | .siteDrainComplete site => Sys2Proof.Machine.execSiteDrainComplete site s
  | .siteDrainTimeout site => Sys2Proof.Machine.execSiteDrainTimeout site s
  | .siteIso site => Sys2Proof.Machine.execSiteIso site s
  | .siteRst site => Sys2Proof.Machine.execSiteRst site s
  | .siteEnum site => Sys2Proof.Machine.execSiteEnum site s
  | .featAccWrite cls j v => Sys2Proof.Machine.execFeatAccWrite cls j v s
  | .registerWrite pa v w => Sys2Proof.Machine.execRegisterWrite pa v w s
  | .evringBaseWrite ring v w => Sys2Proof.Machine.execEvringBaseWrite ring v w s
  | .eventRingDrain ring => Sys2Proof.Machine.execEventRingDrain ring s
  | .interleaveSetEnable lp k v w => Sys2Proof.Machine.execInterleaveSetEnable lp k v w s
  | .interleaveSetDisable lp k v w => Sys2Proof.Machine.execInterleaveSetDisable lp k v w s
  | .homeReadMiss agent slice pa ecc => Sys2Proof.Machine.execHomeReadMiss agent slice pa ecc s
  | .homeWrite agent slice pa data ecc => Sys2Proof.Machine.execHomeWrite agent slice pa data ecc s
  | .ncfWriteBack site pa => Sys2Proof.Machine.execNcfWriteBack site pa s
  | .sliceEviction agent slice pa => Sys2Proof.Machine.execSliceEviction agent slice pa s
  | .remoteReduction src nb v => Sys2Proof.Machine.execRemoteReduction src nb v s
  | .migctlEn v w => Sys2Proof.Machine.execMigctlEn v w s
  | .counterEpoch => Sys2Proof.Machine.execCounterEpoch s
  | .scrubPatrol pa ecc => Sys2Proof.Machine.execScrubPatrol pa ecc s
  | .poolEn v w => Sys2Proof.Machine.execPoolEn v w s
  | .poolLoadLevel core level => Sys2Proof.Machine.execPoolLoadLevel core level s
  | .poolLevelTimeout core => Sys2Proof.Machine.execPoolLevelTimeout core s
  | .poolHoldEnd core => Sys2Proof.Machine.execPoolHoldEnd core s
  | .poolLineLoss base len => Sys2Proof.Machine.execPoolLineLoss base len s
  | .poolMetadataLoss => Sys2Proof.Machine.execPoolMetadataLoss s
  | .peerAdmit dev => Sys2Proof.Machine.execPeerAdmit dev s
  | .peerLinkFailure dev => Sys2Proof.Machine.execPeerLinkFailure dev s
  | .regionInvalidation dev region => Sys2Proof.Machine.execRegionInvalidation dev region s
  | .regionInvalidationTimeout dev => Sys2Proof.Machine.execRegionInvalidationTimeout dev s
  | .clientHostRequest part req => Sys2Proof.Machine.execClientHostRequest part req s
  | .lmaxWrite v w => Sys2Proof.Machine.execLmaxWrite v w s
  | .lmaxPendEnd => Sys2Proof.Machine.execLmaxPendEnd s
  | .streamTlbRenewal core => Sys2Proof.Machine.execStreamTlbRenewal core s
  | .l2setWrite site p v w => Sys2Proof.Machine.execL2setWrite site p v w s
  | .l2BucketPeriod site slice => Sys2Proof.Machine.execL2BucketPeriod site slice s
  | .attachGrant block => Sys2Proof.Machine.execAttachGrant block s
  | .napEnd u => Sys2Proof.Machine.execNapEnd u s
  | .lwaitExpiry u => Sys2Proof.Machine.execLwaitExpiry u s
  | .acpyLaneLanded u tag lane => Sys2Proof.Machine.execAcpyLaneLanded u tag lane s
  | .cpld r => Sys2Proof.Machine.execCpld r s
  | .cpst r => Sys2Proof.Machine.execCpst r s
  | .cpcc r => Sys2Proof.Machine.execCpcc r s
  | .cprd r => Sys2Proof.Machine.execCprd r s
  | .cpfill r => Sys2Proof.Machine.execCpfill r s
  | .copyElementLanded e ordinal => Sys2Proof.Machine.execCopyElementLanded e ordinal s
  | .mma r => Sys2Proof.Machine.execMma r s
  | .mmas r => Sys2Proof.Machine.execMmas r s
  | .mzero r => Sys2Proof.Machine.execMzero r s
  | .mldc r => Sys2Proof.Machine.execMldc r s
  | .mret r => Sys2Proof.Machine.execMret r s
  | .vadd r => Sys2Proof.Machine.execVadd r s
  | .vsub r => Sys2Proof.Machine.execVsub r s
  | .vmul r => Sys2Proof.Machine.execVmul r s
  | .vfma r => Sys2Proof.Machine.execVfma r s
  | .vmax r => Sys2Proof.Machine.execVmax r s
  | .vmin r => Sys2Proof.Machine.execVmin r s
  | .vexp r => Sys2Proof.Machine.execVexp r s
  | .vrcp r => Sys2Proof.Machine.execVrcp r s
  | .vrsq r => Sys2Proof.Machine.execVrsq r s
  | .vcvt r => Sys2Proof.Machine.execVcvt r s
  | .vred r => Sys2Proof.Machine.execVred r s
  | .vscale r => Sys2Proof.Machine.execVscale r s
  | .vcmp r => Sys2Proof.Machine.execVcmp r s
  | .vsel r => Sys2Proof.Machine.execVsel r s
  | .engineLateError e addr => Sys2Proof.Machine.execEngineLateError e addr s
  | .retirementBoundary core => Sys2Proof.Machine.execRetirementBoundary core s
  | .depSignalRead q ix => Sys2Proof.Machine.execDepSignalRead q ix s
  | .memberPlacement launch => Sys2Proof.Machine.execMemberPlacement launch s
  | .floorDeferTimeout launch => Sys2Proof.Machine.execFloorDeferTimeout launch s
  | .shepherdTick => Sys2Proof.Machine.execShepherdTick s
  | .saveDeadlineMiss p => Sys2Proof.Machine.execSaveDeadlineMiss p s
  | .unitSave u => Sys2Proof.Machine.execUnitSave u s
  | .taskDrain u => Sys2Proof.Machine.execTaskDrain u s
  | .preemptTimeout u => Sys2Proof.Machine.execPreemptTimeout u s
  | .unitRestore id => Sys2Proof.Machine.execUnitRestore id s
  | .watchdog p => Sys2Proof.Machine.execWatchdog p s
  | .pctlRst p => Sys2Proof.Machine.execPctlRst p s
  | .ringHubCycle site => Sys2Proof.Machine.execRingHubCycle site s
  | .refillPeriod => Sys2Proof.Machine.execRefillPeriod s
  | .boostWindowEnd => Sys2Proof.Machine.execBoostWindowEnd s
  | .coreHungry core => Sys2Proof.Machine.execCoreHungry core s
  | .issueSelection core quarter => Sys2Proof.Machine.execIssueSelection core quarter s
  | .reservationRequest u => Sys2Proof.Machine.execReservationRequest u s
  | .localityEpoch core => Sys2Proof.Machine.execLocalityEpoch core s
  | .operatingPointRequest core freq ratio => Sys2Proof.Machine.execOperatingPointRequest core freq ratio s
  | .voltageStep core => Sys2Proof.Machine.execVoltageStep core s
  | .thermalSample site temp sensors => Sys2Proof.Machine.execThermalSample site temp sensors s
  | .wearUpdate domain mv temp => Sys2Proof.Machine.execWearUpdate domain mv temp s
  | .ownershipWrite off v w => Sys2Proof.Machine.execOwnershipWrite off v w s
  | .pstateEnWrite p v w => Sys2Proof.Machine.execPstateEnWrite p v w s
  | .pstateGuestWrite p v w => Sys2Proof.Machine.execPstateGuestWrite p v w s
  | .pause p => Sys2Proof.Machine.execPause p s
  | .pauseComplete p => Sys2Proof.Machine.execPauseComplete p s
  | .resume p => Sys2Proof.Machine.execResume p s
  | .migrate => Sys2Proof.Machine.execMigrate s
  | .rehash => Sys2Proof.Machine.execRehash s
  | .commit => Sys2Proof.Machine.execCommit s
  | .backInvalidation region => Sys2Proof.Machine.execBackInvalidation region s
  | .poolRangeRestore base len => Sys2Proof.Machine.execPoolRangeRestore base len s
  | .poolPortTrained sizeLog2 => Sys2Proof.Machine.execPoolPortTrained sizeLog2 s
  | .regionInvalidationAck dev region => Sys2Proof.Machine.execRegionInvalidationAck dev region s
  | .poolTokenBucketRefill => Sys2Proof.Machine.execPoolTokenBucketRefill s
  | .engineRecordCompletion e => Sys2Proof.Machine.execEngineRecordCompletion e s

end Sys2Proof.Machine
end

