-- ==== Sys2Proof/Machine/Step.lean ====
section
/-! DEFINITION. One step of the package: the turn that `State.script` names, or one instruction of the current unit. -/

namespace Sys2Proof.Machine

/-! ### A unit's turn -/

/-- A unit takes its turn: it is the current one, and a hub cycle passes. -/
def beginTurn (s : State) (u : Nat) : State := { s with cur := u, cycles := s.cycles + 1 }

/-- R39, R55: executes what a word, with the second word of a long instruction, decodes to; a word that is no instruction raises
ILLEGAL. -/
def runWord (s : State) (w : Word) (second : Option Word) : Host.Outcome State Fault Refusal :=
  match decodeWord w second with
  | .ok i => exec i s
  | .error _ => exec (.unassignedOpcode w) s

/-- R39 to R41: fetches the instruction at the PC of the acting unit, decodes it and executes it. A class-11 first word that is ILLEGAL by
itself is refused before its second word is fetched (R55 and R359, log 50). -/
def fetchRun (s : State) : Host.Outcome State Fault Refusal :=
  if standsAtEnd s then .next (atEnd s)
  else
    match fetchWord s s.cur s.me.mode s.me.pc with
    | (s, .error c) => exec (.instructionFetchFault c.1 c.2 s.me.pc) s
    | (s, .ok w) =>
      let s := { s with word := w }
      if isLongFirst w then
        match fetchWord s s.cur s.me.mode (s.me.pc + 8) with
        | (s, .error c) => exec (.instructionFetchFault c.1 c.2 (s.me.pc + 8)) s
        | (s, .ok v) => runWord s w (some v)
      else runWord s w none

/-- A unit that waits within an instruction looks whether its wait is over; any other fetches. -/
def turn (s : State) : Host.Outcome State Fault Refusal :=
  match s.me.wait with
  | .bar b => exec (.bar (BitVec.ofNat 4 b)) s
  | .cohbar => exec .cohbar s
  | .halted => exec .halt s
  | .event => exec .wfe s
  | .lwait _ => exec .lwait s
  | .nap d => .next (if d ≤ s.cycles then s.setMe { s.me with wait := .none } else s)
  | .none | .barwt _ | .tbwait _ _ | .acwait _ | .qwait _ _ | .popq | .room _ | .pushm _ _ | .pushmRel _ _ | .launch _ _ | .lwaitAck | .release | .copies
  | .tags _ | .records | .marks | .slot _ | .issue => fetchRun s

/-- The turn of a unit. An idle shadow context takes up an engine fault that waits for it; a pack of a tenant issues only where its quarter
chose it (R334). -/
def runUnit (s : State) (u : Nat) : Host.Outcome State Fault Refusal :=
  if !mayIssue s u || yieldsNow s u then (if faultWaits s u then .next (takeFault s (coreOf u)) else .fault .noSuchTurn)
  else
    match turn (beginTurn (pickFor s u).1 u) with
    | .next t => (match endTurn (beginTurn (pickFor s u).1 u) (pickFor s u).2 t with
        | some t => .next t
        | none => .fault .noSuchTurn)
    | o => o

/-! ### An engine's, the Shepherd's and the hub's turn -/

/-- R52: executes a record at the head of a queue of the acting control context. -/
def runRecord (s : State) (b : Rec512) : Host.Outcome State Fault Refusal :=
  match recOp b with
  | 0x10 => execCpld (copyRec b) s
  | 0x11 => execCpst (copyRec b) s
  | 0x12 => execCpcc (copyRec b) s
  | 0x13 => execCprd (copyRec b) s
  | 0x14 => execCpfill (copyRec b) s
  | 0x20 => execMma (matRec b) s
  | 0x21 => execMmas (matRec b) s
  | 0x22 => execMzero (slotRec b) s
  | 0x23 => execMldc (slotRec b) s
  | 0x24 => execMret (slotRec b) s
  | 0x40 => execVadd (vecRec b) s
  | 0x41 => execVsub (vecRec b) s
  | 0x42 => execVmul (vecRec b) s
  | 0x43 => execVfma (vecRec b) s
  | 0x44 => execVmax (vecRec b) s
  | 0x45 => execVmin (vecRec b) s
  | 0x46 => execVexp (vecRec b) s
  | 0x47 => execVrcp (vecRec b) s
  | 0x48 => execVrsq (vecRec b) s
  | 0x49 => execVcvt (vecRec b) s
  | 0x4A => execVred (vecRec b) s
  | 0x4B => execVscale (vecRec b) s
  | 0x4C => execVcmp (vecRec b) s
  | 0x4D => execVsel (vecRec b) s
  | _ => .fault .noSuchTurn

/-- The turn of an engine queue: its head record. -/
def runQueue (s : State) (e : EngineRef) : Host.Outcome State Fault Refusal :=
  let s := { s with cur := unitId e.core e.ctx }
  match headRecord s.me e.queue with
  | some h => runRecord s h.bits
  | none => .fault .noSuchTurn

/-- The turn of a Shepherd queue: the packet that is its candidate (R341). -/
def runPacket (s : State) (q : Nat) : Host.Outcome State Fault Refusal :=
  match candidate s q with
  | none => .fault .noSuchTurn
  | some w =>
    match pkType w.packet with
    | 1 => execBarrierAndPacket q w.packet s
    | 2 => execBarrierOrPacket q w.packet s
    | 3 => execSignalPacket q w.packet s
    | _ => execDispatchPacket q w.packet s

/-- The turn of a command ring: the entry at its HEAD (R82). -/
def runRing (s : State) (ring : Nat) : Host.Outcome State Fault Refusal :=
  let size := if ring = 0x6A40 then 128 else 32
  let entry := ringEntry s ring size (ringHead s ring)
  let op := fieldNat (entryWord s entry 0) 0 8
  if ringEmpty s ring then .fault .noSuchTurn
  else if ring = 0x740 then (if op = 2 then execRelease entry s else execCopyAndForward entry s)
  else if ring = 0x7A0 then (if op = 2 then execQuery entry s else execPublish entry s)
  else if ring = 0x820 then (if op = 2 then execZeroFillAndDeposit entry s else execZeroFill entry s)
  else if ring = 0x840 then execRehang entry s
  else if ring = 0x6A40 then
    (if op = 2 then execAttestationKeyCertificate entry s
     else if op = 3 then execDeviceIdentityCertificate entry s
     else execAttestationReport entry s)
  else .fault .noSuchTurn

/-- One turn. -/
def runTurn (s : State) : Turn → Host.Outcome State Fault Refusal
  | .run u => runUnit s u
  | .record e => runQueue s e
  | .packet q => runPacket s q
  | .ring base => runRing s base
  | .happen i => exec i s
  | .elapse n => .next { s with cycles := s.cycles + n }

/-- One step: the turn at the head of the script, or the current unit's (log 3). -/
def step (s : State) : Host.Outcome State Fault Refusal :=
  match s.script with
  | [] => runUnit s s.cur
  | t :: r => runTurn { s with script := r } t

/-! ### The host's placement of one instruction -/

/-- The unit that executes a table row's word: a pack, a control context, or a host core. -/
def fetchUnit (w : Word) : Nat :=
  match (field w 62 2).toNat with
  | 0 => if (opcodeGate (sHead w).op).host then unitId 0 0 else unitId Config.simtBase 0
  | 1 => unitId Config.simtBase 0
  | 2 => unitId Config.sysBase 0
  | _ => unitId 0 0

/-- A package in which a unit runs privileged with translation off, near set 0 enabled over all channels (log 5). -/
def State.readyUnit (s : State) (u : Nat) : State :=
  let n := siteOfCore (coreOf u)
  let s := ((s.setHub 0x408 (BitVec.allOnes 64)).setHub 0x410 (BitVec.allOnes 64)).setHub 0x400 1
  let s := setHubF s (siteCtl n) 0 3 3
  let s := s.setSite n { s.site n with table := setField (s.site n).table 256 64 (featOffer (classOfSite n)) }
  let k := s.core (coreOf u)
  let s := s.setCore (coreOf u) { k with tokens := 4096, reserve := none, yielded := none }
  s.setCtx u { s.ctx u with
    live := true, mode := 1, ttb1 := 0, ttb2 := 0, narrow := false, wait := .none, vregs := 512, preempt := none, draining := false, block := none }

/-- Places a word at a physical address of an enabled set. -/
def State.placeWord (s : State) (pa : Nat) (w : Word) : State :=
  match homeKey s pa with
  | some key => s.setMem (putBytes s.mem key (toBytes w 8))
  | none => s

/-- The queue of a record, by its `op` byte (R52). -/
def recQueue (b : Rec512) : EQueue :=
  let op := recOp b
  if op = 0x10 ∨ op = 0x12 ∨ op = 0x14 then .lq else if op < 0x20 then .sq else if op < 0x40 then .mq else .vq

/-- The state with an instruction of the opcode table stored where the next step takes it from: WIS-6 words at the PC of the unit that
runs next, an engine record at the head of its queue (log 5). -/
def State.withFetchWord (s : State) (nbits w : Nat) : State :=
  let x := w % 2 ^ nbits
  if nbits ≤ 128 then
    let w0 := wordOf x 0
    let u := fetchUnit w0
    let s := s.readyUnit u
    let pc := (s.ctx u).pc
    let s := (s.placeWord pc.toNat w0).placeWord (pc + 8).toNat (wordOf x 64)
    { s.setMem { s.mem with code := s.mem.code.filter fun c => c.core != coreOf u } with cur := u, script := [] }
  else
    let b : Rec512 := BitVec.ofNat 512 x
    let u := unitId Config.sysBase 0
    let s := s.readyUnit u
    let q := recQueue b
    let c := { s.ctx u with csize := 0x60000 }
    { s.setCtx u (c.setEntries q (.record b 0 1 0 :: c.entries q)) with script := [.record ⟨Config.sysBase, 0, q⟩] }

end Sys2Proof.Machine
end

