-- ==== Sys2Proof/Safety.lean ====
section
/-! DEFINITION. What the claims mean by a well-formed memory, a sound state and a safe run. -/

namespace Sys2Proof.Machine

/-- Home memory in canonical form: every store lists rising keys, none at its background value. -/
def Mem.wf (m : Mem) : Bool := Sparse.wf byte0 m.bytes && Sparse.wf desc0 m.desc && Sparse.wf poison0 m.poison

/-- A step that the hardware takes. -/
def stepsTo (s t : State) : Prop := step s = .next t

/-- A run of `n` steps, none of which stops. -/
def runsTo : Nat → State → State → Prop
  | 0, s, t => t = s
  | n + 1, s, t => ∃ u, stepsTo s u ∧ runsTo n u t

/-- A safe run of a property: it holds in every state the run passes. -/
def safeRun (p : State → Prop) (s : State) : Prop := ∀ n t, runsTo n s t → p t

end Sys2Proof.Machine
end

