-- ==== Sys2Proof/Certificates/Slice0/Obligations.lean ====
section
/-! DEFINITION. The statements for the provers, with the vocabulary they share: what it is for a step to write one register, to branch, to
take an exception, and nothing else. -/

namespace Sys2Proof.Machine

/-! ### Vocabulary -/

/-- Register `n` as mode `m` of a context sees it (R59, R247). -/
def seenReg (c : Ctx) (m : BitVec 2) (n : Nat) : Word := Ctx.reg { c with mode := m } n

/-- The bank that register `n` of mode `m` stands in: 0 the shared one, 1 the supervisor's, 2 the hypervisor's (R247). -/
def bankOf (m : BitVec 2) (n : Nat) : Nat := if n < 56 ∨ m = 0 then 0 else if m = 1 then 1 else 2

/-- Nothing of `s` changes but contexts, and of those only the acting unit's. -/
def OnlyMe (s t : State) : Prop := { t with ctxs := s.ctxs } = s ∧ ∀ u, u ≠ s.cur → t.ctx u = s.ctx u

/-- Of the acting unit only scalar registers, the PC and the wait change. -/
def OnlyScalars (s t : State) : Prop :=
  OnlyMe s t ∧
  { t.me with gpr := s.me.gpr, supBank := s.me.supBank, hypBank := s.me.hypBank, pc := s.me.pc, wait := s.me.wait } = s.me

/-- Every bank of every register is as before, but register `n` of the acting mode's bank, which holds `v`; `s0` never changes. -/
def OneReg (s t : State) (n : Nat) (v : Word) : Prop :=
  ∀ m k, seenReg t.me m k = if k = n ∧ k ≠ 0 ∧ bankOf m k = bankOf s.me.mode k then v else seenReg s.me m k

/-- The acting unit writes `v` to scalar register `sd` (nowhere where `sd` is `s0`), its PC becomes `pc`, it waits for nothing; nothing
else of the machine changes: no other register of any bank, no flag or control register, no other unit, no byte of memory. -/
def WroteAt (s t : State) (sd : SReg) (v pc : Word) : Prop :=
  OnlyScalars s t ∧ OneReg s t sd.toNat v ∧ t.me.pc = pc ∧ t.me.wait = .none

/-- The instruction completes: it writes `v` to `sd` and continues 8 bytes on (R39). -/
def Writes (i : Instr) (s : State) (sd : SReg) (v : Word) : Prop := ∃ t, exec i s = .next t ∧ WroteAt s t sd v (s.me.pc + 8)

/-- The instruction completes: it writes nothing and continues at `pc`. -/
def GoesTo (i : Instr) (s : State) (pc : Word) : Prop := ∃ t, exec i s = .next t ∧ WroteAt s t 0 0 pc

/-- R236: an operation on all 64 bits, or, with the W bit, on the low 32 with the result sign-extended. -/
def wBit (w : Bool) (f64 : Word → Word → Word) (f32 : W32 → W32 → W32) (a b : Word) : Word :=
  if w then (f32 (a.setWidth 32) (b.setWidth 32)).signExtend 64 else f64 a b

/-- An R-form and an immediate form that compute one operation: `sd` := f(`sa`, second operand). -/
def Binary (r : Bool → SReg → SReg → SReg → Instr) (im : Bool → SReg → SReg → BitVec 40 → Instr) (f64 : Word → Word → Word)
    (f32 : W32 → W32 → W32) : Prop :=
  ∀ w sd sa s,
    (∀ sb, Writes (r w sd sa sb) s sd (wBit w f64 f32 (s.rs sa) (s.rs sb))) ∧
    (∀ imm : BitVec 40, Writes (im w sd sa imm) s sd (wBit w f64 f32 (s.rs sa) (imm.signExtend 64)))

/-- A shift or rotation: the amount is a register's value or six bits of the instruction, taken modulo the width. -/
def Shift (r : Bool → SReg → SReg → SReg → Instr) (im : Bool → SReg → SReg → BitVec 6 → Instr) (f64 : Word → Nat → Word)
    (f32 : W32 → Nat → W32) : Prop :=
  ∀ w sd sa s,
    (∀ sb, Writes (r w sd sa sb) s sd
      (if w then (f32 ((s.rs sa).setWidth 32) ((s.rs sb).toNat % 32)).signExtend 64 else f64 (s.rs sa) ((s.rs sb).toNat % 64))) ∧
    (∀ k : BitVec 6, Writes (im w sd sa k) s sd
      (if w then (f32 ((s.rs sa).setWidth 32) (k.toNat % 32)).signExtend 64 else f64 (s.rs sa) k.toNat))

/-- An operation of one register. -/
def Unary (r : Bool → SReg → SReg → Instr) (f64 : Word → Word) (f32 : W32 → W32) : Prop :=
  ∀ w sd sa s, Writes (r w sd sa) s sd (if w then (f32 ((s.rs sa).setWidth 32)).signExtend 64 else f64 (s.rs sa))

/-! ### Scalar arithmetic: results the rules name -/

/-- R237: bits [127:64] of the signed product; under W bits [63:32] of the 64-bit one. -/
def hiSigned64 (a b : Word) : Word := ((a.signExtend 128 * b.signExtend 128) >>> 64).setWidth 64
/-- R237. -/
def hiSigned32 (a b : W32) : W32 := ((a.signExtend 64 * b.signExtend 64) >>> 32).setWidth 32
/-- R237: the same for the unsigned product. -/
def hiUnsigned64 (a b : Word) : Word := ((a.setWidth 128 * b.setWidth 128) >>> 64).setWidth 64
/-- R237. -/
def hiUnsigned32 (a b : W32) : W32 := ((a.setWidth 64 * b.setWidth 64) >>> 32).setWidth 32
/-- A compare's result (R236, R237). -/
def oneIf {n : Nat} (p : Bool) : BitVec n := if p then 1 else 0

/-- R238's table, the column of DIV. -/
def divTable {n : Nat} (a b : BitVec n) : BitVec n :=
  if b = 0 then BitVec.allOnes n else if a = BitVec.intMin n ∧ b = BitVec.allOnes n then a else BitVec.ofInt n (a.toInt.tdiv b.toInt)
/-- R238's table, the column of REM. -/
def remTable {n : Nat} (a b : BitVec n) : BitVec n :=
  if b = 0 then a else if a = BitVec.intMin n ∧ b = BitVec.allOnes n then 0 else a - divTable a b * b
/-- R238's table, the column of DIVU. -/
def divuTable {n : Nat} (a b : BitVec n) : BitVec n := if b = 0 then BitVec.allOnes n else BitVec.ofNat n (a.toNat / b.toNat)
/-- R238's table, the column of REMU. -/
def remuTable {n : Nat} (a b : BitVec n) : BitVec n := if b = 0 then a else a - divuTable a b * b

/-- R239: the one bits. -/
def countOnes {n : Nat} (a : BitVec n) : BitVec n := BitVec.ofNat n ((List.range n).countP fun i => a.getLsbD i)
/-- R239: the zero bits above the highest one bit, all of them where there is none. -/
def zerosAbove {n : Nat} (a : BitVec n) : BitVec n := BitVec.ofNat n ((List.range n).takeWhile fun i => !a.getLsbD (n - 1 - i)).length
/-- R239: the zero bits below the lowest one bit, all of them where there is none. -/
def zerosBelow {n : Nat} (a : BitVec n) : BitVec n := BitVec.ofNat n ((List.range n).takeWhile fun i => !a.getLsbD i).length

/-- R240: the bits of a field that exist. -/
def fieldHi (lo w : Nat) : Nat := min (lo + w - 1) 63
/-- R240: BFXU. -/
def takeField (a : Word) (lo w : Nat) : Word :=
  if w = 0 then 0 else (a >>> lo) &&& BitVec.ofNat 64 (2 ^ (fieldHi lo w - lo + 1) - 1)
/-- R240: BFX, the field's top bit copied upwards. -/
def takeSignedField (a : Word) (lo w : Nat) : Word :=
  if w = 0 then 0 else (a <<< (63 - fieldHi lo w)).sshiftRight (63 - fieldHi lo w + lo)
/-- R240: what BFI leaves in `sd`: bits [hi:lo] are the low bits of `sa`, the other bits are kept. -/
def IsInserted (old a v : Word) (lo w : Nat) : Prop :=
  ∀ i, i < 64 → v.getLsbD i = if w ≠ 0 ∧ lo ≤ i ∧ i ≤ fieldHi lo w then a.getLsbD (i - lo) else old.getLsbD i
/-- R241: MLOW keeps the bits below `n`. -/
def IsKeptBelow (a v : Word) (n : Nat) : Prop := ∀ i, i < 64 → v.getLsbD i = (decide (i < n) && a.getLsbD i)
/-- R241: MCLR clears bit `n` where there is one. -/
def IsCleared (a v : Word) (n : Nat) : Prop := ∀ i, i < 64 → v.getLsbD i = (decide (i ≠ n) && a.getLsbD i)

end Sys2Proof.Machine

open Sys2Proof Sys2Proof.Machine

/-! ### Scalar arithmetic and moves -/

/-- R237 with R236 and R59: the sums, differences, products and logic of R237, in both forms and both widths, write their result to `sd`
and change nothing else. -/
def Claims.SumsProductsAndLogic : Prop :=
  Binary .add .addImm (· + ·) (· + ·) ∧ Binary .sub .subImm (· - ·) (· - ·) ∧ Binary .mul .mulImm (· * ·) (· * ·) ∧
  Binary .mulh .mulhImm hiSigned64 hiSigned32 ∧ Binary .mulhu .mulhuImm hiUnsigned64 hiUnsigned32 ∧
  Binary .and .andImm (· &&& ·) (· &&& ·) ∧ Binary .or .orImm (· ||| ·) (· ||| ·) ∧ Binary .xor .xorImm (· ^^^ ·) (· ^^^ ·) ∧
  Binary .andn .andnImm (fun a b => a &&& ~~~ b) (fun a b => a &&& ~~~ b) ∧
  Binary .orn .ornImm (fun a b => a ||| ~~~ b) (fun a b => a ||| ~~~ b) ∧
  Binary .xnor .xnorImm (fun a b => ~~~ (a ^^^ b)) (fun a b => ~~~ (a ^^^ b))

/-- R237: the compares write 0 or 1, the minima and maxima one operand; an immediate is sign-extended first. -/
def Claims.ComparesAndExtremes : Prop :=
  Binary .seq .seqImm (fun a b => oneIf (decide (a = b))) (fun a b => oneIf (decide (a = b))) ∧
  Binary .sne .sneImm (fun a b => oneIf (decide (a ≠ b))) (fun a b => oneIf (decide (a ≠ b))) ∧
  Binary .slt .sltImm (fun a b => oneIf (decide (a.toInt < b.toInt))) (fun a b => oneIf (decide (a.toInt < b.toInt))) ∧
  Binary .sltu .sltuImm (fun a b => oneIf (decide (a.toNat < b.toNat))) (fun a b => oneIf (decide (a.toNat < b.toNat))) ∧
  Binary .sle .sleImm (fun a b => oneIf (decide (a.toInt ≤ b.toInt))) (fun a b => oneIf (decide (a.toInt ≤ b.toInt))) ∧
  Binary .sleu .sleuImm (fun a b => oneIf (decide (a.toNat ≤ b.toNat))) (fun a b => oneIf (decide (a.toNat ≤ b.toNat))) ∧
  Binary .min .minImm (fun a b => BitVec.ofInt 64 (Min.min a.toInt b.toInt)) (fun a b => BitVec.ofInt 32 (Min.min a.toInt b.toInt)) ∧
  Binary .max .maxImm (fun a b => BitVec.ofInt 64 (Max.max a.toInt b.toInt)) (fun a b => BitVec.ofInt 32 (Max.max a.toInt b.toInt)) ∧
  Binary .minu .minuImm (fun a b => BitVec.ofNat 64 (Min.min a.toNat b.toNat)) (fun a b => BitVec.ofNat 32 (Min.min a.toNat b.toNat)) ∧
  Binary .maxu .maxuImm (fun a b => BitVec.ofNat 64 (Max.max a.toNat b.toNat)) (fun a b => BitVec.ofNat 32 (Max.max a.toNat b.toNat))

/-- R238: division truncates towards zero and every case has the result of R238's table. -/
def Obligations.DivisionTable : Prop :=
  Binary .div .divImm divTable divTable ∧ Binary .divu .divuImm divuTable divuTable ∧
  Binary .rem .remImm remTable remTable ∧ Binary .remu .remuImm remuTable remuTable

/-- R239: shifts, rotations and bit counts, at 64 bits and, under W, on the low 32. -/
def Claims.ShiftsAndBitCounts : Prop :=
  Shift .shl .shlImm (fun a k => a <<< k) (fun a k => a <<< k) ∧ Shift .shr .shrImm (fun a k => a >>> k) (fun a k => a >>> k) ∧
  Shift .sar .sarImm (fun a k => a.sshiftRight k) (fun a k => a.sshiftRight k) ∧
  Shift .rol .rolImm (fun a k => a.rotateLeft k) (fun a k => a.rotateLeft k) ∧
  Shift .ror .rorImm (fun a k => a.rotateRight k) (fun a k => a.rotateRight k) ∧
  Unary .popc countOnes countOnes ∧ Unary .clz zerosAbove zerosAbove ∧ Unary .ctz zerosBelow zerosBelow ∧
  Unary .brev BitVec.reverse BitVec.reverse

/-- R240 and R241: bit fields and mask edits. In the register form the field starts at bits [5:0] of `sb` and is min(`sc`, 64) wide. -/
def Claims.BitFieldsAndMasks : Prop :=
  (∀ sd sa sb sc s,
    Writes (.bfxu sd sa sb sc) s sd (takeField (s.rs sa) ((s.rs sb).toNat % 64) (Min.min (s.rs sc).toNat 64)) ∧
    Writes (.bfx sd sa sb sc) s sd (takeSignedField (s.rs sa) ((s.rs sb).toNat % 64) (Min.min (s.rs sc).toNat 64)) ∧
    ∃ v, Writes (.bfi sd sa sb sc) s sd v ∧ IsInserted (s.rs sd) (s.rs sa) v ((s.rs sb).toNat % 64) (Min.min (s.rs sc).toNat 64)) ∧
  (∀ sd sa (lo : BitVec 6) (wd : BitVec 7) s, 1 ≤ wd.toNat → wd.toNat ≤ 64 →
    Writes (.bfxuImm sd sa lo wd) s sd (takeField (s.rs sa) lo.toNat wd.toNat) ∧
    Writes (.bfxImm sd sa lo wd) s sd (takeSignedField (s.rs sa) lo.toNat wd.toNat) ∧
    ∃ v, Writes (.bfiImm sd sa lo wd) s sd v ∧ IsInserted (s.rs sd) (s.rs sa) v lo.toNat wd.toNat) ∧
  (∀ sd sa sb (n : BitVec 7) s,
    (∃ v, Writes (.mlow sd sa sb) s sd v ∧ IsKeptBelow (s.rs sa) v (s.rs sb).toNat) ∧
    (∃ v, Writes (.mlowImm sd sa n) s sd v ∧ IsKeptBelow (s.rs sa) v n.toNat) ∧
    (∃ v, Writes (.mclr sd sa sb) s sd v ∧ IsCleared (s.rs sa) v (s.rs sb).toNat) ∧
    ∃ v, Writes (.mclrImm sd sa n) s sd v ∧ IsCleared (s.rs sa) v n.toNat)

/-- R233, R237, R242, R243, R226: the moves, the three-operand instructions, NOP and PREF. MOVI64 is two words long. PREF of level 2 may
fill the memory-side cache, by a free choice (log 50, the model's), and changes nothing else. -/
def Claims.MovesAndThreeOperands : Prop :=
  (∀ sd sa sb sc s, Writes (.sel sd sa sb sc) s sd (if s.rs sa = 0 then s.rs sc else s.rs sb)) ∧
  (∀ w sd sa sb sc s, Writes (.madd w sd sa sb sc) s sd
    (if w then ((s.rs sa * s.rs sb + s.rs sc).setWidth 32).signExtend 64 else s.rs sa * s.rs sb + s.rs sc)) ∧
  (∀ w sd sa sb (k : BitVec 6) s, (w = true → k.toNat < 32) → Writes (.addsh w sd sa sb k) s sd
    (if w then ((s.rs sa + s.rs sb * BitVec.ofNat 64 (2 ^ k.toNat)).setWidth 32).signExtend 64
     else s.rs sa + s.rs sb * BitVec.ofNat 64 (2 ^ k.toNat))) ∧
  (∀ sd (imm : BitVec 32) s, Writes (.movi sd imm) s sd (imm.signExtend 64)) ∧
  (∀ sd (imm : BitVec 32) s, Writes (.moviN32 sd imm) s sd (BitVec.ofNat 64 imm.toNat)) ∧
  (∀ sd (imm : BitVec 32) s, Writes (.moviHi sd imm) s sd (BitVec.ofNat 64 (imm.toNat * 2 ^ 32 + (s.rs sd).toNat % 2 ^ 32))) ∧
  (∀ sd imm s, ∃ t, exec (.movi64 sd imm) s = .next t ∧ WroteAt s t sd imm (s.me.pc + 16)) ∧
  (∀ s, GoesTo .nop s (s.me.pc + 8)) ∧
  (∀ lvl wr sa imm s,
    (lvl ≠ .msc → GoesTo (.pref lvl wr sa imm) s (s.me.pc + 8)) ∧
    ∃ t, exec (.pref lvl wr sa imm) s = .next t ∧ WroteAt { s with mem := t.mem, free := t.free } t 0 0 (s.me.pc + 8) ∧
      { t.mem with msc := s.mem.msc, pool := s.mem.pool } = s.mem)

/-! ### Branches and calls -/

/-- R244: a target is PC + 8 × disp, with disp sign-extended and the sum taken modulo 2^64. -/
def Sys2Proof.Machine.targetOf {n : Nat} (s : State) (disp : BitVec n) : Word := BitVec.ofInt 64 (s.me.pc.toNat + 8 * disp.toInt)

/-- R244: a conditional branch goes to its target where its condition holds and to PC + 8 elsewhere, and does nothing more. -/
def Sys2Proof.Machine.BranchesIf (i : BitVec 34 → Instr) (s : State) (p : Prop) : Prop :=
  ∀ disp, (p → GoesTo (i disp) s (targetOf s disp)) ∧ (¬ p → GoesTo (i disp) s (s.me.pc + 8))

/-- R244: each branch is taken when its row says; in narrow mode BZ and BNZ test bits [31:0] (R241). -/
def Obligations.BranchesGoWhereTheirRowsSay : Prop :=
  (∀ disp s, GoesTo (.br disp) s (targetOf s disp)) ∧
  ∀ sa sb s,
    BranchesIf (.beq sa sb) s (s.rs sa = s.rs sb) ∧ BranchesIf (.bne sa sb) s (s.rs sa ≠ s.rs sb) ∧
    BranchesIf (.blt sa sb) s ((s.rs sa).toInt < (s.rs sb).toInt) ∧ BranchesIf (.bge sa sb) s ((s.rs sa).toInt ≥ (s.rs sb).toInt) ∧
    BranchesIf (.bltu sa sb) s ((s.rs sa).toNat < (s.rs sb).toNat) ∧ BranchesIf (.bgeu sa sb) s ((s.rs sa).toNat ≥ (s.rs sb).toNat) ∧
    BranchesIf (.bz sa) s ((s.rs sa).toNat % 2 ^ (if s.me.narrow then 32 else 64) = 0) ∧
    BranchesIf (.bnz sa) s ((s.rs sa).toNat % 2 ^ (if s.me.narrow then 32 else 64) ≠ 0)

/-- R246: LOOP decrements its register, modulo 2^64, and branches while the result is not zero; no word stands for `loop s0`; and the words
of R246's table decode to the instructions they are printed beside. -/
def Obligations.LoopDecrementsAndBranches : Prop :=
  (∀ (sa : SReg) (disp : BitVec 34) s, sa ≠ 0 →
    ∃ t, exec (.loop sa disp) s = .next t ∧
      WroteAt s t sa (s.rs sa - 1) (if s.rs sa = 1 then s.me.pc + 8 else targetOf s disp)) ∧
  (∀ w v disp, decodeWord w v ≠ .ok (.loop 0 disp)) ∧
  (∀ (disp : BitVec 34) v i, decodeWord (0#2 ++ 0x4C#8 ++ 0#20 ++ disp) v ≠ .ok i) ∧
  decodeWord 0x10800417FFFFFFFD none = .ok (.bne 4 5 (BitVec.ofInt 34 (-3))) ∧
  decodeWord 0x13000603FFFFFFFB none = .ok (.loop 6 (BitVec.ofInt 34 (-5))) ∧
  decodeWord 0x11C00A0000000004 none = .ok (.bz 10 4) ∧
  decodeWord 0x1240000000000014 none = .ok (.call 20) ∧
  decodeWord 0x12C03E0000000000 none = .ok (.jr 62)

/-- R245: a call leaves PC + 8 in `s62` of the executing mode's bank and goes to its target, read before any write; JR writes nothing; the
words of CALL, CALLR and JR are their base words with only the operand added, so that every other field is reserved. -/
def Claims.CallsLinkAndJumpsGo : Prop :=
  (∀ s,
    (∀ disp : BitVec 40, ∃ t, exec (.call disp) s = .next t ∧ WroteAt s t 62 (s.me.pc + 8) (targetOf s disp)) ∧
    ∀ sa : SReg, (s.rs sa).toNat % 8 = 0 →
      (∃ t, exec (.callr sa) s = .next t ∧ WroteAt s t 62 (s.me.pc + 8) (s.rs sa)) ∧ GoesTo (.jr sa) s (s.rs sa)) ∧
  ∀ w v,
    (∀ disp, decodeWord w v = .ok (.call disp) ↔ w = 0x1240000000000000 + disp.setWidth 64) ∧
    (∀ sa : SReg, decodeWord w v = .ok (.callr sa) ↔ w = 0x1280000000000000 + (sa.setWidth 64 <<< 40)) ∧
    (∀ sa : SReg, decodeWord w v = .ok (.jr sa) ↔ w = 0x12C0000000000000 + (sa.setWidth 64 <<< 40))
/-! ### Exceptions: vocabulary -/

namespace Sys2Proof.Machine

/-- R252, R363: the lanes a fault of a scalar or engine instruction names: the enabled ones of a pack, bit 0 elsewhere. -/
def lanesOf (s : State) : Word := if kindOf s.cur = .pack then (if s.me.narrow then 0xFFFFFFFF else 0xFFFFFFFFFFFFFFFF) else 1

/-- R362: what the fault record of a precise fault of a scalar instruction says. -/
def faultOf (s : State) (c : Cause) (addr : Word) : Trap :=
  { cause := c, addr := addr, kind := 1, lanes := lanesOf s, perLane := [⟨0, c, addr⟩], frm := s.me.mode, word := s.word }

/-- R252, R362: what the fault record of `trap #n` says. -/
def trapOf (s : State) (n : BitVec 16) : Trap :=
  { cause := (cTRAP, 0), after := true, kind := 2, lanes := lanesOf s, perLane := [⟨0, (cTRAP, 0), 0⟩], trapno := n.toNat, frm := s.me.mode,
    word := s.word }

/-- R360, R362: the record of a trap is written from a translated FRBASE; its PC is 0 for a record fault. -/
def placeRecord (s : State) (u : Nat) (tr : Trans) (f : Trap) (pc : Word) : State × Bool :=
  writeRecordLines s { u := u, part := partOf s u, dev := tr.dev } tr.pa (recordLines f (if 4 ≤ f.kind ∧ f.kind ≤ 6 then 0 else pc))

/-- R364: the entry of a trap into mode `m` can be completed: FHANDLER is not 0, the record can be written at FRBASE, and the handler's
first instruction can be fetched. -/
def entryGoes (s : State) (u : Nat) (m : BitVec 2) (t : Trap) : Bool :=
  let e := (s.ctx u).exc m
  (e.fhandler != 0) &&
  match translate s (unitTrans s u m) .write false e.frbase with
  | (_, .error _) => false
  | (s1, .ok tr) =>
    !isDevice tr.pa &&
    match placeRecord s1 u tr t (s.ctx u).pc with
    | (_, false) => false
    | (s2, true) =>
      match fetchWhole s2 u m e.fhandler with
      | (_, .error _) => false
      | (_, .ok _) => true

/-- R252, R360: the acting unit has entered mode `m` with a cause, a fault address, a trap number and a return address, and nothing else
of it has changed: EPC, CAUSE and FADDR of that mode are written, PMODE holds the former mode, `s56` to `s58` of that mode's bank hold the
lanes, FRBASE and the PC, and it continues at FHANDLER. -/
def Entered (s t : State) (m : BitVec 2) (c : Cause) (addr : Word) (late : Bool) (trapno : BitVec 16) (lanes epc : Word) : Prop :=
  let a := s.me
  let b := t.ctx s.cur
  b.mode = m ∧ b.pmode = a.mode ∧ b.pc = (a.exc m).fhandler ∧ b.wait = .none ∧
  b.exc m = { (a.exc m) with
    epc := epc, faddr := addr,
    cause := BitVec.ofNat 64 (c.1.toNat + 256 * c.2.toNat + 65536 * late.toNat + 2 ^ 32 * trapno.toNat) } ∧
  (m = 2 → b.sup = a.sup) ∧ (m = 1 → b.hyp = a.hyp) ∧
  seenReg b m 56 = lanes ∧ seenReg b m 57 = (a.exc m).frbase ∧ seenReg b m 58 = a.pc ∧
  (∀ m' k, ¬ (56 ≤ k ∧ k ≤ 58 ∧ bankOf m' k = bankOf m k) → seenReg b m' k = seenReg a m' k) ∧
  { b with
    mode := a.mode, pmode := a.pmode, pc := a.pc, wait := a.wait, sup := a.sup, hyp := a.hyp, gpr := a.gpr, supBank := a.supBank,
    hypBank := a.hypBank } = a

/-- The instruction takes a precise fault: it enters the mode R358 names, with its own address in EPC. -/
def Faults (i : Instr) (s : State) (c : Cause) (addr : Word) : Prop :=
  entryGoes s s.cur (enteredMode s.me.mode c) (faultOf s c addr) = true →
    ∃ t, exec i s = .next t ∧ Entered s t (enteredMode s.me.mode c) c addr false 0 (lanesOf s) s.me.pc

/-- The instruction takes a precise fault, whose entry starts from state `a`: what the machine is after the instruction's own checks. -/
def FaultsFrom (i : Instr) (s a : State) (c : Cause) (addr : Word) : Prop :=
  entryGoes a a.cur (enteredMode a.me.mode c) (faultOf a c addr) = true →
    ∃ t, exec i s = .next t ∧ Entered a t (enteredMode a.me.mode c) c addr false 0 (lanesOf a) a.me.pc

/-- R217: the instruction meets late fault `c` in state `a`, after its checks: EPC is its own address, or the next instruction's where it
writes. -/
def FaultsLate (i : Instr) (s a : State) (c : BitVec 8) (addr : Word) (writes : Bool) : Prop :=
  entryGoes a a.cur (enteredMode a.me.mode (c, 0)) { faultOf a (c, 0) addr with late := true, after := writes } = true →
    ∃ t, exec i s = .next t ∧
      Entered a t (enteredMode a.me.mode (c, 0)) (c, 0) addr true 0 (lanesOf a) (if writes then a.me.pc + 8 else a.me.pc)

/-- R248: the control registers that are fields of the acting unit alone, with what they read. -/
def plainRegs : List (Nat × (Ctx → Word)) :=
  [(1, fun c => (c.exc c.mode).epc), (2, fun c => (c.exc c.mode).cause), (3, fun c => (c.exc c.mode).faddr),
   (4, fun c => (c.exc c.mode).frbase), (5, fun c => (c.exc c.mode).fhandler), (17, fun c => c.actbar), (21, fun c => c.tokspent),
   (40, fun c => c.ttb1), (41, fun c => c.ctxid.setWidth 64), (42, fun c => c.ttb2), (43, fun c => c.vmid.setWidth 64),
   (64, fun c => c.lseq), (65, fun c => c.sseq), (66, fun c => c.mseq), (67, fun c => c.vseq), (68, fun c => c.accsave)]

/-- R309: PACKID, BLOCKID, LANECOUNT, BLKMEMBERS and BLKHINT of the acting pack, from its context and its block. -/
def packRegs (s : State) : List (Nat × (Block → Nat)) :=
  [(8, fun _ => s.me.index + 2 ^ 8 * s.me.quarter + 2 ^ 16 * coreOf s.cur),
   (9, fun b => b.x + 2 ^ 20 * b.y + 2 ^ 36 * b.z + 2 ^ 52 * b.cohidx),
   (10, fun b => (if s.me.narrow then 32 else 64) + 2 ^ 8 * b.maxpacks + 2 ^ 16 * b.cohblocks),
   (11, fun b => b.packs.length + 2 ^ 32 * (b.packs.map fun p => 2 ^ p.1).sum), (12, fun b => b.hint)]

/-- R15, R249, R250, R192: the control registers an MTC writes that are fields of the acting unit alone, with what the write leaves in the
unit: reserved bits keep reading zero, and PMODE takes no value above MODE and never 3. -/
def plainWrites : List (Nat × (Ctx → Word → Ctx)) :=
  [(0, fun c v => if v.toNat / 4 % 4 ≤ c.mode.toNat ∧ v.toNat / 4 % 4 ≠ 3 then { c with pmode := BitVec.ofNat 2 (v.toNat / 4) } else c),
   (1, fun c v => c.setExc c.mode { c.exc c.mode with epc := v }),
   (2, fun c v => c.setExc c.mode { c.exc c.mode with cause := v &&& 0x0000FFFF0001FFFF }),
   (3, fun c v => c.setExc c.mode { c.exc c.mode with faddr := v }),
   (4, fun c v => c.setExc c.mode { c.exc c.mode with frbase := BitVec.ofNat 64 (v.toNat / 1024 * 1024) }),
   (5, fun c v => c.setExc c.mode { c.exc c.mode with fhandler := BitVec.ofNat 64 (v.toNat / 8 * 8) }),
   (21, fun c v => { c with tokspent := v })]

/-- R97, R251: the translation registers, with what an MTC leaves in the unit. -/
def transWrites : List (Nat × (Ctx → Word → Ctx)) :=
  [(40, fun c v => { c with ttb1 := v &&& 0x000FFFFFFFFFF001 }), (41, fun c v => { c with ctxid := v.setWidth 16 }),
   (42, fun c v => { c with ttb2 := v &&& 0x000FFFFFFFFFF001 }), (43, fun c v => { c with vmid := v.setWidth 16 })]

/-- An access of a mode to control register `n` of the acting unit's kind passes R248's checks. -/
def mayAccess (s : State) (n : Nat) (need : Kind → Nat → Nat) : Prop :=
  cregAssigned (kindOf s.cur) n = true ∧ need (kindOf s.cur) n ≤ s.me.mode.toNat

/-- The feature bits an instruction needs are offered to the acting unit (R30, R394). -/
def offers (s : State) (fs : List Nat) : Prop := ∀ f ∈ fs, hasFeature s s.cur f = true

end Sys2Proof.Machine

/-! ### Control registers -/

/-- R30, R192, R198, R248, R249, R251, R256, R309, R326: MOVC writes the register's value to `sd`. The registers of the unit read as they
stand; STATUS shows the modes, narrow mode, the shadow context and the event flag; TIME is the guest time; a pack's registers show its place
and its block; ACTAG shows the copies of each tag, ALLOW the core's tokens; FEAT0 is what the chiplet offers, the class accepts and, of a
guest, the mask lets through, and FEAT1 to FEAT7 are 0; a scope entry shows V, its address and the extent of its snapshot; every assigned
register reads something. -/
def Obligations.ControlRegisterReads : Prop :=
  ∀ (sd : SReg) s,
    (∀ n : BitVec 10, mayAccess s n.toNat cregReadMode → ∃ v, Writes (.movc sd n) s sd v) ∧
    (∀ p ∈ plainRegs, mayAccess s p.1 cregReadMode → Writes (.movc sd (BitVec.ofNat 10 p.1)) s sd (p.2 s.me)) ∧
    Writes (.movc sd 0) s sd (BitVec.ofNat 64
      (s.me.mode.toNat + 4 * s.me.pmode.toNat + 16 * s.me.narrow.toNat + 32 * (if kindOf s.cur = .shadow then 1 else 0) + 64 * s.me.evt.toNat)) ∧
    Writes (.movc sd 24) s sd (guestTime s) ∧ Writes (.time sd) s sd (guestTime s) ∧
    (∀ b blk, ∀ p ∈ packRegs s, kindOf s.cur = .pack → s.me.block = some b → s.block b = some blk →
      Writes (.movc sd (BitVec.ofNat 10 p.1)) s sd (BitVec.ofNat 64 (p.2 blk))) ∧
    (kindOf s.cur = .pack → (∀ t, t < 8 → acCount s.me t < 2 ^ 8) →
      ∃ v, Writes (.movc sd 16) s sd v ∧ ∀ t, t < 8 → v.toNat / 2 ^ (8 * t) % 2 ^ 8 = acCount s.me t) ∧
    (let k := s.core (coreOf s.cur)
     kindOf s.cur = .pack ∨ kindOf s.cur = .ctl → Writes (.movc sd 20) s sd
      (BitVec.ofNat 64 (k.tokens + 2 ^ 16 * hubF s (corectl (coreOf s.cur)) 16 16 + 2 ^ 32 * k.want + 2 ^ 48 * k.hungry.toNat))) ∧
    (let n := siteOfCore (coreOf s.cur)
     let offer := (s.site n).table.extractLsb' 256 64 &&& s.hubR (0x200 + 64 * classOfSite n) &&& BitVec.ofNat 64 (featOffer (classOfSite n))
     (partOf s s.cur = none → Writes (.movc sd 32) s sd offer) ∧
     (∀ p, partOf s s.cur = some p → Writes (.movc sd 32) s sd (if pGuest s p then offer &&& s.hubR (pBase p + 0x40) else offer))) ∧
    (∀ j, 1 ≤ j → j < 8 → Writes (.movc sd (BitVec.ofNat 10 (32 + j))) s sd 0) ∧
    (∀ n, n < 8 → Writes (.movc sd (BitVec.ofNat 10 (256 + n))) s sd
      (BitVec.ofNat 64 (1 + 2 * (if n ≤ 2 then 0 else if n ≤ 4 then 1 else if n = 6 then 3 else 2)))) ∧
    (∀ n, 8 ≤ n → n < 32 →
      let e := scopeEnt s (holderOf s s.cur) n
      ∃ ext : Nat, ext ≤ 2 ∧ Writes (.movc sd (BitVec.ofNat 10 (256 + n))) s sd (BitVec.ofNat 64 (2 * ext) ||| e.reg) ∧
        (ext = 0 ↔ ∀ c d, e.snap.getLsbD c = true → e.snap.getLsbD d = true → c = d) ∧
        (ext ≤ 1 ↔ ∀ c d, e.snap.getLsbD c = true → e.snap.getLsbD d = true → siteOfCore c = siteOfCore d))

/-- R248 to R251 (the order of failing checks: log 33, FADDR of a misaligned ACTBAR: log 34, both DEDUCED): MTC writes a control register of
the executing mode's bank and nothing else, and an ACTBAR whose OFFSET is not a multiple of 16 raises MISALIGN; a register that no mode
writes keeps its value and the instruction goes on. -/
def Claims.ControlRegisterWrites : Prop :=
  ∀ (sa : SReg) s,
    (∀ p ∈ plainWrites, mayAccess s p.1 cregWriteMode →
      ∃ t, exec (.mtc (BitVec.ofNat 10 p.1) sa) s = .next t ∧ OnlyMe s t ∧
        t.me = { p.2 s.me (s.rs sa) with pc := s.me.pc + 8, wait := .none }) ∧
    (mayAccess s 17 cregWriteMode → (s.rs sa).toNat % 16 = 0 →
      ∃ t, exec (.mtc 17 sa) s = .next t ∧ OnlyMe s t ∧
        t.me = { s.me with actbar := BitVec.ofNat 64 ((s.rs sa).toNat % 2 ^ 40), pc := s.me.pc + 8, wait := .none }) ∧
    (mayAccess s 17 cregWriteMode → (s.rs sa).toNat % 16 ≠ 0 → Faults (.mtc 17 sa) s (cMISALIGN, 0) (BitVec.ofNat 64 ((s.rs sa).toNat % 2 ^ 32))) ∧
    (∀ n : BitVec 10, mayAccess s n.toNat cregWriteMode →
      (8 ≤ n.toNat ∧ n.toNat ≤ 16 ∨ n.toNat = 20 ∨ 24 ≤ n.toNat ∧ n.toNat < 40 ∨ 64 ≤ n.toNat ∧ n.toNat < 68 ∨
        256 ≤ n.toNat ∧ n.toNat < 264) →
      GoesTo (.mtc n sa) s (s.me.pc + 8))

/-- R97, R110, R251: a write of a translation register drops what the core holds for the former context, as `tlbi.ctx` does, and the
acting unit's register holds the value afterwards. -/
def Claims.TranslationRegisterWrites : Prop :=
  ∀ (sa : SReg) s, ∀ p ∈ transWrites, mayAccess s p.1 cregWriteMode →
    ∃ t, exec (.mtc (BitVec.ofNat 10 p.1) sa) s = .next t ∧
      t.me = { p.2 s.me (s.rs sa) with pc := s.me.pc + 8, wait := .none } ∧
      (∀ u, u ≠ s.cur → t.ctx u = s.ctx u) ∧
      (∀ h ∈ t.mem.tlb, h ∈ s.mem.tlb ∧
        ¬ (h.core = coreOf s.cur ∧ h.vmid = s.me.vmid ∧ (h.stage2 = true ∨ h.glob = true ∨ h.ctxid = s.me.ctxid))) ∧
      { t.mem with tlb := s.mem.tlb } = s.mem

/-- R248, R291, R408: an MTC of ACCSAVE writes ADDR and keeps the tag. What the tag stands for follows it, and in the shadow context the
register of the task it serves. -/
def Claims.AccsaveWrites : Prop :=
  ∀ (sa : SReg) s, mayAccess s 68 cregWriteMode →
    let core := coreOf s.cur
    let new : Word := BitVec.ofNat 64 (s.me.accsave.toNat % 2 ^ 12 + (s.rs sa).toNat / 2 ^ 12 * 2 ^ 12)
    ∃ t, exec (.mtc 68 sa) s = .next t ∧ { t with ctxs := s.ctxs, cores := s.cores } = s ∧
      t.me = { s.me with accsave := new, pc := s.me.pc + 8, wait := .none } ∧
      (kindOf s.cur = .ctl → (∀ u, u ≠ s.cur → t.ctx u = s.ctx u) ∧
        ∀ g ∈ (t.core core).tagctx, g.tag = s.me.accsave.toNat % 2 ^ 8 → g.accsave = new) ∧
      (∀ e ord, kindOf s.cur = .shadow → s.me.serving = some (e, ord) → (t.ctx (unitId e.core e.ctx)).accsave = new ∧
        ∀ g ∈ (t.core core).tagctx, g.tag = s.me.accsave.toNat % 2 ^ 8 → g.accsave = new)

/-- R198 (an agent without a partition keeps every bit of the bitmap: log 36, DEDUCED): an MTC of SCOPE8 to SCOPE31 keeps V and BMAP, which
read back so; with V clear it drops the entry's snapshot; with V set it keeps the bitmap read at ADDR, for an agent with a partition only
the cores the partition holds. -/
def Claims.ScopeEntryWrites : Prop :=
  ∀ (sa : SReg) (n : BitVec 10) s, 264 ≤ n.toNat → n.toNat < 288 → mayAccess s n.toNat cregWriteMode →
    ((s.rs sa).getLsbD 0 = false →
      ∃ t, exec (.mtc n sa) s = .next t ∧ (scopeEnt t (holderOf s s.cur) (n.toNat - 256)).snap = 0 ∧
        (scopeEnt t (holderOf s s.cur) (n.toNat - 256)).reg = s.rs sa &&& 0x01FFFFFFFFFFFFC1 ∧
        { t with scopes := s.scopes, ctxs := s.ctxs } = s ∧ t.me = { s.me with pc := s.me.pc + 8, wait := .none }) ∧
    ((s.rs sa).getLsbD 0 = true →
      ∀ s1 tr s2 bs, checkVa s .read true (bitmapAddr (s.rs sa)) = (s1, .ok tr) → loadAt s1 tr 64 false = (s2, .ok bs) →
        ∃ t, exec (.mtc n sa) s = .next t ∧ (scopeEnt t (holderOf s s.cur) (n.toNat - 256)).reg = s.rs sa &&& 0x01FFFFFFFFFFFFC1 ∧
          (scopeEnt t (holderOf s s.cur) (n.toNat - 256)).snap =
            (field (ofBytes 512 bs) 0 384 &&& (match partOf s2 s2.cur with
              | some p => partCores s2 p
              | none => BitVec.allOnes 384)) ∧
          { t with scopes := s2.scopes, ctxs := s2.ctxs } = s2 ∧ t.ctx s2.cur = { s2.me with pc := s2.me.pc + 8, wait := .none })

/-- R248, R251, R59: a number not assigned on the executing kind of context raises ILLEGAL with subcause 0, before a mode that may not
reach it raises PRIV. -/
def Claims.ControlRegisterFaults : Prop :=
  ∀ (sr : SReg) (n : BitVec 10) s,
    (cregAssigned (kindOf s.cur) n.toNat = false → Faults (.movc sr n) s (cILLEGAL, 0) 0 ∧ Faults (.mtc n sr) s (cILLEGAL, 0) 0) ∧
    (cregAssigned (kindOf s.cur) n.toNat = true →
      (s.me.mode.toNat < cregReadMode (kindOf s.cur) n.toNat → Faults (.movc sr n) s (cPRIV, 0) 0) ∧
      (s.me.mode.toNat < cregWriteMode (kindOf s.cur) n.toNat → Faults (.mtc n sr) s (cPRIV, 0) 0))

/-! ### Traps and returns -/

/-- R252: TRAP enters supervisor mode from user mode and hypervisor mode from the others, with PC + 8 in EPC, CAUSE 0x0E and its number, and
the PC in `s58`. -/
def Claims.TrapEntersPrivilegedCode : Prop :=
  ∀ (n : BitVec 16) s,
    let m : BitVec 2 := if s.me.mode = 0 then 1 else 2
    entryGoes s.dirtied s.cur m (trapOf s n) = true →
      ∃ t, exec (.trap n) s = .next t ∧ Entered s.dirtied t m (cTRAP, 0) 0 false n (lanesOf s) (s.me.pc + 8)

/-- R253 (FADDR of a misaligned return: log 34, DEDUCED): ERET continues in the mode of PMODE at EPC of the mode it leaves, and leaves PMODE
as it was; in user mode it raises PRIV, and where EPC is not a multiple of 8, MISALIGN with the mode unchanged. -/
def Claims.EretReturns : Prop :=
  ∀ s,
    (s.me.mode ≠ 0 → (s.me.exc s.me.mode).epc.toNat % 8 = 0 → s.me.serving = none →
      ∃ t, exec .eret s = .next t ∧ OnlyMe s t ∧
        t.me = { s.me with mode := s.me.pmode, pc := (s.me.exc s.me.mode).epc, wait := .none }) ∧
    (s.me.mode = 0 → Faults .eret s (cPRIV, 0) 0) ∧
    (s.me.mode ≠ 0 → (s.me.exc s.me.mode).epc.toNat % 8 ≠ 0 → Faults .eret s (cMISALIGN, 0) (s.me.exc s.me.mode).epc)

/-- R40, R245 (FADDR of a misaligned target: log 34, DEDUCED): CALLR and JR to an address that is not a multiple of 8 raise MISALIGN with
that address, and write no register. -/
def Claims.MisalignedJumpsFault : Prop :=
  ∀ (sa : SReg) s, (s.rs sa).toNat % 8 ≠ 0 →
    Faults (.callr sa) s (cMISALIGN, 0) (s.rs sa) ∧ Faults (.jr sa) s (cMISALIGN, 0) (s.rs sa)

/-- R360, R364 (a unit without a launch stops: log 22, DEDUCED): a misaligned JR and a TRAP enter privileged code with the record their rules
give. An entry into a mode whose FHANDLER is 0, whose record cannot be written (FRBASE does not translate, is a device's, or a write of the
record faults), or whose handler's first instruction cannot be fetched, is fatal: it resets the unit's partition with REASON 1; a unit
without a launch stops. -/
def Claims.FailedEntryIsFatal : Prop :=
  (∀ s (sa : SReg), (s.rs sa).toNat % 8 ≠ 0 →
    let m := enteredMode s.me.mode (cMISALIGN, 0)
    exec (.jr sa) s = .next (enterTrap s s.cur m (faultOf s (cMISALIGN, 0) (s.rs sa)))) ∧
  (∀ s (n : BitVec 16), exec (.trap n) s = .next (enterTrap s.dirtied s.cur (if s.me.mode = 0 then 1 else 2) (trapOf s n))) ∧
  (∀ s u (m : BitVec 2) (f : Trap),
    let e := (s.ctx u).exc m
    (e.fhandler = 0 → enterTrap s u m f = failEntry s u) ∧
    (e.fhandler ≠ 0 →
      (∀ s1 c, translate s (unitTrans s u m) .write false e.frbase = (s1, .error c) → enterTrap s u m f = failEntry s1 u) ∧
      ∀ s1 tr, translate s (unitTrans s u m) .write false e.frbase = (s1, .ok tr) →
        (isDevice tr.pa = true → enterTrap s u m f = failEntry s1 u) ∧
        (isDevice tr.pa = false →
          (∀ s2, placeRecord s1 u tr f (s.ctx u).pc = (s2, false) → enterTrap s u m f = failEntry s2 u) ∧
          ∀ s2 s3 c, placeRecord s1 u tr f (s.ctx u).pc = (s2, true) → fetchWhole s2 u m e.fhandler = (s3, .error c) →
            enterTrap s u m f = failEntry s3 u))) ∧
  ∀ s u,
    (partOf s u = none → (s.ctx u).live = true → (s.ctx u).launch = none → ((failEntry s u).ctx u).live = false) ∧
    ∀ p, partOf s u = some p → pQuiesce s p = false → hubF (failEntry s u) (fBase p + 0x20) 8 8 = 1

/-! ### Events, points, pauses -/

/-- R254, R255, R361 (the core's kept context: log 27, DEDUCED and DESIGN CHOICE): SEV sets the flag of every host core; WFE, and HALT of a
host core in a privileged mode outside a launch, clear the flag and go on where it is set and wait at their PC where it is not. HALT ends
the share of a host core in a launch. -/
def Obligations.EventsAndHalting : Prop :=
  ∀ s,
    (∃ t, exec .sev s = .next t ∧ (∀ c, c < 64 → (t.ctx (unitId c 0)).evt = true) ∧ (∀ x ∈ t.former, x.2.evt = true) ∧
      (t.ctx s.cur).pc = s.me.pc + 8 ∧
      ∀ p, partOf s s.cur = some p → ∀ u, (kindOf u = .pack ∨ kindOf u = .ctl) → (s.ctx u).live = true → (s.ctx u).part = some p →
        (t.ctx u).evt = true) ∧
    (s.me.evt = true → ∃ t, exec .wfe s = .next t ∧ OnlyMe s t ∧ t.me = { s.me with evt := false, pc := s.me.pc + 8, wait := .none }) ∧
    (s.me.evt = false → ∃ t, exec .wfe s = .next t ∧ OnlyMe s t ∧ t.me = { s.me with wait := .event }) ∧
    (kindOf s.cur = .host → s.me.launch = none → s.me.mode ≠ 0 →
      (s.me.evt = true → ∃ t, exec .halt s = .next t ∧ OnlyMe s t ∧ t.me = { s.me with evt := false, pc := s.me.pc + 8, wait := .none }) ∧
      (s.me.evt = false → ∃ t, exec .halt s = .next t ∧ OnlyMe s t ∧ t.me = { s.me with wait := .halted })) ∧
    (kindOf s.cur = .host → s.me.launch.isSome → ∃ t, exec .halt s = .next t ∧
      (t.ctx s.cur).pc = (Sparse.get (fun _ => ({} : Ctx)) s.former s.cur).pc ∧
      (t.ctx s.cur).gpr = (Sparse.get (fun _ => ({} : Ctx)) s.former s.cur).gpr) ∧
    (kindOf s.cur = .ctl → recordsGone s.me = true → ∃ t, exec .halt s = .next t ∧ (t.ctx s.cur).live = false) ∧
    (kindOf s.cur = .pack ∨ kindOf s.cur = .shadow → Faults .halt s (cILLEGAL, 4) 0) ∧
    (kindOf s.cur = .host → s.me.launch = none → s.me.mode = 0 → Faults .halt s (cPRIV, 0) 0)

/-- R257, R365, R367 (points in user mode only: log 37, DEDUCED): PPOINT in user mode on a pack or a control context records its number and
PC as the last point and clears the record of a side effect; on a host core it does nothing. -/
def Claims.PointsRecordThePc : Prop :=
  ∀ (k : BitVec 16) s, s.me.narrow = false →
    ((kindOf s.cur = .pack ∨ kindOf s.cur = .ctl) → s.me.mode = 0 →
      ∃ t, exec (.ppoint k) s = .next t ∧ OnlyMe s t ∧
        t.me = { s.me with pointk := k, pointpc := s.me.pc, pvalid := true, dirty := false, pc := s.me.pc + 8, wait := .none }) ∧
    (kindOf s.cur = .host → GoesTo (.ppoint k) s (s.me.pc + 8))

/-- R321 (NAP's exact length: log 37, DEDUCED; the age that YIELD sets, and the cycle count at a pause's end: log 42, DEDUCED): NAP pauses a
unit for a number of cycles with its PC already past it, a NAP of 0 does nothing, and the end of the interval ends the pause; YIELD goes on,
and makes a pack the youngest of its tenant. -/
def Claims.PausesEnd : Prop :=
  ∀ s,
    (∀ n : BitVec 16, n ≠ 0 → ∃ t, exec (.napImm n) s = .next t ∧ OnlyMe s t ∧
      t.me = { s.me with pc := s.me.pc + 8, wait := .nap (s.cycles + napCycles s n.toNat) }) ∧
    GoesTo (.napImm 0) s (s.me.pc + 8) ∧
    (∀ sa : SReg, (s.rs sa).toNat % 65536 ≠ 0 → ∃ t, exec (.nap sa) s = .next t ∧ OnlyMe s t ∧
      t.me = { s.me with pc := s.me.pc + 8, wait := .nap (s.cycles + napCycles s ((s.rs sa).toNat % 65536)) }) ∧
    (∀ sa : SReg, (s.rs sa).toNat % 65536 = 0 → GoesTo (.nap sa) s (s.me.pc + 8)) ∧
    (∀ u d, (s.ctx u).wait = .nap d → ∃ t, exec (.napEnd u) s = .next t ∧ t.ctx u = { s.ctx u with wait := .none } ∧ d ≤ t.cycles) ∧
    (kindOf s.cur = .pack → ∃ t, exec .yield s = .next t ∧ OnlyMe s t ∧ t.me = { s.me with age := s.cycles, pc := s.me.pc + 8, wait := .none }) ∧
    (kindOf s.cur = .host → GoesTo .yield s (s.me.pc + 8)) ∧
    (kindOf s.cur = .ctl ∨ kindOf s.cur = .shadow → ∃ t, exec .yield s = .next t ∧ (t.core (coreOf s.cur)).yielded = some (s.cur % 128) ∧
      t.me = { s.me with pc := s.me.pc + 8, wait := .none })

/-- R110, R111: TLBI in a privileged mode, once peers have acknowledged what is outstanding, drops what its rule names and changes nothing
else of memory; LWAIT waits until HUBTIME has passed LMAX and LSKEW, and then goes on. -/
def Obligations.InvalidationsAndLeaseWaits : Prop :=
  ∀ s, s.me.mode ≠ 0 → s.mem.invals = [] →
    (∃ t, exec .tlbiAll s = .next t ∧ t.me = { s.me with pc := s.me.pc + 8, wait := .none } ∧
      t.mem = { s.mem with tlb := s.mem.tlb.filter fun h => !(h.core == coreOf s.cur && (s.me.mode == 2 || h.vmid == s.me.vmid)) }) ∧
    (∃ t, exec .tlbiCtx s = .next t ∧ t.me = { s.me with pc := s.me.pc + 8, wait := .none } ∧
      t.mem = { s.mem with
        tlb := s.mem.tlb.filter fun h =>
          !(h.core == coreOf s.cur && (h.vmid == s.me.vmid && (h.stage2 || h.glob || h.ctxid == s.me.ctxid))) }) ∧
    (∀ sa : SReg, ∃ t, exec (.tlbiPage sa) s = .next t ∧ t.me = { s.me with pc := s.me.pc + 8, wait := .none } ∧
      (∀ h ∈ t.mem.tlb, h ∈ s.mem.tlb) ∧ { t.mem with tlb := s.mem.tlb } = s.mem ∧
      (canonical (s.rs sa) = true → ∀ h ∈ t.mem.tlb, h.core = coreOf s.cur → h.vmid = s.me.vmid →
        (h.stage2 = true ∨ h.glob = true ∨ h.ctxid = s.me.ctxid) → h.vpn ≠ (s.rs sa).toNat % 2 ^ 57 / 2 ^ levelShift h.level)) ∧
    (s.me.narrow = false → (∀ d, s.me.wait ≠ .lwait d) →
      ∃ t, exec .lwait s = .next t ∧ OnlyMe s t ∧ t.me = { s.me with wait := .lwait (s.hubTime + lmaxInForce s + 64) }) ∧
    (s.me.narrow = false → ∀ d, s.me.wait = .lwait d → d ≤ s.hubTime → GoesTo .lwait s (s.me.pc + 8)) ∧
    (∀ u d, (s.ctx u).wait = .lwait d → ∃ t, exec (.lwaitExpiry u) s = .next t ∧
      t.ctx u = { s.ctx u with wait := .none, pc := (s.ctx u).pc + 8 } ∧ d ≤ t.hubTime)

/-- R258: LAUNCH reads the 64-byte packet at `s[sb]` once, puts it at the end of the Shepherd's queue `s[sa]`, and goes on; where the queue
holds 64 packets it waits with the packet it has read, and a waiting LAUNCH puts that packet there once there is room. A queue that may not
be launched to raises QUEUE with subcause 1, one of a partition that quiesces subcause 11, an address that is not a multiple of 64
MISALIGN. -/
def Obligations.LaunchEnqueuesItsPacket : Prop :=
  ∀ (sa sb : SReg) s,
    (∀ q p, s.me.wait = .launch q p →
      ((s.queue q).length < 64 → ∃ t, exec (.launch sa sb) s = .next t ∧ t = ((enqueue s q p).dirtied).advance ∧
        t.queue q = s.queue q ++ [{ packet := p, seq := s.nextId }] ∧ (∀ q', q' ≠ q → t.queue q' = s.queue q') ∧
        (t.ctx s.cur).pc = s.me.pc + 8) ∧
      (64 ≤ (s.queue q).length → exec (.launch sa sb) s = .next s)) ∧
    ((∀ q p, s.me.wait ≠ .launch q p) →
      (mayLaunch s (s.rs sa).toNat = false → Faults (.launch sa sb) s (cQUEUE, 1) 0) ∧
      (mayLaunch s (s.rs sa).toNat = true → pQuiesce s (queuePart s (s.rs sa).toNat) = true → Faults (.launch sa sb) s (cQUEUE, 11) 0) ∧
      (mayLaunch s (s.rs sa).toNat = true → pQuiesce s (queuePart s (s.rs sa).toNat) = false →
        ((s.rs sb).toNat % 64 ≠ 0 → Faults (.launch sa sb) s (cMISALIGN, 0) (s.rs sb)) ∧
        ((s.rs sb).toNat % 64 = 0 →
          ∀ s1 tr s2 bs, checkVa s .read false (s.rs sb) = (s1, .ok tr) → s1.mem.invals = [] → loadAt s1 tr 64 false = (s2, .ok bs) →
            ((s2.queue (s.rs sa).toNat).length < 64 →
              ∃ t, exec (.launch sa sb) s = .next t ∧
                t.queue (s.rs sa).toNat = s2.queue (s.rs sa).toNat ++ [{ packet := ofBytes 512 bs, seq := s2.nextId }] ∧
                (∀ q, q ≠ (s.rs sa).toNat → t.queue q = s2.queue q) ∧ t.mem = s2.mem ∧ t.hub = s2.hub ∧
                (t.ctx s2.cur).pc = s2.me.pc + 8 ∧ (∀ r, t.rs r = s2.rs r)) ∧
            (64 ≤ (s2.queue (s.rs sa).toNat).length →
              ∃ t, exec (.launch sa sb) s = .next t ∧ OnlyMe s2 t ∧
                t.me = { s2.me with wait := .launch (s.rs sa).toNat (ofBytes 512 bs) }))))
/-! ### Memory: vocabulary -/

namespace Sys2Proof.Machine

/-- A host core in a privileged mode with translation off and no partition, in a package without forwarding, reduction ranges or access
counting: its accesses go to their addresses (R97) and home applies them (R150). -/
def PlainHost (s : State) : Prop :=
  kindOf s.cur = .host ∧ s.me.mode ≠ 0 ∧ ttbEn s.me.ttb1 = false ∧ ttbEn s.me.ttb2 = false ∧ partOf s s.cur = none ∧
  s.mem.ranges = [] ∧ s.mem.fwd = [] ∧ hubF s 0x700 0 1 = 0 ∧ cohClass s 0 ≠ 2

/-- `n` bytes from `a` within one line of an enabled near or LPDDR set, the line not poisoned. -/
def PlainBytes (s : State) (a n : Nat) : Prop :=
  1 ≤ n ∧ a % 64 + n ≤ 64 ∧ (setOf s a).isSome ∧ ∀ k, homeKey s a = some k → memPoison s.mem k = false

/-- The little-endian number of the `n` bytes that memory holds from `a` (R14). -/
def numberAt (s : State) (a : Nat) : Nat → Nat
  | 0 => 0
  | n + 1 => (physByte s a).toNat + 256 * numberAt s (a + 1) n

/-- R222: what a load of `n` bytes writes: sign-extended or zero-extended. -/
def loadedValue (sx : Bool) (n x : Nat) : Word := if sx then (BitVec.ofNat (8 * n) x).signExtend 64 else BitVec.ofNat 64 x

/-- Of memory nothing changes but what slices hold: the directory, clean copies of remote lines and partials outside every live range, of
which a full slice drops one for the line it fetches (R144), and the metering of that line's write-back (R90). -/
def OnlyCaches (s t : State) : Prop :=
  { t.mem with dir := s.mem.dir, rem := s.mem.rem, partials := s.mem.partials, pool := s.mem.pool } = s.mem

/-- Of the hub's registers only the count of lost writes may change: that of pool lines a full slice wrote back that home had lost (R94). -/
def OnlyWblost (s t : State) : Prop := (∀ o, o ≠ 0x790 → t.hubR o = s.hubR o) ∧ hubF t 0x790 32 32 = hubF s 0x790 32 32

/-- The bytes of memory after a store of the low `n` bytes of `v` at `a`: those bytes there, and every byte that is stored elsewhere as
before. -/
def Stored (s t : State) (a n : Nat) (v : Word) : Prop :=
  (∀ i, i < n → physByte t (a + i) = v.extractLsb' (8 * i) 8) ∧
  ∀ b, (∀ i, i < n → homeKey s b ≠ homeKey s (a + i)) → physByte t b = physByte s b

/-- R224: the new value of an integer atomic of `w` bits. -/
def atomicResult (op : AOp) (w : Nat) (old v : BitVec w) : BitVec w :=
  match op with
  | .add => old + v
  | .and => old &&& v
  | .or => old ||| v
  | .xor => old ^^^ v
  | .min => if v.toInt < old.toInt then v else old
  | .max => if old.toInt < v.toInt then v else old
  | .minu => if v.toNat < old.toNat then v else old
  | .maxu => if old.toNat < v.toNat then v else old
  | .swap => v
  | .fadd => BitVec.ofNat w (atomicOp .fadd old.toNat v.toNat (w / 8))

/-- The effective address of a scalar load or store of any form with an access of `n` bytes (R215). -/
def indexed (s : State) (sa sb : SReg) (k : BitVec 2) : Word := s.rs sa + s.rs sb * BitVec.ofNat 64 (2 ^ k.toNat)
/-- R215: with an immediate. -/
def offset (s : State) (sa : SReg) (imm : BitVec 32) : Word := BitVec.ofInt 64 ((s.rs sa).toNat + imm.toInt)

/-- A load of `n` bytes from `ea` completes: `sd` holds the value, and of the machine nothing else changes but what slices hold, what the
hub counts of a line that one of them drops, and the count of free choices made (log 4). -/
def LoadsPlain (i : Instr) (s : State) (sd : SReg) (sx : Bool) (n : Nat) (ea : Word) : Prop :=
  ea.toNat % n = 0 → PlainBytes s ea.toNat n →
    ∃ t, exec i s = .next t ∧ OnlyCaches s t ∧ OnlyWblost s t ∧
      WroteAt { s with mem := t.mem, hub := t.hub, free := t.free } t sd (loadedValue sx n (numberAt s ea.toNat n)) (s.me.pc + 8)

/-- A store of the low `n` bytes of `v` to `ea` completes: memory holds them, and no register changes. -/
def StoresPlain (i : Instr) (s : State) (v : Word) (n : Nat) (ea : Word) : Prop :=
  ea.toNat % n = 0 → PlainBytes s ea.toNat n →
    ∃ t, exec i s = .next t ∧ WroteAt { s with mem := t.mem, hub := t.hub, free := t.free } t 0 0 (s.me.pc + 8) ∧ OnlyWblost s t ∧
      Stored s t ea.toNat n v

/-- The site the acting unit's core stands at. -/
def mySite (s : State) : Nat := siteOfCore (coreOf s.cur)

/-- `n` bytes at a physical address, in an enabled set that the acting unit's partition may use (R382), in a package without forwarding,
reduction ranges or access counting: home performs an access to them with nothing of its own in between. -/
def HomeTakes (s : State) (pa n : Nat) : Prop :=
  PlainBytes s pa n ∧ homeRefuses s (partOf s s.cur) pa = false ∧ s.mem.ranges = [] ∧ s.mem.partials = [] ∧ s.mem.fwd = [] ∧
  hubF s 0x700 0 1 = 0

/-- A translated access of the acting unit, of `n` bytes of a normal page, that home takes. -/
def ReachesHome (s : State) (tr : Trans) (n : Nat) : Prop := tr.dev = false ∧ HomeTakes s tr.pa n

/-- R160, R161: the partials of the range `r` have been gathered into home's bytes, where no slice held a byte of its own: in a line that is
not poisoned each element is home's value combined with every partial of the line that touched it, ascending by agent and slice, which for
an untouched element is home's value; every byte of other lines is as before, and a poisoned line stays so. -/
def GatheredInto (s t : State) (r : Range) : Prop :=
  (∀ line (ps : List Partial) key, r.base ≤ 64 * line → 64 * line < r.base + r.len → liveRange s (64 * line) = some r →
    homeKey s (64 * line) = some key →
    PlainBytes s (64 * line) 64 → ps.Perm (s.mem.partials.filter fun x => x.line == line) →
    ps.Pairwise (fun x y => x.agent < y.agent ∨ x.agent = y.agent ∧ x.slice < y.slice) →
    (∀ x ∈ s.mem.partials, x.line ≠ line → ∀ i j, i < 64 → j < 64 → homeKey s (64 * x.line + i) ≠ homeKey s (64 * line + j)) →
    let w := rfmtBytes r.fmt
    ∀ e, e < 64 / w → numberAt t (64 * line + w * e) w =
      (ps.filter fun x => x.touched.getLsbD e).foldl (fun v x => combineR r.fmt r.op v (elemAt x.bytes w e) % 2 ^ (8 * w))
        (numberAt s (64 * line + w * e) w)) ∧
  (∀ b, (∀ x ∈ s.mem.partials, r.base ≤ 64 * x.line → 64 * x.line < r.base + r.len → ∀ i, i < 64 →
    homeKey s b ≠ homeKey s (64 * x.line + i)) → physByte t b = physByte s b) ∧
  ∀ key, memPoison s.mem key = true → memPoison t.mem key = true

/-- R362: the bytes of a record's lines stand in `t` from physical address `pa`, but where a later byte of it is stored to the same place,
and every byte stored elsewhere is as in `s`. -/
def RecordBytes (s t : State) (pa : Nat) (ls : List Rec512) : Prop :=
  (∀ k, k < 64 * ls.length → (∀ j, k < j → j < 64 * ls.length → homeKey s (pa + j) ≠ homeKey s (pa + k)) →
    physByte t (pa + k) = (ls.getD (k / 64) 0).extractLsb' (8 * (k % 64)) 8) ∧
  ∀ b, (∀ k, k < 64 * ls.length → homeKey s b ≠ homeKey s (pa + k)) → physByte t b = physByte s b

/-- R360, R362, R364: what an entry of the acting unit into mode `m`, of trap `f`, has done to memory: FRBASE is translated for a write, the
record's 1,024 bytes are written there, and the handler's first instruction is fetched; memory holds what these leave of `s`, and nothing
else is written. On a FULL or IOC chiplet, where home takes the lines, the record's bytes stand in it. -/
def RecordStands (s t : State) (m : BitVec 2) (f : Trap) : Prop :=
  ∃ s1 tr s2 s3, translate s (unitTrans s s.cur m) .write false (s.me.exc m).frbase = (s1, .ok tr) ∧
    placeRecord s1 s.cur tr f s.me.pc = (s2, true) ∧ fetchWhole s2 s.cur m (s.me.exc m).fhandler = (s3, .ok ()) ∧ t.mem = s3.mem ∧
    (cohClass s1 (mySite s1) ≠ 2 → tr.dev = false → (∀ i, i < 16 → HomeTakes s1 (tr.pa + 64 * i) 64) →
      RecordBytes s1 s2 tr.pa (recordLines f (if 4 ≤ f.kind ∧ f.kind ≤ 6 then 0 else s.me.pc)))

/-- R362: the fields of a fault record, each by its first bit and its width, with what trap `f` puts there; reserved bits are zero. -/
def recordFields (f : Trap) (pc : Word) : List (Nat × Nat × Nat) :=
  [(0, 64, pc.toNat), (64, 8, f.cause.1.toNat), (72, 8, f.cause.2.toNat), (80, 1, f.late.toNat), (81, 3, 0), (84, 4, f.kind), (88, 6, f.maskreg),
   (94, 2, f.frm.toNat), (96, 16, f.trapno), (112, 16, 0), (128, 64, f.lanes.toNat), (192, 64, f.addr.toNat), (256, 64, f.word.toNat),
   (320, 192, 0), (5632, 4, f.queue), (5636, 4, 0), (5640, 8, f.tag), (5648, 8, f.otag), (5656, 8, 0), (5664, 11, f.slot), (5675, 21, 0),
   (5696, 64, f.done), (5760, 384, 0), (6144, 512, f.record.toNat), (6656, 512, 0), (7168, 512, 0), (7680, 512, 0)]

/-- What a trap says fits the fields of a record, and names each lane once. -/
def FitsRecord (f : Trap) : Prop :=
  f.kind < 2 ^ 4 ∧ f.maskreg < 2 ^ 6 ∧ f.trapno < 2 ^ 16 ∧ f.queue < 2 ^ 4 ∧ f.tag < 2 ^ 8 ∧ f.otag < 2 ^ 8 ∧ f.slot < 2 ^ 11 ∧
  f.done < 2 ^ 64 ∧ (f.perLane.map (·.lane)).Nodup ∧ ∀ e ∈ f.perLane, e.lane < 64

/-- Bits `lo` to `lo + n - 1` of a record, of a field within one of its lines. -/
def recordBits (ls : List Rec512) (lo n : Nat) : Nat := fieldNat (ls.getD (lo / 512) 0) (lo % 512) n

/-- Neither the L1 of the acting core nor a slice of its NCF die holds the line, nor does one keep it as a remote line's copy. -/
def NoCopyHere (s : State) (pa : Nat) : Prop :=
  (∀ x ∈ s.mem.l1, x.core = coreOf s.cur → x.line ≠ pa / 64) ∧ (∀ x ∈ s.mem.ncf, x.site = mySite s → x.line ≠ pa / 64) ∧
  ∀ x ∈ s.mem.rem, x.site = mySite s → x.line ≠ pa / 64

/-- The slice of the acting unit's NCF die holds the low `n` bytes of `v` for `pa`, dirty (R151). -/
def HeldInSlice (s t : State) (pa n : Nat) (v : Word) : Prop :=
  ∃ x ∈ t.mem.ncf, x.site = mySite s ∧ sliceFor s (mySite s) (partOf s s.cur) pa = some x.slice ∧ x.line = pa / 64 ∧
    ∀ i, i < n → x.dirty.getLsbD (pa % 64 + i) = true ∧ x.bytes.extractLsb' (8 * (pa % 64 + i)) 8 = v.extractLsb' (8 * i) 8

/-- The acting unit writes `v` to `sd` and continues 8 bytes on; every other scalar register reads as before. -/
def WroteReg (s t : State) (sd : SReg) (v : Word) : Prop :=
  (t.ctx s.cur).pc = s.me.pc + 8 ∧ (t.ctx s.cur).wait = .none ∧
  ∀ r : SReg, t.rs r = if r = sd ∧ r ≠ 0 then v else s.rs r

/-- Every form of a scalar load of a size, with its address. -/
def loadForms (s : State) (sz : Sz) (sx : Bool) (sd sa sb : SReg) (k : BitVec 2) (imm : BitVec 32) : List (Instr × Word) :=
  [(.ld sz sx k sd sa sb, indexed s sa sb k), (.ldImm sz sx sd sa imm, offset s sa imm)]

/-- Every form of a scalar store of a size, with its address. -/
def storeForms (s : State) (sz : Sz) (sd sa sb : SReg) (k : BitVec 2) (imm : BitVec 32) : List (Instr × Word) :=
  [(.st sz k sd sa sb, indexed s sa sb k), (.stImm sz sd sa imm, offset s sa imm)]

end Sys2Proof.Machine

/-! ### Scalar memory -/

/-- R215, R222: LD and LDO of a host core without translation read the bytes of memory at their address, in every form and size, and change
nothing but `sd`, the PC and what slices hold. -/
def Claims.UntranslatedLoadsRead : Prop :=
  ∀ s, PlainHost s → ∀ (sz : Sz) (sx : Bool) (sd sa : SReg),
    (∀ (k : BitVec 2) (sb : SReg), LoadsPlain (.ld sz sx k sd sa sb) s sd sx sz.bytes (indexed s sa sb k)) ∧
    (∀ imm : BitVec 32, LoadsPlain (.ldImm sz sx sd sa imm) s sd sx sz.bytes (offset s sa imm)) ∧
    (∀ (imm : BitVec 32) (scope : BitVec 5), scopeFails s s.cur scope.toNat = none →
      LoadsPlain (.ldo sz sx scope sd sa imm) s sd sx sz.bytes (offset s sa imm))

/-- R215, R222: ST and STO of a host core without translation write the low bytes of `s[sd]` at their address; every byte of memory stored
elsewhere reads as before, and no register changes. -/
def Claims.UntranslatedStoresWrite : Prop :=
  ∀ s, PlainHost s → ∀ (sz : Sz) (sd sa : SReg),
    (∀ (k : BitVec 2) (sb : SReg), StoresPlain (.st sz k sd sa sb) s (s.rs sd) sz.bytes (indexed s sa sb k)) ∧
    (∀ imm : BitVec 32, StoresPlain (.stImm sz sd sa imm) s (s.rs sd) sz.bytes (offset s sa imm)) ∧
    (∀ (imm : BitVec 32) (scope : BitVec 5), scopeFails s s.cur scope.toNat = none → s.mem.invals = [] →
      StoresPlain (.sto sz scope sd sa imm) s (s.rs sd) sz.bytes (offset s sa imm))

/-- R224, R225: ATOM and CAS of a host core without translation write the old value, zero-extended, to `sd` and the new value to memory; a
CAS whose compare fails writes no byte. -/
def Claims.UntranslatedAtomicsModify : Prop :=
  ∀ s, PlainHost s → s.mem.invals = [] → ∀ (sz : Sz) (ord : MOrd) (scope : BitVec 5) (sd sa sb sc : SReg),
    scopeFails s s.cur scope.toNat = none → (s.rs sa).toNat % sz.bytes = 0 → PlainBytes s (s.rs sa).toNat sz.bytes →
    let a := (s.rs sa).toNat
    let old : BitVec (8 * sz.bytes) := BitVec.ofNat _ (numberAt s a sz.bytes)
    (∀ op : AOp, ∃ t, exec (.atom sz op ord scope sd sa sb) s = .next t ∧ OnlyWblost s t ∧
      WroteAt { s with mem := t.mem, hub := t.hub, free := t.free } t sd (old.setWidth 64) (s.me.pc + 8) ∧
      Stored s t a sz.bytes ((atomicResult op (8 * sz.bytes) old ((s.rs sb).setWidth _)).setWidth 64)) ∧
    (∃ t, exec (.cas sz ord scope sd sa sb sc) s = .next t ∧ OnlyWblost s t ∧
      WroteAt { s with mem := t.mem, hub := t.hub, free := t.free } t sd (old.setWidth 64) (s.me.pc + 8) ∧
      (old = (s.rs sb).setWidth _ → Stored s t a sz.bytes (s.rs sc)) ∧
      (old ≠ (s.rs sb).setWidth _ →
        { t.mem with l1 := s.mem.l1, dir := s.mem.dir, rem := s.mem.rem, partials := s.mem.partials, pool := s.mem.pool } = s.mem))

/-- R215, R222, R150, R151: LD and LDO of a unit of any kind, in any mode and through any translation, read the bytes that home holds at
the translated address where no L1 or NCF slice answers in home's place. -/
def Claims.TranslatedLoadsRead : Prop :=
  ∀ s (sz : Sz) (sx : Bool) (sd sa sb : SReg) (k : BitVec 2) (imm : BitVec 32),
    (∀ f ∈ loadForms s sz sx sd sa sb k imm, ∀ s1 tr, f.2.toNat % sz.bytes = 0 → checkVa s .read true f.2 = (s1, .ok tr) →
      ReachesHome s1 tr sz.bytes → NoCopyHere s1 tr.pa →
      ∃ t, exec f.1 s = .next t ∧ WroteReg s1 t sd (loadedValue sx sz.bytes (numberAt s1 tr.pa sz.bytes))) ∧
    (∀ (scope : BitVec 5) s1 tr, scopeFails s s.cur scope.toNat = none → (offset s sa imm).toNat % sz.bytes = 0 →
      checkVa s .read true (offset s sa imm) = (s1, .ok tr) → ReachesHome s1 tr sz.bytes → NoCopyHere s1 tr.pa →
      ∃ t, exec (.ldo sz sx scope sd sa imm) s = .next t ∧ WroteReg s1 t sd (loadedValue sx sz.bytes (numberAt s1 tr.pa sz.bytes)))

/-- R215, R222, R150, R151: ST and STO of a unit of any kind, in any mode and through any translation: on a FULL or IOC chiplet home's
memory holds the bytes at the translated address and every byte stored elsewhere as before; on an NCF die the slice of a plain store holds
them, dirty. -/
def Claims.TranslatedStoresWrite : Prop :=
  ∀ s (sz : Sz) (sd sa sb : SReg) (k : BitVec 2) (imm : BitVec 32),
    (∀ f ∈ storeForms s sz sd sa sb k imm, ∀ s1 tr, f.2.toNat % sz.bytes = 0 → checkVa s .write true f.2 = (s1, .ok tr) →
      ReachesHome s1 tr sz.bytes →
      (cohClass s1 (mySite s1) ≠ 2 → ∃ t, exec f.1 s = .next t ∧ OnlyWblost s1 t ∧
        WroteAt { s1.dirtied with mem := t.mem, hub := t.hub, free := t.free, dies := t.dies } t 0 0 (s1.me.pc + 8) ∧
        Stored s1 t tr.pa sz.bytes (s1.rs sd)) ∧
      (cohClass s1 (mySite s1) = 2 → (sliceFor s1 (mySite s1) (partOf s1 s1.cur) tr.pa).isSome →
        oldSliceFor s1 (mySite s1) (partOf s1 s1.cur) tr.pa = none →
        ∃ t, exec f.1 s = .next t ∧ WroteReg s1 t 0 0 ∧ HeldInSlice s1 t tr.pa sz.bytes (s1.rs sd))) ∧
    (∀ (scope : BitVec 5) s1 tr, scopeFails s s.cur scope.toNat = none → (offset s sa imm).toNat % sz.bytes = 0 →
      checkVa s .write true (offset s sa imm) = (s1, .ok tr) → s1.mem.invals = [] → ReachesHome s1 tr sz.bytes →
      cohClass s1 (mySite s1) ≠ 2 →
      ∃ t, exec (.sto sz scope sd sa imm) s = .next t ∧ OnlyWblost s1 t ∧
        WroteAt { s1.dirtied with mem := t.mem, hub := t.hub, free := t.free, dies := t.dies } t 0 0 (s1.me.pc + 8) ∧
        Stored s1 t tr.pa sz.bytes (s1.rs sd))

/-- R224, R225, R150, R151, R207: ATOM and CAS of a unit of any kind, in any mode and through any translation, where no NCF slice of the die
holds the line: `sd` takes home's old value. On a FULL or IOC chiplet home's memory holds the new value and nothing else of memory's bytes
changes; on an NCF die the slice holds it, dirty, below package extent. A CAS whose compare fails writes no byte on a FULL or IOC
chiplet. -/
def Claims.TranslatedAtomicsModify : Prop :=
  ∀ s (sz : Sz) (ord : MOrd) (scope : BitVec 5) (sd sa sb sc : SReg) s1 tr, scopeFails s s.cur scope.toNat = none →
    (s.rs sa).toNat % sz.bytes = 0 → checkVa s .atomic true (s.rs sa) = (s1, .ok tr) → s1.mem.invals = [] → ReachesHome s1 tr sz.bytes →
    (∀ x ∈ s1.mem.ncf, x.site = mySite s1 → x.line ≠ tr.pa / 64) → (∀ x ∈ s1.mem.rem, x.site = mySite s1 → x.line ≠ tr.pa / 64) →
    let old : BitVec (8 * sz.bytes) := BitVec.ofNat _ (numberAt s1 tr.pa sz.bytes)
    let new (op : AOp) : Word := (atomicResult op (8 * sz.bytes) old ((s1.rs sb).setWidth _)).setWidth 64
    let after (t : State) : State := { s1.dirtied with mem := t.mem, hub := t.hub, free := t.free, dies := t.dies }
    (cohClass s1 (mySite s1) ≠ 2 →
      (∀ op : AOp, ∃ t, exec (.atom sz op ord scope sd sa sb) s = .next t ∧ OnlyWblost s1 t ∧ WroteAt (after t) t sd (old.setWidth 64) (s1.me.pc + 8) ∧
        Stored s1 t tr.pa sz.bytes (new op)) ∧
      (∃ t, exec (.cas sz ord scope sd sa sb sc) s = .next t ∧ OnlyWblost s1 t ∧ WroteAt (after t) t sd (old.setWidth 64) (s1.me.pc + 8) ∧
        (old = (s1.rs sb).setWidth _ → Stored s1 t tr.pa sz.bytes (s1.rs sc)) ∧
        (old ≠ (s1.rs sb).setWidth _ → t.mem.bytes = s1.mem.bytes))) ∧
    (cohClass s1 (mySite s1) = 2 → mySite s1 ≠ 0 → wideScope s1 s1.cur scope.toNat = false →
      (sliceFor s1 (mySite s1) (partOf s1 s1.cur) tr.pa).isSome → oldSliceFor s1 (mySite s1) (partOf s1 s1.cur) tr.pa = none →
      (∀ op : AOp, ∃ t, exec (.atom sz op ord scope sd sa sb) s = .next t ∧ WroteReg s1 t sd (old.setWidth 64) ∧
        HeldInSlice s1 t tr.pa sz.bytes (new op)) ∧
      (∃ t, exec (.cas sz ord scope sd sa sb sc) s = .next t ∧ WroteReg s1 t sd (old.setWidth 64) ∧
        (old = (s1.rs sb).setWidth _ → HeldInSlice s1 t tr.pa sz.bytes (s1.rs sc))))

/-- R252, R360, R362, R363: an entry that can be completed writes its 16 lines at FRBASE, and besides them only what their translation and
the handler's fetch mark; a TRAP and a misaligned jump do so. The record holds every field of its table where the table says, entry i of the
per-lane arrays what lane i met, an entry of no lane named zero, and so every reserved bit. -/
def Claims.FaultRecordsAreWritten : Prop :=
  (∀ s (m : BitVec 2) (f : Trap), entryGoes s s.cur m f = true → RecordStands s (enterTrap s s.cur m f) m f) ∧
  (∀ s (sa : SReg), (s.rs sa).toNat % 8 ≠ 0 →
    let m := enteredMode s.me.mode (cMISALIGN, 0)
    let f := faultOf s (cMISALIGN, 0) (s.rs sa)
    entryGoes s s.cur m f = true → ∀ i ∈ [Instr.jr sa, .callr sa], ∃ t, exec i s = .next t ∧ RecordStands s t m f) ∧
  (∀ s (n : BitVec 16),
    let m : BitVec 2 := if s.me.mode = 0 then 1 else 2
    entryGoes s.dirtied s.cur m (trapOf s n) = true → ∃ t, exec (.trap n) s = .next t ∧ RecordStands s.dirtied t m (trapOf s n)) ∧
  ∀ (f : Trap) (pc : Word), FitsRecord f →
    (recordLines f pc).length = 16 ∧ (∀ x ∈ recordFields f pc, recordBits (recordLines f pc) x.1 x.2.1 = x.2.2) ∧
    ∀ l, l < 64 →
      let e := (f.perLane.find? fun e => e.lane == l).getD ⟨l, (0, 0), 0⟩
      recordBits (recordLines f pc) (512 + 8 * l) 8 = e.cause.1.toNat ∧ recordBits (recordLines f pc) (1024 + 64 * l) 64 = e.addr.toNat ∧
      recordBits (recordLines f pc) (5120 + 8 * l) 8 = e.cause.2.toNat

/-- R215, R217, R222, R225: on every kind of context every form of a scalar load, store or atomic completes where its address is aligned, its
translation answers and the access does: an ordered one at a scope it may use, a release once nothing is outstanding. A misaligned address
raises MISALIGN and a translation's failure its own cause, both precise, with the address and no access; a cause that answers the access
itself is late. -/
def Obligations.ScalarAccessesCompleteOrFault : Prop :=
  ∀ (sz : Sz) (sx : Bool) (op : AOp) (ord : MOrd) (scope : BitVec 5) (sd sa sb sc : SReg) (k : BitVec 2) (imm : BitVec 32) s,
    let n := sz.bytes
    let load (i : Instr) (ea : Word) (go : State → State) (wide : State → Bool) : Prop :=
      ∀ s1 tr, ea.toNat % n = 0 → checkVa s .read true ea = (s1, .ok tr) →
        (∀ s2 bs, loadAt (go s1) tr n (wide s1) = (s2, .ok bs) → bs.length = n →
          ∃ t, exec i s = .next t ∧ WroteAt s2 t sd (loadedValue sx n (ofBytesNat bs)) (s2.me.pc + 8)) ∧
        ∀ s2 c, loadAt (go s1) tr n (wide s1) = (s2, .error c) → FaultsLate i s s2 c ea false
    let store (i : Instr) (ea : Word) (ready wide : State → Bool) : Prop :=
      ∀ s1 tr, ea.toNat % n = 0 → checkVa s .write true ea = (s1, .ok tr) → ready s1 = true →
        (∀ s2, storeAt s1 tr (toBytes (s1.rs sd) n) (wide s1) = (s2, none) →
          ∃ t, exec i s = .next t ∧ WroteAt s2.dirtied t 0 0 (s2.me.pc + 8)) ∧
        ∀ s2 c, storeAt s1 tr (toBytes (s1.rs sd) n) (wide s1) = (s2, some c) → FaultsLate i s s2 c ea true
    let atomic (i : Instr) (new : State → Nat → Option Nat) : Prop :=
      ∀ s1 tr, (s.rs sa).toNat % n = 0 → checkVa s .atomic true (s.rs sa) = (s1, .ok tr) →
        (releases ord = false ∨ releaseReady s1 scope.toNat = true) →
        let q := if acquires ord then acquirePoint s1 scope.toNat else s1
        let access := atomicAt q tr n (wideScope q q.cur scope.toNat) fun old =>
          (new q (ofBytesNat old)).map fun v => toBytes (BitVec.ofNat 64 v) n
        (∀ s2 old, access = (s2, .ok old) → ∃ t, exec i s = .next t ∧ WroteAt s2.dirtied t sd (ofBytes 64 old) (s2.me.pc + 8)) ∧
        ∀ s2 c, access = (s2, .error c) → FaultsLate i s s2 c (s.rs sa) true
    let checks (i : Instr) (a : AccKind) (ea : Word) : Prop :=
      (ea.toNat % n ≠ 0 → Faults i s (cMISALIGN, 0) ea) ∧
      ∀ s1 c, ea.toNat % n = 0 → checkVa s a true ea = (s1, .error c) → FaultsFrom i s s1 c ea
    (∀ f ∈ loadForms s sz sx sd sa sb k imm, load f.1 f.2 (fun s => s) (fun _ => false) ∧ checks f.1 .read f.2) ∧
    (∀ f ∈ storeForms s sz sd sa sb k imm, store f.1 f.2 (fun _ => true) (fun _ => false) ∧ checks f.1 .write f.2) ∧
    (scopeFails s s.cur scope.toNat = none →
      let wide (s : State) : Bool := wideScope s s.cur scope.toNat
      load (.ldo sz sx scope sd sa imm) (offset s sa imm) (fun s => acquirePoint s scope.toNat) wide ∧
      checks (.ldo sz sx scope sd sa imm) .read (offset s sa imm) ∧
      store (.sto sz scope sd sa imm) (offset s sa imm) (fun s => releaseReady s scope.toNat) wide ∧
      checks (.sto sz scope sd sa imm) .write (offset s sa imm) ∧
      atomic (.atom sz op ord scope sd sa sb) (fun s old => some (atomicOp op old (fieldNat (s.rs sb) 0 (8 * n)) n)) ∧
      checks (.atom sz op ord scope sd sa sb) .atomic (s.rs sa) ∧
      atomic (.cas sz ord scope sd sa sb sc)
        (fun s old => if old = fieldNat (s.rs sb) 0 (8 * n) then some (fieldNat (s.rs sc) 0 (8 * n)) else none) ∧
      checks (.cas sz ord scope sd sa sb sc) .atomic (s.rs sa))

/-- R145, R203, R227: FENCE goes on, at system extent once peers have acknowledged what is outstanding; one that holds an acquire at more
than a core's extent leaves the core's clean-only L1 empty, and nothing else of memory changes. -/
def Claims.FencesComplete : Prop :=
  ∀ (kind : FenceKind) (scope : BitVec 5) s, scopeFails s s.cur scope.toNat = none → s.mem.invals = [] →
    ∃ t, exec (.fence kind scope) s = .next t ∧ WroteAt { s with mem := t.mem } t 0 0 (s.me.pc + 8) ∧
      { t.mem with l1 := s.mem.l1 } = s.mem ∧ (∀ x ∈ t.mem.l1, x ∈ s.mem.l1) ∧
      (kind ≠ .rel → 3 ≤ scope.toNat → scope.toNat < 8 → 64 ≤ coreOf s.cur → ∀ x ∈ t.mem.l1, x.core ≠ coreOf s.cur) ∧
      (kind = .rel → t.mem = s.mem)

/-! ### Maintenance, reduction ranges, descriptors -/

/-- R154, R155: a maintenance instruction whose pages may be reached goes on after its lines; CINV and CWBI leave no line of its bytes in
the executing core's L1; a length of 0 does nothing, and one above 1 GiB raises BOUNDS with subcause 1. -/
def Claims.MaintenanceCompletes : Prop :=
  ∀ (sa sb : SReg) s,
    (∀ p ∈ [(Instr.cwb sa sb, Maint.wb), (Instr.cinv sa sb, Maint.inv), (Instr.cwbi sa sb, Maint.wbinv)],
      ((s.rs sb) = 0 → ∃ t, exec p.1 s = .next t ∧ WroteAt s.dirtied t 0 0 (s.me.pc + 8)) ∧
      (0x40000000 < (s.rs sb).toNat → Faults p.1 s (cBOUNDS, 1) (s.rs sa)) ∧
      ∀ s1 ps s2, 0 < (s.rs sb).toNat → (s.rs sb).toNat ≤ 0x40000000 →
        checkPieces s (if p.2 = .wb then .read else .write) true (s.rs sa - BitVec.ofNat 64 ((s.rs sa).toNat % 64))
          (linesOf (s.rs sa) (s.rs sb).toNat) (linesOf (s.rs sa) (s.rs sb).toNat + 1) = (s1, .ok ps) →
        ps.foldl (maintPiece p.2) (s1, none) = (s2, none) →
        ∃ t, exec p.1 s = .next t ∧ WroteAt s2.dirtied t 0 0 (s2.me.pc + 8) ∧
          (p.2 ≠ .wb → ∀ x ∈ t.mem.l1, x.core = coreOf s1.cur → ∀ q ∈ ps, q.dev = false → isDevice q.pa = false →
            ¬ (q.pa ≤ 64 * x.line ∧ 64 * x.line < q.pa + 64 * q.lines)))

/-- R157 to R161: RRDEF makes its bytes a live range of the executing partition and leaves no cached copy of them; RRDROP of a range's first
byte gathers what the slices hold of its lines, in the order of their agents and slices, into home's bytes, and ends it. -/
def Claims.ReductionRangesComeAndGo : Prop :=
  ∀ (fmt : RFmt) (op : ROp) (sa sb : SReg) s, offers s [2] → s.me.narrow = false →
    (∀ s1 tr, (s.rs sa).toNat % 2048 = 0 → 0 < (s.rs sb).toNat → (s.rs sb).toNat ≤ 524288 → checkVa s .atomic false (s.rs sa) = (s1, .ok tr) →
      (∀ e, mappingEnd s1 (unitTrans s1 s1.cur s1.me.mode) (s.rs sa) = some e → (s.rs sa).toNat % 2 ^ 57 + 2048 * (s.rs sb).toNat ≤ e) →
      inSets s1 tr.pa (2048 * (s.rs sb).toNat) 33 = true → clearOfPairs s1 tr.pa (2048 * (s.rs sb).toNat) = true →
      (∀ r ∈ s1.mem.ranges, overlaps tr.pa (2048 * (s.rs sb).toNat) r.base r.len = false) → s1.mem.ranges.length < 256 →
      ∃ t, exec (.rrdef fmt op sa sb) s = .next t ∧
        t.mem.ranges = s1.mem.ranges ++ [⟨partOf s1 s1.cur, tr.pa, 2048 * (s.rs sb).toNat, fmt, op⟩] ∧
        (∀ x ∈ t.mem.l1, ¬ (tr.pa ≤ 64 * x.line ∧ 64 * x.line < tr.pa + 2048 * (s.rs sb).toNat)) ∧
        (∀ x ∈ t.mem.ncf, ¬ (tr.pa ≤ 64 * x.line ∧ 64 * x.line < tr.pa + 2048 * (s.rs sb).toNat)) ∧
        (t.ctx s1.cur).pc = s1.me.pc + 8 ∧ (∀ r, t.rs r = s1.rs r)) ∧
    (∀ s1 tr r, checkVa s .read false (s.rs sa) = (s1, .ok tr) →
      (s1.mem.ranges.find? fun r => r.part == partOf s1 s1.cur && r.base == tr.pa) = some r →
      ∃ t, exec (.rrdrop sa) s = .next t ∧ r ∉ t.mem.ranges ∧ (∀ x ∈ t.mem.ranges, x ∈ s1.mem.ranges) ∧
        (∀ x ∈ s1.mem.ranges, x ≠ r → x ∈ t.mem.ranges) ∧ (t.ctx s1.cur).pc = s1.me.pc + 8 ∧ (∀ q, t.rs q = s1.rs q) ∧
        (∀ x ∈ t.mem.partials, x ∈ s1.mem.partials ∧ ¬ (r.base ≤ 64 * x.line ∧ 64 * x.line < r.base + r.len)) ∧
        (s1.mem.ncf = [] → GatheredInto s1 t r))

/-- R160, R228, R216: REDS of a unit of any site combines its value into the partial that the executing die's slice holds of the line, which
then has the element touched; a REDS of four bytes into a bf16 range combines two elements; an element size the range has not raises BOUNDS
with subcause 5, an address outside every live range of the partition BOUNDS with subcause 6. -/
def Claims.RedsCombinesIntoAPartial : Prop :=
  ∀ (sz : Sz) (sa sb : SReg) s s1 tr, offers s [2] → s.me.narrow = false → (s.rs sa).toNat % sz.bytes = 0 →
    checkVa s .atomic false (s.rs sa) = (s1, .ok tr) → isRemote tr.pa = false →
    let q := s1.req tr false
    let s0 := takeToken (rehashLine s1 q.site q.part tr.pa) q tr.pa
    (∀ r sl, rangeOf s1 (partOf s1 s1.cur) tr.pa = some r → sliceFor s0 q.site q.part tr.pa = some sl →
      let s2 := sliceRoom s0 q.site sl (lineOf tr.pa)
      let x := (partialAt s2 (q.site + 1) sl (lineOf tr.pa)).getD (newPartial (q.site + 1) sl (lineOf tr.pa) r)
      let i := tr.pa % 64 / rfmtBytes r.fmt
      (rfmtBytes r.fmt = sz.bytes →
        ∃ t p, exec (.reds sz sa sb) s = .next t ∧ partialAt t (q.site + 1) sl (lineOf tr.pa) = some p ∧
          p.touched = x.touched ||| BitVec.ofNat 64 (2 ^ i) ∧
          p.bytes = setElem x.bytes sz.bytes i
            (combineR r.fmt r.op (elemAt x.bytes sz.bytes i) (fieldNat (s1.rs sb) 0 (8 * sz.bytes))) ∧
          { t.mem with partials := s2.mem.partials } = s2.mem ∧ WroteReg s1 t 0 0) ∧
      (rfmtBytes r.fmt = 2 → sz.bytes = 4 → tr.pa % 4 = 0 → formerSlice s1 q.site q.part tr.pa = none →
        ∃ t p, exec (.reds sz sa sb) s = .next t ∧ partialAt t (q.site + 1) sl (lineOf tr.pa) = some p ∧
          p.touched.getLsbD i = true ∧ p.touched.getLsbD (i + 1) = true ∧
          elemAt p.bytes 2 i = combineR r.fmt r.op (elemAt x.bytes 2 i) (fieldNat (s1.rs sb) 0 16) % 65536 ∧
          elemAt p.bytes 2 (i + 1) = combineR r.fmt r.op (elemAt x.bytes 2 (i + 1)) (fieldNat (s1.rs sb) 16 16) % 65536 ∧
          { t.mem with partials := s2.mem.partials } = s2.mem ∧ WroteReg s1 t 0 0)) ∧
    (∀ r, rangeOf s1 (partOf s1 s1.cur) tr.pa = some r → rfmtBytes r.fmt ≠ sz.bytes → ¬ (rfmtBytes r.fmt = 2 ∧ sz.bytes = 4) →
      entryGoes s1 s1.cur (enteredMode s1.me.mode (cBOUNDS, 5)) (faultOf s1 (cBOUNDS, 5) (s.rs sa)) = true →
      ∃ t, exec (.reds sz sa sb) s = .next t ∧
        Entered s1 t (enteredMode s1.me.mode (cBOUNDS, 5)) (cBOUNDS, 5) (s.rs sa) false 0 (lanesOf s1) s1.me.pc) ∧
    (rangeOf s1 (partOf s1 s1.cur) tr.pa = none →
      entryGoes s1 s1.cur (enteredMode s1.me.mode (cBOUNDS, 6)) (faultOf s1 (cBOUNDS, 6) (s.rs sa)) = true →
      ∃ t, exec (.reds sz sa sb) s = .next t ∧
        Entered s1 t (enteredMode s1.me.mode (cBOUNDS, 6)) (cBOUNDS, 6) (s.rs sa) false 0 (lanesOf s1) s1.me.pc)

/-- R218, R213, R217: REDS of a remote address is judged at the line's home package, whose ranges this package does not know (the model
leaves the answer free, log 4): it goes on, with only its own bytes of memory changed and no copy of the line left in the core's L1, or
meets a late BOUNDS with subcause 6 or 5. -/
def Claims.RemoteRedsIsJudgedAtHome : Prop :=
  ∀ (sz : Sz) (sa sb : SReg) s s1 tr key, offers s [2] → s.me.narrow = false → (s.rs sa).toNat % sz.bytes = 0 →
    checkVa s .atomic false (s.rs sa) = (s1, .ok tr) → isRemote tr.pa = true → homeKey s1 tr.pa = some key →
    (Config.choice s1.free % 3 = 2 → memPoison s1.mem key = false →
      ∃ t, exec (.reds sz sa sb) s = .next t ∧ WroteReg s1 t 0 0 ∧
        (∀ x ∈ t.mem.l1, x.core = coreOf s1.cur → x.line ≠ tr.pa / 64) ∧
        ∀ b, (∀ i, i < sz.bytes → homeKey s1 b ≠ some (key + i)) → physByte t b = physByte s1 b) ∧
    (∀ sub : BitVec 8, (Config.choice s1.free % 3 = 0 ∧ sub = 6) ∨ (Config.choice s1.free % 3 = 1 ∧ sub = 5) →
      let c : Cause := (cBOUNDS, sub)
      let s2 := (takeToken s1 (s1.req tr false) tr.pa).takeFree
      entryGoes s2 s1.cur (enteredMode s1.me.mode c) { faultOf s1 c (s.rs sa) with late := true, after := true } = true →
      ∃ t, exec (.reds sz sa sb) s = .next t ∧
        Entered s2 t (enteredMode s1.me.mode c) c (s.rs sa) true 0 (lanesOf s1) (s1.me.pc + 8))

/-- R137 to R139, R151 (a late fault leaves DSET committed where a line took effect: R368): DSET of a well-formed descriptor, by a unit of
any kind through any translation, makes it the descriptor of every line of its bytes and changes no byte of memory; on an NCF die the slice
holds it, dirty; a copy in the core's L1 takes it. DGET reads a line's descriptor from home, or from the NCF slice that holds it. A
malformed descriptor raises MALFORMED, bytes that are no whole lines MISALIGN, more than 2 MiB BOUNDS with subcause 1, and a late fault is
taken after the instruction. -/
def Obligations.DescriptorsAreSetAndRead : Prop :=
  ∀ (sa sb sc sd : SReg) s, offers s [3] → s.me.narrow = false →
    let d : BitVec 16 := (s.rs sc).setWidth 16
    let lines := (s.rs sb).toNat / 64
    let ok := (s.rs sc).toNat < 65536 ∧ descOk d = true
    let fits := ok ∧ (s.rs sa).toNat % 64 = 0 ∧ (s.rs sb).toNat % 64 = 0 ∧ (s.rs sb).toNat ≤ 0x200000
    (ok → ((s.rs sa).toNat % 64 ≠ 0 ∨ (s.rs sb).toNat % 64 ≠ 0) → Faults (.dset sa sb sc) s (cMISALIGN, 0) (s.rs sa)) ∧
    (ok → (s.rs sa).toNat % 64 = 0 → (s.rs sb).toNat % 64 = 0 → 0x200000 < (s.rs sb).toNat →
      Faults (.dset sa sb sc) s (cBOUNDS, 1) (s.rs sa)) ∧
    (∀ s1 ps, fits → checkPieces s .write false (s.rs sa) lines (lines + 1) = (s1, .ok ps) →
      (∀ s2 took, ps.foldl (descPiece d) (s1, none, false) = (s2, none, took) →
        ∃ t, exec (.dset sa sb sc) s = .next t ∧ WroteAt s2.dirtied t 0 0 (s2.me.pc + 8)) ∧
      (∀ s2 c va took, ps.foldl (descPiece d) (s1, none, false) = (s2, some (c, va), took) →
        let s3 := if took then s2.dirtied else s2
        entryGoes s3 s3.cur (enteredMode s3.me.mode (c, 0)) { faultOf s3 (c, 0) va with late := true, after := true } = true →
        ∃ t, exec (.dset sa sb sc) s = .next t ∧ Entered s3 t (enteredMode s3.me.mode (c, 0)) (c, 0) va true 0 (lanesOf s3) (s3.me.pc + 8)) ∧
      (cohClass s1 (mySite s1) ≠ 2 → (∀ p ∈ ps, ∀ i, i < p.lines → HomeTakes s1 (p.pa + 64 * i) 64) →
        ∃ t, exec (.dset sa sb sc) s = .next t ∧ WroteReg s1 t 0 0 ∧ t.mem.bytes = s1.mem.bytes ∧
          ∀ p ∈ ps, ∀ i, i < p.lines →
            (∀ k, homeKey s1 (p.pa + 64 * i) = some k → memDesc t.mem k = d) ∧
            ∀ x ∈ t.mem.l1, x.core = coreOf s1.cur → x.line = p.pa / 64 + i → x.desc = d) ∧
      (∀ p sl, cohClass s1 (mySite s1) = 2 → mySite s1 ≠ 0 → ps = [p] → p.lines = 1 → HomeTakes s1 p.pa 64 →
        sliceFor s1 (mySite s1) (partOf s1 s1.cur) p.pa = some sl → oldSliceFor s1 (mySite s1) (partOf s1 s1.cur) p.pa = none →
        ∃ t, exec (.dset sa sb sc) s = .next t ∧ WroteReg s1 t 0 0 ∧
          ∃ x ∈ t.mem.ncf, x.site = mySite s1 ∧ x.slice = sl ∧ x.line = p.pa / 64 ∧ x.desc = d ∧ x.descDirty = true)) ∧
    (∀ s1 tr, checkVa s .read false (s.rs sa) = (s1, .ok tr) → tr.dev = false → HomeTakes s1 (tr.pa / 64 * 64) 64 →
      (∀ k, NoCopyHere s1 tr.pa → homeKey s1 (tr.pa / 64 * 64) = some k →
        ∃ t, exec (.dget sd sa) s = .next t ∧ WroteReg s1 t sd ((memDesc s1.mem k).setWidth 64)) ∧
      (∀ x, cohClass s1 (mySite s1) = 2 → mySite s1 ≠ 0 → (∀ y ∈ s1.mem.l1, y.core = coreOf s1.cur → y.line ≠ tr.pa / 64) →
        oldSliceFor s1 (mySite s1) (partOf s1 s1.cur) tr.pa = none → ncfLookup s1 (mySite s1) (partOf s1 s1.cur) tr.pa = some x →
        x.held = BitVec.allOnes 64 → x.valid = true →
        ∃ t, exec (.dget sd sa) s = .next t ∧ WroteReg s1 t sd (x.desc.setWidth 64))) ∧
    ((65536 ≤ (s.rs sc).toNat ∨ descOk ((s.rs sc).setWidth 16) = false) → Faults (.dset sa sb sc) s (cMALFORMED, 0) (s.rs sa)) ∧
    (PlainHost s → PlainBytes s ((s.rs sa).toNat / 64 * 64) 64 →
      (∀ k, homeKey s ((s.rs sa).toNat / 64 * 64) = some k →
        ∃ t, exec (.dget sd sa) s = .next t ∧ OnlyCaches s t ∧ OnlyWblost s t ∧
          WroteAt { s with mem := t.mem, hub := t.hub, free := t.free } t sd ((memDesc s.mem k).setWidth 64) (s.me.pc + 8)) ∧
      ((s.rs sc).toNat < 65536 → descOk ((s.rs sc).setWidth 16) = true → (s.rs sa).toNat % 64 = 0 → (s.rs sb) = 64 →
        ∀ k, homeKey s (s.rs sa).toNat = some k →
          ∃ t, exec (.dset sa sb sc) s = .next t ∧ WroteAt { s with mem := t.mem, hub := t.hub, free := t.free } t 0 0 (s.me.pc + 8) ∧
            OnlyWblost s t ∧ memDesc t.mem k = (s.rs sc).setWidth 16 ∧ t.mem.bytes = s.mem.bytes))

/-! ### Blocks and barriers: vocabulary -/

namespace Sys2Proof.Machine

/-- The acting pack of a block; where an instruction needs the features named, its chiplet offers them and the pack is wide (R57). -/
def PackOf (s : State) (b : Nat) (blk : Block) (fs : List Nat) : Prop :=
  kindOf s.cur = .pack ∧ (fs ≠ [] → s.me.narrow = false) ∧ s.me.block = some b ∧ s.block b = some blk ∧ offers s fs

/-- R320: the last arrival of a pack stands in a phase that has not completed. -/
def stillArrived (x : Bar) (w : PackName) : Prop := x.waits w = true

/-- R319, R320: a pack that is counted arrives at a barrier whose open phase expects more arrivals: one more has come. -/
def JoinsPhase (x y : Bar) (w : PackName) : Prop :=
  y.ph = x.ph ∧ y.arr = x.arr + 1 ∧ y.exp = x.exp ∧ y.fixed = true ∧ w ∈ y.arrived

/-- R319: the last awaited arrival completes the phase: the next is open, and nobody has arrived in it. -/
def CompletesPhase (x y : Bar) : Prop := y.ph = x.ph + 1 ∧ y.arr = 0 ∧ y.fixed = false

end Sys2Proof.Machine

/-! ### Barriers and the size of a block -/

/-- R319, R320: at a block barrier a pack that BAR brings as the last of its phase goes on and opens the next phase, an earlier one waits;
BARARR goes on either way; an arrival of a pack that has already arrived raises BARRIER with subcause 0. -/
def Claims.BlockBarriers : Prop :=
  ∀ (i : BitVec 4) s b blk, PackOf s b blk [] →
    let x := blk.bar i.toNat
    let w := (b, s.me.index)
    (¬ stillArrived x w → x.fixed = true → w ∈ x.counted → x.held = [] →
      (x.arr + 1 = x.exp →
        (s.me.wait ≠ .bar i.toNat → ∃ t blk', exec (.bar i) s = .next t ∧ t.block b = some blk' ∧ CompletesPhase x (blk'.bar i.toNat) ∧
          t.me.pc = s.me.pc + 8 ∧ t.me.wait = .none ∧ ∀ r, t.rs r = s.rs r) ∧
        ∃ t blk', exec (.bararr i) s = .next t ∧ t.block b = some blk' ∧ CompletesPhase x (blk'.bar i.toNat) ∧ t.me.pc = s.me.pc + 8 ∧
          ∀ r, t.rs r = s.rs r) ∧
      (x.arr + 1 < x.exp →
        (s.me.wait ≠ .bar i.toNat → ∃ t blk', exec (.bar i) s = .next t ∧ t.block b = some blk' ∧ JoinsPhase x (blk'.bar i.toNat) w ∧
          t.me.pc = s.me.pc ∧ t.me.wait = .bar i.toNat) ∧
        ∃ t blk', exec (.bararr i) s = .next t ∧ t.block b = some blk' ∧ JoinsPhase x (blk'.bar i.toNat) w ∧ t.me.pc = s.me.pc + 8)) ∧
    (¬ stillArrived x w → x.fixed = false → x.arr = 0 → 1 < blk.packs.length →
      ∃ t blk', exec (.bararr i) s = .next t ∧ t.block b = some blk' ∧ (blk'.bar i.toNat).exp = blk.packs.length ∧
        (blk'.bar i.toNat).fixed = true ∧ (blk'.bar i.toNat).arr = 1 ∧ t.me.pc = s.me.pc + 8) ∧
    (stillArrived x w → Faults (.bararr i) s (cBARRIER, 0) 0 ∧ (s.me.wait ≠ .bar i.toNat → Faults (.bar i) s (cBARRIER, 0) 0)) ∧
    (s.me.wait = .bar i.toNat → x.waits w = false → GoesTo (.bar i) s (s.me.pc + 8)) ∧
    (x.waits w = false → GoesTo (.barwt i) s (s.me.pc + 8)) ∧
    (x.waits w = true → ∃ t, exec (.barwt i) s = .next t ∧ OnlyMe s t ∧ t.me = { s.me with wait := .barwt i.toNat })

/-- R320, R209: COHBAR of the last pack of a cohort's phase goes on, opens the next phase, and acquires at cohort scope; a pack outside a
cohort raises BARRIER with subcause 1. -/
def Claims.CohortBarriers : Prop :=
  ∀ s b blk, PackOf s b blk [5] → s.me.wait ≠ .cohbar →
    (∀ k c, blk.cohort = some k → s.cohort k = some c → ¬ stillArrived c.bar (b, s.me.index) → c.bar.fixed = true →
      (b, s.me.index) ∈ c.bar.counted → c.bar.held = [] → c.bar.arr + 1 = c.bar.exp →
      ∃ t c', exec .cohbar s = .next t ∧ t.cohort k = some c' ∧ CompletesPhase c.bar c'.bar ∧ t.me.pc = s.me.pc + 8 ∧
        (∀ x ∈ t.mem.l1, x.core ≠ coreOf s.cur) ∧ ∀ r, t.rs r = s.rs r) ∧
    (blk.cohort = none → Faults .cohbar s (cBARRIER, 1) 0)

/-- R316: ATTACH of 0 packs has no effect but the record of a side effect (R368); of a number that fits, it queues a request with its target
and goes on; of more, it raises BOUNDS with subcause 12. A grant makes one pack of the oldest request resident at its address. -/
def Claims.AttachGrowsABlock : Prop :=
  ∀ (sa : SReg) (disp : BitVec 34) s b blk,
    (PackOf s b blk [4] →
      ((s.rs sa) = 0 → ∃ t, exec (.attach sa disp) s = .next t ∧ OnlyMe s t ∧
        t.me = { s.me with dirty := true, pc := s.me.pc + 8, wait := .none }) ∧
      (1 ≤ (s.rs sa).toNat → (s.rs sa).toNat ≤ 32 → blk.packs.length + queuedPacks blk + (s.rs sa).toNat ≤ blk.maxpacks →
        ∃ t, exec (.attach sa disp) s = .next t ∧
          t.block b = some { blk with attach := blk.attach ++ [((s.rs sa).toNat, targetOf s disp)] } ∧
          t.me = { s.me with dirty := true, pc := s.me.pc + 8, wait := .none }) ∧
      ((32 < (s.rs sa).toNat ∨ blk.maxpacks < blk.packs.length + queuedPacks blk + (s.rs sa).toNat) → (s.rs sa) ≠ 0 →
        Faults (.attach sa disp) s (cBOUNDS, 12) 0)) ∧
    (∀ n pc r k, s.block b = some blk → blk.attach = (n, pc) :: r → blk.resident = true → mayPlace s (blk.part.getD 0) = true →
      simtFits s (blk.part.getD 0) blk.core 1 blk.vregs blk.narrow 0 = true →
      pagesFit s (blk.part.getD 0) (packPages blk.vregs blk.narrow) = true → freeSlot s blk.core = some k →
      ∃ t blk', exec (.attachGrant b) s = .next t ∧ t.block b = some blk' ∧
        blk'.packs = blk.packs ++ [(freeIndex blk, unitId blk.core k)] ∧ blk'.attach = (if n ≤ 1 then r else (n - 1, pc) :: r) ∧
        (t.ctx (unitId blk.core k)).pc = pc ∧ (t.ctx (unitId blk.core k)).live = true ∧ (t.ctx (unitId blk.core k)).block = some b ∧
        (t.ctx (unitId blk.core k)).mode = 0)

/-- R317: DETACH of a pack without copies in flight or failures ends it: it runs no more and its block no longer counts it. -/
def Claims.DetachEndsAPack : Prop :=
  ∀ s b blk, PackOf s b blk [4] → s.me.aclanes = [] → s.me.acfail = [] →
    ∃ t, exec .detach s = .next t ∧ (t.ctx s.cur).live = false ∧
      ∀ blk', t.block b = some blk' → ∀ p ∈ blk'.packs, p.1 ≠ s.me.index

/-! ### Transaction barriers and copies of packs -/

/-- R188 to R190: TBINIT writes a barrier of `n` arrivals at an offset of the block's shared memory, or of the task's Canvas; TBARR counts
an arrival and its sectors, and advances the phase where all have come and no sector is owed; TBWAIT goes on where the phase is the one it
names, with the faults in `sd`, and waits elsewhere. -/
def Claims.TransactionBarriers : Prop :=
  ∀ (sa sb sd : SReg) s, kindOf s.cur ≠ .host → s.me.narrow = false → offers s [6] → (s.rs sa).toNat % 16 = 0 →
    (s.rs sa).toNat + 16 ≤ tbRoom s →
    let x := tbRead s (s.rs sa).toNat
    let n := (s.rs sb).toNat
    (1 ≤ n → n ≤ 65535 →
      ∃ t, exec (.tbinit sa sb) s = .next t ∧ tbRead t (s.rs sa).toNat = BitVec.ofNat 128 (n * 2 ^ 4 + n * 2 ^ 20) ∧
        (t.ctx s.cur).pc = s.me.pc + 8 ∧ t.mem = s.mem ∧ ∀ r, t.rs r = s.rs r) ∧
    (tbMbz x = 0 → tbExpect x ≠ 0 → tbArrive x ≠ 0 → n < 2 ^ 31 → tbSect x + n < 2 ^ 31 →
      ∃ t, exec (.tbarr sa sb) s = .next t ∧ (t.ctx s.cur).pc = s.me.pc + 8 ∧ t.mem = s.mem ∧ (∀ r, t.rs r = s.rs r) ∧
        let y := tbRead t (s.rs sa).toNat
        tbExpect y = tbExpect x ∧ tbMbz y = 0 ∧
        ((1 < tbArrive x ∨ 0 < tbSect x + n) →
          tbPhase y = tbPhase x ∧ tbArrive y = tbArrive x - 1 ∧ tbSect y = tbSect x + n ∧ tbFaults y = tbFaults x) ∧
        (tbArrive x = 1 → tbSect x + n = 0 →
          tbPhase y = (tbPhase x + 1) % 16 ∧ tbArrive y = tbExpect x ∧ tbSect y = 0 ∧ tbFaults y = tbFaults x) ∧
        (tbArrive x = 1 → tbSect x + n < 0 →
          tbPhase y = (tbPhase x + 1) % 16 ∧ tbArrive y = tbExpect x ∧ tbSect y = 0 ∧ tbFaults y = Min.min (tbFaults x + 1) 15)) ∧
    (tbMbz x = 0 → tbExpect x ≠ 0 →
      (tbPhase x = n % 16 → Writes (.tbwait sd sa sb) s sd (BitVec.ofNat 64 (tbFaults x))) ∧
      (tbPhase x ≠ n % 16 → ∃ t, exec (.tbwait sd sa sb) s = .next t ∧ OnlyMe s t ∧
        t.me = { s.me with wait := .tbwait (s.rs sa).toNat (n % 16) }))

/-- R191 to R194: ACPY of lanes that pass their checks puts one copy a lane in flight and counts one more of its tag; a lane's bytes land in
shared memory; the lanes that read memory are a stream of the quarter port (R104), whose prefetch walks raise no fault; ACWAIT
goes on where its tag counts nothing and no failure stands, and waits where it counts. -/
def Claims.PackCopies : Prop :=
  (∀ (sz : BitVec 2) (tag : BitVec 3) (sm : SReg) (vd va vb : LReg) s b blk t lanes, PackOf s b blk [6] → s.activeMask sm ≠ 0 →
    vd.toNat + 1 ≤ s.me.vregs → va.toNat + 2 ≤ s.me.vregs → vb.toNat + 1 ≤ s.me.vregs → va.getLsbD 0 = false → canPay s 1 = true →
    acChecks blk.sharedSize (4 * 2 ^ sz.toNat) tag.toNat vd va vb (s.activeLanes sm) 0 (s.activeLanes sm).length (debit s 1) = (t, [], lanes) →
    acCount t.me tag.toNat < 255 →
    let p := portStream t .read ((lanes.filter fun x => x.valid != 0).map (·.lane)) fun l => t.rv64 va.toNat l
    ∃ t', exec (.acpy sz tag sm vd va vb) s = .next t' ∧ t'.mem = p.mem ∧
      t'.me = { p.me with
        actag := Sparse.put (fun _ => 0) t.me.actag tag.toNat (acCount t.me tag.toNat + 1), aclanes := t.me.aclanes ++ lanes,
        dirty := true, pc := t.me.pc + 8, wait := .none }) ∧
  (∀ u tag lane x s b blk s1 bs,
    ((s.ctx u).aclanes.find? fun x => x.tag == tag && x.lane == lane) = some x → acFetch s u x = (s1, .ok bs) →
    (s1.ctx u).block = some b → s1.block b = some blk → x.bar = none →
    ∃ t blk', exec (.acpyLaneLanded u tag lane) s = .next t ∧ t.block b = some blk' ∧ x ∉ (t.ctx u).aclanes ∧
      sharedBytes blk' x.shared (bs.length + (x.size - x.valid)) = bs ++ List.replicate (x.size - x.valid) 0) ∧
  (∀ (g : BitVec 3) s b blk, PackOf s b blk [6] →
    (acCount s.me g.toNat = 0 → (∀ f ∈ s.me.acfail, f.tag ≠ g.toNat) → GoesTo (.acwait g) s (s.me.pc + 8)) ∧
    (acCount s.me g.toNat ≠ 0 → ∃ t, exec (.acwait g) s = .next t ∧ OnlyMe s t ∧ t.me = { s.me with wait := .acwait g.toNat }))

/-! ### Lanes: vocabulary -/

namespace Sys2Proof.Machine

/-- A pack with an active lane under mask field `sm`, whose chiplet offers the features named and which may pay a full pack's price (R55,
R56, R327). -/
def LaneReady (s : State) (sm : SReg) (price : Nat) (fs : List Nat) : Prop :=
  kindOf s.cur = .pack ∧ s.activeMask sm ≠ 0 ∧ offers s fs ∧ canPay s (s.me.price price) = true

/-- R58: lane register `r`, with its pair for a 64-bit type, lies below the allocation, and starts an even pair. -/
def HasReg (s : State) (t : ETy) (r : LReg) : Prop :=
  r.toNat + (if t.is64 then 2 else 1) ≤ s.me.vregs ∧ (t.is64 = true → r.getLsbD 0 = false)

/-- Is lane `l` active under mask field `sm` (R16)? -/
def isActive (s : State) (sm : SReg) (l : Nat) : Bool := decide (l < 64) && (s.activeMask sm).getLsbD l

/-- The acting pack writes `f l` of type `ty` to `vd` in each active lane `l`, a 64-bit value to the pair (R58), and goes on; nothing else
of the machine changes: no other lane register, no inactive lane, no scalar register, no memory. -/
def LanesWrote (s t : State) (ty : ETy) (sm : SReg) (vd : LReg) (f : Nat → Word) : Prop :=
  OnlyMe s t ∧ { t.me with vreg := s.me.vreg, pc := s.me.pc, wait := s.me.wait } = s.me ∧ t.me.pc = s.me.pc + 8 ∧ t.me.wait = .none ∧
  ∀ r l, l < 64 → t.rv r l =
    if isActive s sm l ∧ r = vd.toNat then (f l).setWidth 32
    else if isActive s sm l ∧ ty.is64 = true ∧ r = vd.toNat + 1 then ((f l) >>> 32).setWidth 32
    else s.rv r l

/-- A lane instruction completes: its price is debited (R327), then its values are written. -/
def LaneWrites (i : Instr) (s : State) (sm : SReg) (price : Nat) (ty : ETy) (vd : LReg) (f : Nat → Word) : Prop :=
  ∃ t, exec i s = .next t ∧ LanesWrote (debit s (s.me.price price)) t ty sm vd f

/-- A lane compare completes: bit `l` of `sd` is set where lane `l` is active and `p l` holds (R264). -/
def LaneMarks (i : Instr) (s : State) (sm sd : SReg) (price : Nat) (p : Nat → Bool) : Prop :=
  ∃ t v, exec i s = .next t ∧ WroteAt (debit s (s.me.price price)) t sd v (s.me.pc + 8) ∧ ∀ l, l < 64 → v.getLsbD l = (isActive s sm l && p l)

/-- The integer of a type that a value stands for (R229). -/
def asInt (t : ETy) (v : Word) : Int :=
  if t.isSigned then (if t.is64 then v.toInt else (v.setWidth 32 : W32).toInt) else (if t.is64 then v.toNat else v.toNat % 2 ^ 32 : Nat)

/-- The integer types of 32 and 64 bits. -/
def intTypes : List ETy := [.i32, .n32, .i64, .n64]
/-- The float types. -/
def floatTypes : List ETy := [.f32, .f64, .f16, .bf16]

/-- Bits of an integer type's values. -/
def bitsOfTy (t : ETy) : Nat := if t.is64 then 64 else 32

/-- R262: the nearest integer of the type. -/
def clampTo (t : ETy) (x : Int) : Int :=
  if t.isSigned then Max.max (-(2 ^ (bitsOfTy t - 1) : Int)) (Min.min x (2 ^ (bitsOfTy t - 1) - 1)) else Max.max 0 (Min.min x (2 ^ bitsOfTy t - 1))

/-- A two-operand integer instruction, in both forms: each active lane's `vd` is `f` of the exact integers, modulo the type's width; imm18 is
sign-extended to the type's width (R259, R262). -/
def LaneBinary (r : ETy → SReg → LReg → LReg → LReg → Instr) (im : ETy → SReg → LReg → LReg → BitVec 18 → Instr)
    (f : ETy → Int → Int → Int) : Prop :=
  ∀ t ∈ intTypes, ∀ (sm : SReg) (vd va : LReg) s, LaneReady s sm 0 [] → HasReg s t vd → HasReg s t va →
    (∀ vb, HasReg s t vb →
      LaneWrites (r t sm vd va vb) s sm 0 t vd fun l => BitVec.ofInt 64 (f t (asInt t (s.laneVal t va l)) (asInt t (s.laneVal t vb l)))) ∧
    (∀ imm : BitVec 18, LaneWrites (im t sm vd va imm) s sm 0 t vd fun l =>
      BitVec.ofInt 64 (f t (asInt t (s.laneVal t va l)) (asInt t (imm.signExtend 64))))

/-- A bitwise instruction, in both forms. -/
def LaneLogic (r : ETy → SReg → LReg → LReg → LReg → Instr) (im : ETy → SReg → LReg → LReg → BitVec 18 → Instr)
    (f : Word → Word → Word) : Prop :=
  ∀ t ∈ intTypes, ∀ (sm : SReg) (vd va : LReg) s, LaneReady s sm 0 [] → HasReg s t vd → HasReg s t va →
    (∀ vb, HasReg s t vb → LaneWrites (r t sm vd va vb) s sm 0 t vd fun l => f (s.laneVal t va l) (s.laneVal t vb l)) ∧
    (∀ imm : BitVec 18, LaneWrites (im t sm vd va imm) s sm 0 t vd fun l => f (s.laneVal t va l) (imm.signExtend 64))

/-- A shift, in both forms: the amount is one register's value or six bits, modulo the type's width (R262). -/
def LaneShifts (r : ETy → SReg → LReg → LReg → LReg → Instr) (im : ETy → SReg → LReg → LReg → BitVec 6 → Instr)
    (f : ETy → Word → Nat → Int) : Prop :=
  ∀ t ∈ intTypes, ∀ (sm : SReg) (vd va : LReg) s, LaneReady s sm 0 [] → HasReg s t vd → HasReg s t va →
    (∀ vb, HasReg s .n32 vb →
      LaneWrites (r t sm vd va vb) s sm 0 t vd fun l => BitVec.ofInt 64 (f t (s.laneVal t va l) ((s.rv vb.toNat l).toNat % bitsOfTy t))) ∧
    (∀ k : BitVec 6, LaneWrites (im t sm vd va k) s sm 0 t vd fun l => BitVec.ofInt 64 (f t (s.laneVal t va l) (k.toNat % bitsOfTy t)))

/-- The value of a type without sign (R262). -/
def asNat (t : ETy) (v : Word) : Nat := v.toNat % 2 ^ bitsOfTy t
/-- The value of a type with its top bit as the sign (R262). -/
def asSigned (t : ETy) (v : Word) : Int := if t.is64 then v.toInt else (v.setWidth 32 : W32).toInt

/-- R265: an operation on codes, applied to the one element or to the two 16-bit elements that a register of the type holds. -/
def perElem2 (t : ETy) (f : Nat → Nat → Nat) (a b : Word) : Word :=
  if t = .f16 ∨ t = .bf16 then
    BitVec.ofNat 64 (f (a.toNat % 65536) (b.toNat % 65536) + 65536 * f (a.toNat / 65536 % 65536) (b.toNat / 65536 % 65536))
  else BitVec.ofNat 64 (f (asNat t a) (asNat t b))

/-- R265: the same of one operand. -/
def perElem1 (t : ETy) (f : Nat → Nat) (a : Word) : Word := perElem2 t (fun x _ => f x) a a

/-- R261: the price of a float sum, product, minimum or maximum. -/
def pricedAs (t : ETy) : Nat := if t = .f64 then 2 else 1

/-- R394: f64 in a lane needs the lane FP64 feature. -/
def needs64 (t : ETy) : List Nat := if t = .f64 then [0] else []

/-- R265, R266: a two-operand float instruction: each element is the exact result, rounded once to the format. -/
def LaneFloats (i : ETy → SReg → LReg → LReg → LReg → Instr) (price : ETy → Nat) (r : Rnd) (f : ETy → Val → Val → Val) : Prop :=
  ∀ t ∈ floatTypes, ∀ (sm : SReg) (vd va vb : LReg) s, LaneReady s sm (price t) (needs64 t) → HasReg s t vd → HasReg s t va → HasReg s t vb →
    LaneWrites (i t sm vd va vb) s sm (price t) t vd fun l =>
      perElem2 t (fun a b => encodeFmt (fmtOf t) r false (f t (decodeFmt (fmtOf t) a) (decodeFmt (fmtOf t) b))) (s.laneVal t va l) (s.laneVal t vb l)

/-- R267, R268: an approximation, at price 3: every element is the code the operation gives for it. -/
def LaneApprox (i : ETy → SReg → LReg → LReg → Instr) (f : Fmt → Nat → Nat) : Prop :=
  ∀ t ∈ floatTypes, ∀ (sm : SReg) (vd va : LReg) s, LaneReady s sm 3 (needs64 t) → HasReg s t vd → HasReg s t va →
    LaneWrites (i t sm vd va) s sm 3 t vd fun l => perElem1 t (f (fmtOf t)) (s.laneVal t va l)

/-- The mask field of a lane instruction; none for any other (R56). -/
def laneMask : Instr → Option SReg
  | .iadd _ _ sm _ _ _ | .iaddImm _ _ sm _ _ _ | .isub _ _ sm _ _ _ | .isubImm _ _ sm _ _ _ | .imul _ sm _ _ _ | .imulImm _ sm _ _ _
  | .imulh _ sm _ _ _ | .imulhImm _ sm _ _ _ | .imad _ sm _ _ _ _ | .iand _ sm _ _ _ | .iandImm _ sm _ _ _ | .ior _ sm _ _ _
  | .iorImm _ sm _ _ _ | .ixor _ sm _ _ _ | .ixorImm _ sm _ _ _ | .ishl _ sm _ _ _ | .ishlImm _ sm _ _ _ | .ishr _ sm _ _ _
  | .ishrImm _ sm _ _ _ | .isar _ sm _ _ _ | .isarImm _ sm _ _ _ | .imin _ sm _ _ _ | .iminImm _ sm _ _ _ | .imax _ sm _ _ _
  | .imaxImm _ sm _ _ _ | .iabs _ sm _ _ | .ipopc _ sm _ _ | .iclz _ sm _ _ | .ibfx _ sm _ _ _ _ | .ibfxImm _ sm _ _ _ _
  | .isel _ sm _ _ _ _ | .icmp _ _ sm _ _ _ | .icmpImm _ _ sm _ _ _ | .idiv _ sm _ _ _ | .idivImm _ sm _ _ _
  | .fadd _ _ sm _ _ _ | .fsub _ _ sm _ _ _ | .fmul _ _ sm _ _ _ | .ffma _ _ sm _ _ _ _ | .fmin _ sm _ _ _ | .fmax _ sm _ _ _
  | .fdiv _ _ sm _ _ _ | .fsqrt _ _ sm _ _ | .frcp _ sm _ _ | .frsq _ sm _ _ | .fex2 _ sm _ _ | .flg2 _ sm _ _ | .fsin _ sm _ _
  | .fcos _ sm _ _ | .fcmp _ _ sm _ _ _ | .fclass _ sm _ _ | .cvt _ _ _ _ sm _ _ | .packb _ _ _ sm _ _ _ | .unpkb _ _ _ sm _ _
  | .shfl _ sm _ _ _ | .shflImm _ sm _ _ _ | .shflup _ sm _ _ _ | .shfldn _ sm _ _ _ | .shflx _ sm _ _ _ | .ballot _ sm _ _
  | .laneid sm _ | .redl _ _ _ sm _ _ | .scanl _ _ _ _ sm _ _ | .movl _ sm _ _ | .movsl _ sm _ _ | .movls _ sm _ _ _ | .pmma _ sm _ _ _ _
  | .ldl _ _ _ sm _ _ _ | .ldlImm _ _ _ sm _ _ _ | .stl _ _ _ sm _ _ _ | .stlImm _ _ _ sm _ _ _ | .ldsh _ sm _ _ _ | .ldshImm _ sm _ _ _
  | .stsh _ sm _ _ _ | .stshImm _ sm _ _ _ | .atoml _ _ _ _ sm _ _ _ | .atomsh _ _ _ _ sm _ _ _ | .casl _ _ _ sm _ _ _ _
  | .redst _ sm _ _ _ | .redstImm _ sm _ _ _ | .acpy _ _ sm _ _ _ => some sm
  | _ => none

end Sys2Proof.Machine

/-! ### Lane instructions -/

/-- R56: a lane instruction of a pack whose mask names no lane is not issued: it goes on, writes nothing and pays nothing. -/
def Claims.EmptyMasksIssueNothing : Prop :=
  ∀ i sm s, laneMask i = some sm → kindOf s.cur = .pack → s.activeMask sm = 0 → GoesTo i s (s.me.pc + 8)

/-- R55, R247, R363: a lane instruction outside a pack raises ILLEGAL with subcause 4, in the lanes its mask names. -/
def Claims.LaneInstructionsNeedAPack : Prop :=
  ∀ i sm s, laneMask i = some sm → kindOf s.cur ≠ .pack →
    let c : Cause := (cILLEGAL, 4)
    let ls := (bitsOf (s.activeMask sm).toNat 64).map fun l => (⟨l, c, 0⟩ : LaneFault)
    let f : Trap := { cause := c, kind := 0, lanes := s.activeMask sm, perLane := ls, maskreg := sm.toNat, frm := s.me.mode, word := s.word }
    entryGoes s s.cur (enteredMode s.me.mode c) f = true →
      ∃ t, exec i s = .next t ∧ Entered s t (enteredMode s.me.mode c) c 0 false 0 (s.activeMask sm) s.me.pc

/-- R327, R329, R337: issuing at a price takes it from the core's COUNT and adds it to the pack's TOKSPENT; a pack that cannot pay waits at
its PC, and the core learns the price it is short of. -/
def Claims.IssueTakesTokens : Prop :=
  ∀ s p, 0 < p →
    (p ≤ (s.core (coreOf s.cur)).tokens →
      ((debit s p).core (coreOf s.cur)).tokens = (s.core (coreOf s.cur)).tokens - p ∧
      (∀ c, c ≠ coreOf s.cur → ((debit s p).core c).tokens = (s.core c).tokens) ∧
      (debit s p).me = { s.me with tokspent := s.me.tokspent + BitVec.ofNat 64 p, needs := none } ∧
      (debit s p).mem = s.mem ∧ ∀ u, u ≠ s.cur → (debit s p).ctx u = s.ctx u) ∧
    (∀ (sm : SReg) (vd va vb : LReg), kindOf s.cur = .pack → s.activeMask sm ≠ 0 → HasReg s .f32 vd → HasReg s .f32 va → HasReg s .f32 vb →
      (s.core (coreOf s.cur)).tokens = 0 → s.me.needs = none →
      ∃ t, exec (.fadd .f32 .rne sm vd va vb) s = .next t ∧ OnlyMe s t ∧
        t.me = { s.me with wait := .issue, needs := some (1, s.cycles) })

/-- R262, R263: sums, differences, products, minima, maxima and quotients of lanes are those of the exact integers of the type. -/
def Obligations.LaneIntegerArithmetic : Prop :=
  LaneBinary (fun t => .iadd t false) (fun t => .iaddImm t false) (fun _ x y => x + y) ∧
  LaneBinary (fun t => .iadd t true) (fun t => .iaddImm t true) (fun t x y => clampTo t (x + y)) ∧
  LaneBinary (fun t => .isub t false) (fun t => .isubImm t false) (fun _ x y => x - y) ∧
  LaneBinary (fun t => .isub t true) (fun t => .isubImm t true) (fun t x y => clampTo t (x - y)) ∧
  LaneBinary .imul .imulImm (fun _ x y => x * y) ∧ LaneBinary .imulh .imulhImm (fun t x y => x * y / (2 ^ bitsOfTy t : Int)) ∧
  LaneBinary .imin .iminImm (fun _ x y => Min.min x y) ∧ LaneBinary .imax .imaxImm (fun _ x y => Max.max x y) ∧
  LaneBinary .idiv .idivImm (fun _ x y => if y = 0 then -1 else x.tdiv y) ∧
  (∀ t ∈ intTypes, ∀ (sm : SReg) (vd va vb vc : LReg) s, LaneReady s sm 0 [] → HasReg s t vd → HasReg s t va → HasReg s t vb → HasReg s t vc →
    LaneWrites (.imad t sm vd va vb vc) s sm 0 t vd fun l =>
      BitVec.ofInt 64 (asInt t (s.laneVal t va l) * asInt t (s.laneVal t vb l) + asInt t (s.laneVal t vc l)))

/-- R262 to R264, R276: bitwise operations, shifts, counts, fields, selections and compares of lanes. -/
def Obligations.LaneBitsAndCompares : Prop :=
  LaneLogic .iand .iandImm (· &&& ·) ∧ LaneLogic .ior .iorImm (· ||| ·) ∧ LaneLogic .ixor .ixorImm (· ^^^ ·) ∧
  LaneShifts .ishl .ishlImm (fun t v k => asNat t v * 2 ^ k) ∧ LaneShifts .ishr .ishrImm (fun t v k => asNat t v / 2 ^ k) ∧
  LaneShifts .isar .isarImm (fun t v k => asSigned t v / 2 ^ k) ∧
  ∀ t ∈ intTypes, ∀ (sm sd : SReg) (vd va : LReg) s, LaneReady s sm 0 [] → HasReg s t va →
    (HasReg s t vd →
      LaneWrites (.iabs t sm vd va) s sm 0 t vd (fun l => BitVec.ofInt 64 (asInt t (s.laneVal t va l)).natAbs) ∧
      LaneWrites (.ipopc t sm vd va) s sm 0 t vd
        (fun l => BitVec.ofNat 64 ((List.range (bitsOfTy t)).countP fun i => (s.laneVal t va l).getLsbD i)) ∧
      LaneWrites (.iclz t sm vd va) s sm 0 t vd
        (fun l => BitVec.ofNat 64 ((List.range (bitsOfTy t)).takeWhile fun i => !(s.laneVal t va l).getLsbD (bitsOfTy t - 1 - i)).length) ∧
      (∀ vb vc, HasReg s t vb → HasReg s .n32 vc →
        LaneWrites (.isel t sm vd va vb vc) s sm 0 t vd fun l => if s.rv vc.toNat l = 0 then s.laneVal t vb l else s.laneVal t va l) ∧
      (∀ vb vc, HasReg s .n32 vb → HasReg s .n32 vc →
        LaneWrites (.ibfx t sm vd va vb vc) s sm 0 t vd fun l =>
          ibfxOf t (s.laneVal t va l) ((s.rv vb.toNat l).toNat % bitsOfTy t) (s.rv vc.toNat l).toNat) ∧
      (∀ (lo : BitVec 6) (wd : BitVec 7), LaneWrites (.ibfxImm t sm vd va lo wd) s sm 0 t vd fun l => ibfxOf t (s.laneVal t va l) lo.toNat wd.toNat)) ∧
    (∀ (c : Cond) vb, HasReg s t vb → LaneMarks (.icmp t c sm sd va vb) s sm sd 0 fun l =>
      condInt c (asInt t (s.laneVal t va l)) (asInt t (s.laneVal t vb l))) ∧
    (∀ (c : Cond) (imm : BitVec 18), LaneMarks (.icmpImm t c sm sd va imm) s sm sd 0 fun l =>
      condInt c (asInt t (s.laneVal t va l)) (asInt t (imm.signExtend 64))) ∧
    LaneMarks (.ballot t sm sd va) s sm sd 0 fun l => s.laneVal t va l != 0

/-- R265, R266, R269, R270: float arithmetic of lanes rounds the exact result once; compares and classes. -/
def Claims.LaneFloatArithmetic : Prop :=
  (∀ r : Rnd,
    LaneFloats (fun t => .fadd t r) pricedAs r (fun _ a b => addVal r a b) ∧
    LaneFloats (fun t => .fsub t r) pricedAs r (fun _ a b => addVal r a (negVal b)) ∧
    LaneFloats (fun t => .fmul t r) pricedAs r (fun _ a b => mulVal a b) ∧
    LaneFloats (fun t => .fdiv t r) (fun _ => 3) r (fun t a b => divVal (fmtOf t).p a b) ∧
    LaneApprox (fun t => .fsqrt t r) (fun f a => encodeFmt f r false (sqrtVal f.p (decodeFmt f a))) ∧
    ∀ t ∈ floatTypes, ∀ (sm : SReg) (vd va vb vc : LReg) s, LaneReady s sm (pricedAs t) (needs64 t) → HasReg s t vd → HasReg s t va →
      HasReg s t vb → HasReg s t vc →
      LaneWrites (.ffma t r sm vd va vb vc) s sm (pricedAs t) t vd fun l =>
        elem3 t (fun a b c => encodeFmt (fmtOf t) r false
          (addVal r (mulVal (decodeFmt (fmtOf t) a) (decodeFmt (fmtOf t) b)) (decodeFmt (fmtOf t) c)))
          (s.laneVal t va l) (s.laneVal t vb l) (s.laneVal t vc l)) ∧
  LaneFloats .fmin pricedAs .rne (fun _ => minVal) ∧ LaneFloats .fmax pricedAs .rne (fun _ => maxVal) ∧
  LaneApprox .frcp (approxCode .rcp) ∧ LaneApprox .frsq (approxCode .rsq) ∧ LaneApprox .fex2 (approxCode .ex2) ∧
  LaneApprox .flg2 (approxCode .lg2) ∧ LaneApprox .fsin (approxCode .sin) ∧ LaneApprox .fcos (approxCode .cos) ∧
  ∀ t ∈ floatTypes, ∀ (sm sd : SReg) (vd va vb : LReg) s, LaneReady s sm 0 (needs64 t) → HasReg s t va →
    (∀ c : Cond, HasReg s t vb → LaneMarks (.fcmp t c sm sd va vb) s sm sd 0 fun l =>
      condFloat c (decodeFmt (fmtOf t) (s.laneVal t va l).toNat) (decodeFmt (fmtOf t) (s.laneVal t vb l).toNat)) ∧
    (HasReg s .n32 vd → LaneWrites (.fclass t sm vd va) s sm 0 .n32 vd fun l => BitVec.ofNat 64 (2 ^ fclassOf (fmtOf t) (s.laneVal t va l).toNat))

/-- R271 to R273: conversions round once to the destination's type; PACKB packs codes of binary8 and UNPKB reads them. A binary8 format new
in WIS-6 runs in wide mode only (R57). -/
def Claims.LaneConversions : Prop :=
  ∀ (r : Rnd) (f : B8Fmt) (sm : SReg) (vd va vb : LReg) s, (newB8 f = true → s.me.narrow = false) →
    (∀ d src : ETy, LaneReady s sm 1 (if d = .f64 ∨ src = .f64 then [0] else []) → HasReg s d vd → HasReg s src va →
      LaneWrites (.cvt d src r f sm vd va) s sm 1 d vd fun l => narrowResult d (convert d src r f (s.laneVal src va l).toNat)) ∧
    (LaneReady s sm 1 [] → HasReg s .n32 vd → HasReg s .n32 va →
      (HasReg s .n32 vb →
        LaneWrites (.packb .f32 r f sm vd va vb) s sm 1 .n32 vd fun l =>
          BitVec.ofNat 64 (convert .b8 .f32 r f (s.rv va.toNat l).toNat + 256 * convert .b8 .f32 r f (s.rv vb.toNat l).toNat)) ∧
      (HasReg s .n32 vb → ∀ h ∈ [ETy.f16, .bf16],
        LaneWrites (.packb h r f sm vd va vb) s sm 1 .n32 vd fun l =>
          BitVec.ofNat 64 (convert .b8 h r f (s.rv va.toNat l).toNat + 2 ^ 8 * convert .b8 h r f ((s.rv va.toNat l).toNat / 65536) +
            2 ^ 16 * convert .b8 h r f (s.rv vb.toNat l).toNat + 2 ^ 24 * convert .b8 h r f ((s.rv vb.toNat l).toNat / 65536))) ∧
      (∀ k : BitVec 2, LaneWrites (.unpkb .f32 k f sm vd va) s sm 1 .n32 vd fun l =>
        BitVec.ofNat 64 (unpackCode .f32 f ((s.rv va.toNat l).toNat / 2 ^ (8 * k.toNat) % 256))) ∧
      (∀ k : BitVec 2, ∀ h ∈ [ETy.f16, .bf16], LaneWrites (.unpkb h k f sm vd va) s sm 1 .n32 vd fun l =>
        BitVec.ofNat 64 (unpackCode h f ((s.rv va.toNat l).toNat / 2 ^ (8 * k.toNat) % 256) +
          65536 * unpackCode h f ((s.rv va.toNat l).toNat / 2 ^ (8 * (k.toNat + 1)) % 256))))

/-- R234, R275 to R277: shuffles take the value of the lane their rule names, LANEID the lane's number, the moves what they say; REDL gives
every active lane the combination of all of them in ascending order, SCANL that of the lanes up to it. -/
def Obligations.LanesExchangeValues : Prop :=
  ∀ t ∈ intTypes ++ floatTypes, ∀ (sm sd sa : SReg) (vd va : LReg) s, LaneReady s sm 0 (needs64 t) → HasReg s t va →
    (HasReg s t vd →
      (∀ vb, HasReg s .n32 vb → LaneWrites (.shfl t sm vd va vb) s sm 0 t vd fun l => s.laneVal t va ((s.rv vb.toNat l).toNat % s.me.width)) ∧
      (∀ k : BitVec 6,
        LaneWrites (.shflImm t sm vd va k) s sm 0 t vd (fun _ => s.laneVal t va (k.toNat % s.me.width)) ∧
        LaneWrites (.shflup t sm vd va k) s sm 0 t vd (fun l => s.laneVal t va (if k.toNat ≤ l then l - k.toNat else l)) ∧
        LaneWrites (.shfldn t sm vd va k) s sm 0 t vd (fun l => s.laneVal t va (if l + k.toNat < s.me.width then l + k.toNat else l)) ∧
        LaneWrites (.shflx t sm vd va k) s sm 0 t vd (fun l => s.laneVal t va (l ^^^ (k.toNat % s.me.width)))) ∧
      LaneWrites (.movl t sm vd va) s sm 0 t vd (fun l => s.laneVal t va l) ∧
      LaneWrites (.movsl t sm vd sa) s sm 0 t vd (fun _ => s.rs sa)) ∧
    (HasReg s .n32 vd → LaneWrites (.laneid sm vd) s sm 0 .n32 vd fun l => BitVec.ofNat 64 l) ∧
    (∀ k : BitVec 6, Writes (.movls t sm sd va k) s sd (if k.toNat < s.me.width then s.laneVal t va k.toNat else 0)) ∧
    (∀ (op : ROp) (r : Rnd), HasReg s t vd → canPay s (s.me.price (scanPrice t)) = true →
      let ls := bitsOf (s.activeMask sm).toNat 64
      LaneWrites (.redl op t r sm vd va) s sm (scanPrice t) t vd
        (fun _ => (ls.drop 1).foldl (fun a l => stepVal op t r a (s.laneVal t va l)) (s.laneVal t va (ls.headD 0))) ∧
      LaneWrites (.scanl op false t r sm vd va) s sm (scanPrice t) t vd
        (fun l => ((ls.filter (· ≤ l)).drop 1).foldl (fun a l => stepVal op t r a (s.laneVal t va l)) (s.laneVal t va (ls.headD 0))) ∧
      LaneWrites (.scanl op true t r sm vd va) s sm (scanPrice t) t vd
        (fun l => if ls.headD 0 = l then perElem1 t (fun _ => laneIdentity op t) 0
          else ((ls.filter (· < l)).drop 1).foldl (fun a l => stepVal op t r a (s.laneVal t va l)) (s.laneVal t va (ls.headD 0))))

/-- R278, R279: PMMA of bf16 in a 64-thread pack: thread `l` holds elements (l mod 16, 4⌊l/16⌋ + j) of D in `vd` + j, each C plus the sum
of 16 products, rounded once. -/
def Obligations.FragmentMultiply : Prop :=
  ∀ (sm : SReg) (vd va vb vc : LReg) s,
    (LaneReady s sm 16 [1] → s.me.narrow = false → vd.toNat % 4 = 0 → vc.toNat % 4 = 0 → va.toNat % 2 = 0 → vb.toNat % 2 = 0 →
      vd.toNat + 4 ≤ s.me.vregs → vc.toNat + 4 ≤ s.me.vregs → va.toNat + 2 ≤ s.me.vregs → vb.toNat + 2 ≤ s.me.vregs →
      ∃ t, exec (.pmma .bf16 sm vd va vb vc) s = .next t ∧ t.me.pc = s.me.pc + 8 ∧
        (∀ l j, isActive s sm l → j < 4 → t.rv (vd.toNat + j) l =
          BitVec.ofNat 32 (accumulate f32Fmt false (s.rv (vc.toNat + j) l).toNat (sumVals ((rangeFrom 0 16).map fun k =>
            prodVal (bfElem s (va.toNat + k % 4 / 2) (l % 16 + 16 * (k / 4)) (k % 2))
              (bfElem s (vb.toNat + k % 4 / 2) (4 * (l / 16) + j + 16 * (k / 4)) (k % 2)))))) ∧
        (∀ r l, l < 64 → (isActive s sm l = false ∨ r < vd.toNat ∨ vd.toNat + 4 ≤ r) → t.rv r l = s.rv r l) ∧
        (∀ r, t.rs r = s.rs r) ∧ t.mem = s.mem) ∧
    (LaneReady s sm 16 [1] → s.me.narrow = true → vd.toNat % 4 = 0 → vc.toNat % 4 = 0 → va.toNat % 4 = 0 → vb.toNat % 2 = 0 →
      vd.toNat + 4 ≤ s.me.vregs → vc.toNat + 4 ≤ s.me.vregs → va.toNat + 4 ≤ s.me.vregs → vb.toNat + 2 ≤ s.me.vregs →
      ∃ t, exec (.pmma .bf16 sm vd va vb vc) s = .next t ∧ t.me.pc = s.me.pc + 8 ∧
        ∀ l j, isActive s sm l → j < 4 → t.rv (vd.toNat + j) l =
          BitVec.ofNat 32 (fragElem (fragNarrow s va.toNat vb.toNat vc.toNat) (l % 16) (4 * (l / 16) + j))) ∧
    (LaneReady s sm 24 [1, 0] → s.me.narrow = false → HasReg s .f64 vd → HasReg s .f64 va → HasReg s .f64 vb → HasReg s .f64 vc →
      LaneWrites (.pmma .f64 sm vd va vb vc) s sm 24 .f64 vd fun l =>
        BitVec.ofNat 64 (fragElem (fragF64 s va.toNat vb.toNat vc.toNat) (l / 8) (l % 8)))

/-! ### Lane memory: vocabulary -/

namespace Sys2Proof.Machine

/-- Bytes of a type in memory (R229). -/
def memBytesOf (t : ETy) : Nat := t.width / 8

/-- R229: what a lane load of a type writes for the little-endian number read: i8 and i16 sign-extended, the other narrow types
zero-extended. -/
def laneValueOf (t : ETy) (x : Nat) : Word := loadedValue (t == .i8 || t == .i16) (memBytesOf t) x

/-- The little-endian number of the `n` bytes of a block's shared memory from `a`. -/
def sharedNumber (b : Block) (a : Nat) : Nat → Nat
  | 0 => 0
  | n + 1 => (Sparse.get byte0 b.shared a).toNat + 256 * sharedNumber b (a + 1) n

/-- R216: the shared access of `n` bytes at `o l` is aligned and within the block's allocation in every active lane. -/
def SharedFits (s : State) (sm : SReg) (blk : Block) (n : Nat) (o : Nat → Nat) : Prop :=
  ∀ l, isActive s sm l → o l % n = 0 ∧ o l + n ≤ blk.sharedSize

/-- R220: the byte at `a` of shared memory after the lanes stored the low `n` bytes of `v l` at `o l`, ascending: that of the last lane that
covers it, else as before. -/
def storedShared (s : State) (sm : SReg) (blk : Block) (n : Nat) (o : Nat → Nat) (v : Nat → Word) (a : Nat) : Byte :=
  match ((bitsOf (s.activeMask sm).toNat 64).reverse.find? fun l => decide (o l ≤ a) && decide (a < o l + n)) with
  | some l => (v l).extractLsb' (8 * (a - o l)) 8
  | none => Sparse.get byte0 blk.shared a

/-- The value a list of lanes and bytes gives lane `l`. -/
def fetchedAt (t : ETy) (vs : List (Nat × List Byte)) (l : Nat) : Word :=
  match vs.find? fun v => v.1 == l with
  | some v => loadedValue (t == .i8 || t == .i16) v.2.length (ofBytesNat v.2)
  | none => 0

/-- The old value an atomic found in lane `l`. -/
def foundAt (vs : List (Nat × List Byte)) (l : Nat) : Word :=
  match vs.find? fun v => v.1 == l with
  | some v => BitVec.ofNat 64 (ofBytesNat v.2)
  | none => 0

/-- What a global lane access of a type needs of its registers: the value's, and an even address pair (R58, R215). -/
def GlobalRegs (s : State) (t : ETy) (vd va : LReg) : Prop := HasReg s t vd ∧ va.toNat + 2 ≤ s.me.vregs ∧ va.getLsbD 0 = false

/-- R339: the state an `LDL` that may issue goes on from: the core keeps no right of the pack's to issue another. -/
def issuesLdl (d : State) : State :=
  d.setCore (coreOf d.cur) { d.core (coreOf d.cur) with locKeep := (d.core (coreOf d.cur)).locKeep.filter fun u => u != d.cur }

/-- R215: a lane access with a register offset and with an immediate one, each with its address in a lane. -/
def laneForms (s : State) (va vb : LReg) (imm : BitVec 18) (r : LReg → Instr) (im : BitVec 18 → Instr) : List (Instr × (Nat → Word)) :=
  [(r vb, fun l => s.rv64 va.toNat l + (s.rv vb.toNat l).signExtend 64), (im imm, fun l => s.rv64 va.toNat l + imm.signExtend 64)]

/-- R216, R359, R363: where the checks of a global lane access of `n` bytes fail in some lanes, the fault names every failing lane, with the
address it failed at, and its summary is the lowest; the lanes with MISALIGN are those whose address is not a multiple of `n`. It enters
hypervisor mode where a lane failed in stage 2 (log 49, DEDUCED), else the mode of its summary. Memory is what the checks left of it, with
the record written: no lane has performed its access, and no register changes but those of the entry. -/
def LaneFaults (s : State) (sm : SReg) (i : Instr) (k : AccKind) (plain : Bool) (n : Nat) (ea : Nat → Word) (row : State → Trans → Option Cause)
    (a : State) : Prop :=
  ∀ s1 e fs ls, laneChecks k plain n ea row (a.activeLanes sm) a = (s1, e :: fs, ls) →
    (∀ x ∈ fs, e.lane < x.lane) ∧
    (∀ l, isActive s sm l = true ↔ l ∈ (e :: fs).map (·.lane) ∨ l ∈ ls.map (·.lane)) ∧
    (∀ x ∈ e :: fs, x.addr = ea x.lane ∧ ((ea x.lane).toNat % n ≠ 0 → x.cause = (cMISALIGN, 0))) ∧
    (∀ x ∈ ls, x.ea = ea x.lane ∧ (ea x.lane).toNat % n = 0) ∧
    let stage2 : Bool := (e :: fs).any fun x => decide (x.cause = (cNOTPRESENT, 2) ∨ x.cause = (cPERM, 5))
    let m : BitVec 2 := if stage2 then 2 else enteredMode s1.me.mode e.cause
    let f : Trap :=
      { cause := e.cause, addr := e.addr, kind := 0, lanes := lanesMask (e :: fs), perLane := e :: fs, maskreg := sm.toNat, frm := s1.me.mode,
        word := s1.word }
    entryGoes s1 s1.cur m f = true →
      ∃ u, exec i s = .next u ∧ Entered s1 u m e.cause e.addr false 0 (lanesMask (e :: fs)) s1.me.pc ∧ RecordStands s1 u m f

/-- Lane stores of the low `n` bytes of `v l` at physical addresses have left home's memory so: each lane's bytes hold its value, but where
a higher lane stores to the same byte (R220), and every byte stored elsewhere is as before. -/
def LanesStored (s t : State) (ls : List LaneAt) (n : Nat) (v : Nat → Word) : Prop :=
  (∀ x ∈ ls, ∀ i, i < n →
    (∀ y ∈ ls, x.lane < y.lane → ∀ j, j < n → homeKey s (x.tr.pa + i) ≠ homeKey s (y.tr.pa + j)) →
    physByte t (x.tr.pa + i) = (v x.lane).extractLsb' (8 * i) 8) ∧
  ∀ b, (∀ x ∈ ls, ∀ i, i < n → homeKey s b ≠ homeKey s (x.tr.pa + i)) → physByte t b = physByte s b

/-- A lane's element of `n` bytes in the live range `r` of the acting unit's partition, in a package without forwarding, NCF copies,
partials or access counting, on a core without a slice set: home combines into it (R161). -/
def ReducesAtHome (s : State) (x : LaneAt) (r : Range) (n : Nat) : Prop :=
  rangeOf s (partOf s s.cur) x.tr.pa = some r ∧ rfmtBytes r.fmt = n ∧ x.tr.pa % n = 0 ∧ PlainBytes s x.tr.pa n ∧
  homeRefuses s (partOf s s.cur) x.tr.pa = false ∧ sliceFor s (mySite s) (partOf s s.cur) x.tr.pa = none ∧
  oldSliceFor s (mySite s) (partOf s s.cur) x.tr.pa = none ∧ s.mem.partials = [] ∧ s.mem.ncf = [] ∧ s.mem.fwd = [] ∧ hubF s 0x700 0 1 = 0

/-- The types of a lane load or store. -/
def memTypes : List ETy := [.i32, .n32, .i64, .n64, .f32, .f64, .f16, .bf16, .i16, .n16, .i8, .n8]

end Sys2Proof.Machine

/-! ### Lane memory -/

/-- R215, R216, R220, R229, R230: LDSH reads each active lane's bytes of the block's shared memory and changes nothing but its register;
STSH writes them, ascending by lane, and no register. -/
def Claims.SharedLoadsAndStores : Prop :=
  ∀ t ∈ memTypes, ∀ (sm : SReg) (vd va : LReg) s b blk, LaneReady s sm 1 (needs64 t) → s.me.block = some b → s.block b = some blk →
    HasReg s t vd → HasReg s .n32 va →
    (∀ (i j : Instr) (o : Nat → Nat),
      ((∃ vb, HasReg s .n32 vb ∧ i = .ldsh t sm vd va vb ∧ j = .stsh t sm vd va vb ∧
          o = fun l => (s.rv va.toNat l + s.rv vb.toNat l).toNat) ∨
        (∃ imm : BitVec 18, i = .ldshImm t sm vd va imm ∧ j = .stshImm t sm vd va imm ∧
          o = fun l => (s.rv va.toNat l + imm.signExtend 32).toNat)) →
      SharedFits s sm blk (memBytesOf t) o →
      LaneWrites i s sm 1 t vd (fun l => laneValueOf t (sharedNumber blk (o l) (memBytesOf t))) ∧
      ∃ u blk', exec j s = .next u ∧ u.block b = some blk' ∧
        (∀ a, Sparse.get byte0 blk'.shared a = storedShared s sm blk (memBytesOf t) o (fun l => s.laneVal t vd l) a) ∧
        { blk' with shared := blk.shared } = blk ∧ (∀ c, c ≠ b → u.block c = s.block c) ∧ u.mem = s.mem ∧
        u.me = { (debit s (s.me.price 1)).me with dirty := true, pc := s.me.pc + 8, wait := .none })

/-- R224, R225, R231: ATOMSH of one active lane, of every operation that its type takes (a float: swap and addition), writes the old value
of the block's shared memory to `vd` and the new one to memory. -/
def Claims.SharedAtomics : Prop :=
  ∀ t (op : AOp), atomTypeOk op t = true →
    ∀ (ord : MOrd) (scope : BitVec 4) (sm : SReg) (vd va vb : LReg) s b blk l, LaneReady s sm 1 (needs64 t) →
    s.me.block = some b → s.block b = some blk → HasReg s t vd → HasReg s .n32 va → HasReg s t vb → scopeFails s s.cur scope.toNat = none →
    bitsOf (s.activeMask sm).toNat 64 = [l] → SharedFits s sm blk (memBytesOf t) (fun l => (s.rv va.toNat l).toNat) →
    let a := (s.rv va.toNat l).toNat
    let old := sharedNumber blk a (memBytesOf t)
    ∃ u blk', exec (.atomsh op t ord scope sm vd va vb) s = .next u ∧ u.block b = some blk' ∧
      sharedNumber blk' a (memBytesOf t) = atomicOp op old (s.laneVal t vb l).toNat (memBytesOf t) % 2 ^ (8 * memBytesOf t) ∧
      (∀ c, (c < a ∨ a + memBytesOf t ≤ c) → Sparse.get byte0 blk'.shared c = Sparse.get byte0 blk.shared c) ∧
      u.laneVal t vd l = BitVec.ofNat 64 old ∧ u.mem = s.mem ∧ (u.ctx s.cur).pc = s.me.pc + 8

/-- R216, R217, R220, R230, R232, R160, R161: a global lane access whose active lanes pass their checks and meet no late fault completes:
LDL writes each lane's bytes, extended by its type, which are home's where home answers (on an NCF die, of one lane); STL stores each lane's
bytes, those of the highest lane where several meet, and on a FULL or IOC chiplet home holds them and every other byte as before; REDST
combines each lane's value, ascending: one lane's into its slice's partial, and those of a core without a slice set into home's bytes, every
other byte as before. -/
def Claims.GlobalLaneAccessesComplete : Prop :=
  ∀ t ∈ memTypes, ∀ (ord : MOrd) (scope : BitVec 4) (sm : SReg) (vd va : LReg) s, LaneReady s sm 2 (needs64 t) → GlobalRegs s t vd va →
    (ord ≠ .relaxed → scopeFails s s.cur scope.toNat = none) →
    let d := debit s (s.me.price 2)
    ∀ ea : Nat → Word,
      (∀ i, ((∃ vb, HasReg s .n32 vb ∧ i = Instr.ldl t ord scope sm vd va vb ∧ ea = fun l => s.rv64 va.toNat l + (s.rv vb.toNat l).signExtend 64) ∨
          (∃ imm : BitVec 18, i = Instr.ldlImm t ord scope sm vd va imm ∧ ea = fun l => s.rv64 va.toNat l + imm.signExtend 64)) →
        ldlPermitted d = true →
        ∀ s1 ls s2 vs,
          laneChecks .read true (memBytesOf t) ea noRow (d.activeLanes sm) (issuesLdl d) = (s1, [], ls) →
          laneLoads none (memBytesOf t) (ord != .relaxed && wideScope (if ord = .relaxed then portStream s1 .read (s1.activeLanes sm) ea
              else acquirePoint (portStream s1 .read (s1.activeLanes sm) ea) scope.toNat) s1.cur scope.toNat) [] ls
            (if ord = .relaxed then portStream s1 .read (s1.activeLanes sm) ea
              else acquirePoint (portStream s1 .read (s1.activeLanes sm) ea) scope.toNat) = (s2, [], vs) →
          s2.activeLanes sm = vs.map (·.1) →
          ∃ u, exec i s = .next u ∧ LanesWrote s2 u t sm vd (fetchedAt t vs)) ∧
      (∀ i, ((∃ vb, HasReg s .n32 vb ∧ i = Instr.ldl t ord scope sm vd va vb ∧ ea = fun l => s.rv64 va.toNat l + (s.rv vb.toNat l).signExtend 64) ∨
          (∃ imm : BitVec 18, i = Instr.ldlImm t ord scope sm vd va imm ∧ ea = fun l => s.rv64 va.toNat l + imm.signExtend 64)) →
        ldlPermitted d = true →
        ∀ s1 ls, laneChecks .read true (memBytesOf t) ea noRow (d.activeLanes sm) (issuesLdl d) = (s1, [], ls) →
          let r := portStream s1 .read (s1.activeLanes sm) ea
          let p := if ord = .relaxed then r else acquirePoint r scope.toNat
          (cohClass p (mySite p) ≠ 2 ∨ ls.length = 1) → (∀ x ∈ ls, ReachesHome p x.tr (memBytesOf t) ∧ NoCopyHere p x.tr.pa) →
          ∃ u, exec i s = .next u ∧ (u.ctx p.cur).pc = p.me.pc + 8 ∧
            ∀ x ∈ ls, let v := laneValueOf t (numberAt p x.tr.pa (memBytesOf t))
              u.rv vd.toNat x.lane = v.setWidth 32 ∧ (t.is64 = true → u.rv (vd.toNat + 1) x.lane = (v >>> 32).setWidth 32)) ∧
      (∀ i, ((∃ vb, HasReg s .n32 vb ∧ i = Instr.stl t ord scope sm vd va vb ∧ ea = fun l => s.rv64 va.toNat l + (s.rv vb.toNat l).signExtend 64) ∨
          (∃ imm : BitVec 18, i = Instr.stlImm t ord scope sm vd va imm ∧ ea = fun l => s.rv64 va.toNat l + imm.signExtend 64)) →
        ∀ s1 ls, laneChecks .write true (memBytesOf t) ea noRow (d.activeLanes sm) d = (s1, [], ls) → ls ≠ [] →
          let p := portStream s1 .write (s1.activeLanes sm) ea
          p.mem.invals = [] →
          (∀ s2, laneStores none (memBytesOf t) (ord != .relaxed && wideScope p p.cur scope.toNat) (fun l => p.laneVal t vd l) ls p = (s2, []) →
            ∃ u, exec i s = .next u ∧ WroteAt s2.dirtied u 0 0 (s2.me.pc + 8)) ∧
          (cohClass p (mySite p) ≠ 2 → (∀ x ∈ ls, ReachesHome p x.tr (memBytesOf t)) →
            ∃ u, exec i s = .next u ∧ OnlyWblost p u ∧
              WroteAt { p.dirtied with mem := u.mem, hub := u.hub, free := u.free, dies := u.dies } u 0 0 (p.me.pc + 8) ∧
              LanesStored p u ls (memBytesOf t) fun l => p.laneVal t vd l)) ∧
      (∀ i, ((∃ vb, HasReg s .n32 vb ∧ i = Instr.redst t sm vd va vb ∧ ea = fun l => s.rv64 va.toNat l + (s.rv vb.toNat l).signExtend 64) ∨
          (∃ imm : BitVec 18, i = Instr.redstImm t sm vd va imm ∧ ea = fun l => s.rv64 va.toNat l + imm.signExtend 64)) →
        offers s [2] → s.me.narrow = false →
        ∀ s1 ls, laneChecks .atomic false (memBytesOf t) ea (redRow t) (d.activeLanes sm) d = (s1, [], ls) → ls ≠ [] →
          let p := portStream s1 .atomic (s1.activeLanes sm) ea
          let n := memBytesOf t
          let v (x : LaneAt) : Nat := (p.laneVal t vd x.lane).toNat % 2 ^ (8 * n)
          (∀ s2, laneReduces none t (fun l => p.laneVal t vd l) ls p = (s2, []) →
            ∃ u, exec i s = .next u ∧ WroteAt s2.dirtied u 0 0 (s2.me.pc + 8)) ∧
          (∀ x r sl, ls = [x] → isRemote x.tr.pa = false → rangeOf p (partOf p p.cur) x.tr.pa = some r → rfmtBytes r.fmt = n →
            let q := p.req x.tr false
            let s0 := takeToken (rehashLine p q.site q.part x.tr.pa) q x.tr.pa
            sliceFor s0 q.site q.part x.tr.pa = some sl →
            let s2 := sliceRoom s0 q.site sl (lineOf x.tr.pa)
            let y := (partialAt s2 (q.site + 1) sl (lineOf x.tr.pa)).getD (newPartial (q.site + 1) sl (lineOf x.tr.pa) r)
            let e := x.tr.pa % 64 / n
            ∃ u w, exec i s = .next u ∧ partialAt u (q.site + 1) sl (lineOf x.tr.pa) = some w ∧
              w.touched = y.touched ||| BitVec.ofNat 64 (2 ^ e) ∧
              w.bytes = setElem y.bytes n e (combineR r.fmt r.op (elemAt y.bytes n e) (v x)) ∧
              { u.mem with partials := s2.mem.partials } = s2.mem ∧ (u.ctx p.cur).pc = p.me.pc + 8) ∧
          (∀ r, (∀ x ∈ ls, ReducesAtHome p x r n) →
            ∃ u, exec i s = .next u ∧ (u.ctx p.cur).pc = p.me.pc + 8 ∧
              (∀ x ∈ ls, numberAt u x.tr.pa n =
                (ls.filter fun y => homeKey p y.tr.pa == homeKey p x.tr.pa).foldl (fun a y => combineR r.fmt r.op a (v y) % 2 ^ (8 * n))
                  (numberAt p x.tr.pa n)) ∧
              ∀ b, (∀ x ∈ ls, ∀ k, k < n → homeKey p b ≠ homeKey p (x.tr.pa + k)) → physByte u b = physByte p b))

/-- R224, R225, R231: ATOML, of every operation that its type takes (a float: swap and addition), and CASL, whose lanes pass their checks and
meet no late fault, write each lane's old value to `vd`, zero-extended; one lane's atomic on a FULL or IOC chiplet leaves home holding the
new value and every other byte as before, and a CASL whose compare fails writes no byte. -/
def Claims.GlobalLaneAtomicsComplete : Prop :=
  ∀ t, t.isWide = true → ∀ (ord : MOrd) (scope : BitVec 4) (sm : SReg) (vd va vb : LReg) s, LaneReady s sm 2 (needs64 t) → GlobalRegs s t vd va →
    HasReg s t vb → scopeFails s s.cur scope.toNat = none →
    let d := debit s (s.me.price 2)
    ∀ s1 ls, laneChecks .atomic true (memBytesOf t) (fun l => d.rv64 va.toNat l) noRow (d.activeLanes sm) d = (s1, [], ls) → ls ≠ [] →
      let p := portStream s1 .atomic (s1.activeLanes sm) fun l => d.rv64 va.toNat l
      p.mem.invals = [] →
      let q := if acquires ord then acquirePoint p scope.toNat else p
      (∀ (op : AOp) s2 vs, atomTypeOk op t = true →
        laneAtomics none (memBytesOf t) (wideScope q q.cur scope.toNat)
          (fun l old => some (atomicOp op old (q.laneVal t vb l).toNat (memBytesOf t))) ls q = (s2, [], vs) →
        s2.activeLanes sm = vs.map (·.1) →
        ∃ u, exec (.atoml op t ord scope sm vd va vb) s = .next u ∧ LanesWrote s2.dirtied u t sm vd (foundAt vs)) ∧
      (∀ (op : AOp) x, atomTypeOk op t = true → ls = [x] → s1.activeLanes sm = [x.lane] → cohClass q (mySite q) ≠ 2 →
        ReachesHome q x.tr (memBytesOf t) → (∀ y ∈ q.mem.ncf, y.site = mySite q → y.line ≠ x.tr.pa / 64) →
        let old := numberAt q x.tr.pa (memBytesOf t)
        ∃ u, exec (.atoml op t ord scope sm vd va vb) s = .next u ∧ u.laneVal t vd x.lane = BitVec.ofNat 64 old ∧
          Stored q u x.tr.pa (memBytesOf t) (BitVec.ofNat 64 (atomicOp op old (q.laneVal t vb x.lane).toNat (memBytesOf t))) ∧
          (u.ctx q.cur).pc = q.me.pc + 8) ∧
      (∀ vc s2 vs, HasReg s t vc →
        laneAtomics none (memBytesOf t) (wideScope q q.cur scope.toNat)
          (fun l old => if old = (q.laneVal t vb l).toNat then some (q.laneVal t vc l).toNat else none) ls q = (s2, [], vs) →
        s2.activeLanes sm = vs.map (·.1) →
        ∃ u, exec (.casl t ord scope sm vd va vb vc) s = .next u ∧ LanesWrote s2.dirtied u t sm vd (foundAt vs)) ∧
      (∀ vc x, HasReg s t vc → ls = [x] → s1.activeLanes sm = [x.lane] → cohClass q (mySite q) ≠ 2 → ReachesHome q x.tr (memBytesOf t) →
        (∀ y ∈ q.mem.ncf, y.site = mySite q → y.line ≠ x.tr.pa / 64) →
        let old := numberAt q x.tr.pa (memBytesOf t)
        ∃ u, exec (.casl t ord scope sm vd va vb vc) s = .next u ∧ u.laneVal t vd x.lane = BitVec.ofNat 64 old ∧
          (old = (q.laneVal t vb x.lane).toNat → Stored q u x.tr.pa (memBytesOf t) (q.laneVal t vc x.lane)) ∧
          (old ≠ (q.laneVal t vb x.lane).toNat → u.mem.bytes = q.mem.bytes) ∧ (u.ctx q.cur).pc = q.me.pc + 8)

/-- R102, R216, R359, R363: what the checks of every global lane access do where they fail in some lanes: loads, stores, atomics and
reductions, in every form and type (the mode entered where a lane failed in stage 2: log 49, DEDUCED). -/
def Claims.LaneFaultsNameTheirLanes : Prop :=
  ∀ (t : ETy) (ord : MOrd) (scope : BitVec 4) (sm : SReg) (vd va vb : LReg) s, LaneReady s sm 2 (needs64 t) → GlobalRegs s t vd va →
    let d := debit s (s.me.price 2)
    let n := memBytesOf t
    (∀ imm : BitVec 18, t ∈ memTypes → HasReg s .n32 vb →
      (ord = .relaxed ∨ scopeFails s s.cur scope.toNat = none →
        (∀ f ∈ laneForms s va vb imm (.ldl t ord scope sm vd va) (.ldlImm t ord scope sm vd va), ldlPermitted d = true →
          LaneFaults s sm f.1 .read true n f.2 noRow (issuesLdl d)) ∧
        ∀ f ∈ laneForms s va vb imm (.stl t ord scope sm vd va) (.stlImm t ord scope sm vd va), LaneFaults s sm f.1 .write true n f.2 noRow d) ∧
      (offers s [2] → s.me.narrow = false →
        ∀ f ∈ laneForms s va vb imm (.redst t sm vd va) (.redstImm t sm vd va), LaneFaults s sm f.1 .atomic false n f.2 (redRow t) d)) ∧
    (t.isWide = true → HasReg s t vb → scopeFails s s.cur scope.toNat = none →
      (∀ op : AOp, atomTypeOk op t = true →
        LaneFaults s sm (.atoml op t ord scope sm vd va vb) .atomic true n (fun l => s.rv64 va.toNat l) noRow d) ∧
      ∀ vc, HasReg s t vc → LaneFaults s sm (.casl t ord scope sm vd va vb vc) .atomic true n (fun l => s.rv64 va.toNat l) noRow d)
/-! ### Engine queues: vocabulary -/

namespace Sys2Proof.Machine

/-- The acting control context may act at a scope, with no acknowledgement outstanding (R207). -/
def CtlAt (s : State) (scope : BitVec 5) : Prop := kindOf s.cur = .ctl ∧ scopeFails s s.cur scope.toNat = none ∧ s.mem.invals = []

/-- The octet of scalar registers from `sa` holds a record or an element, low word first (R174, R175). -/
def octetIs (s : State) (sa : SReg) (rec : Rec512) : Prop := ∀ j, j < 8 → rec.extractLsb' (64 * j) 64 = s.me.reg (sa.toNat + j)

/-- R168, R171: the acting context's queue `q` has taken a record behind those it held, with the next number and the pushing mode; its
other queues, its registers, its counters, the other units and memory are as before. -/
def Pushed (s t : State) (q : EQueue) (scope : Nat) (rec : Rec512) : Prop :=
  t.me.entries q = s.me.entries q ++ [.record rec (s.me.pushedTo q) s.me.mode scope] ∧ t.me.pushedTo q = s.me.pushedTo q + 1 ∧
  (∀ p, p ≠ q → t.me.entries p = s.me.entries p ∧ t.me.pushedTo p = s.me.pushedTo p) ∧
  { t.me with lq := s.me.lq, sq := s.me.sq, mq := s.me.mq, vq := s.me.vq, pushed := s.me.pushed, dirty := s.me.dirty, pc := s.me.pc,
              wait := s.me.wait } = s.me ∧
  t.me.pc = s.me.pc + 8 ∧ t.me.wait = .none ∧ (∀ u, u ≠ s.cur → t.ctx u = s.ctx u) ∧ { t with ctxs := s.ctxs, cores := s.cores } = s

/-- R174, R382: the record may enter the queue: its operation belongs there, the context has its feature, the partition owns the engine,
and there is room. -/
def mayPush (s : State) (q : EQueue) (rec : Rec512) : Prop :=
  queueOfOp (recOp rec) = some q ∧ opMissing s (recOp rec) = false ∧ ownsEngine s q = true ∧ (s.me.entries q).length < qSize q

/-- The acting context waits at its instruction, and nothing else of the machine changes. -/
def WaitsFor (i : Instr) (s : State) (w : Wait) : Prop := ∃ t, exec i s = .next t ∧ OnlyMe s t ∧ t.me = { s.me with wait := w }

/-- The array of a core is free and at a boundary, with no record at the head of any `%mq` (R296). -/
def IdleArray (s : State) (core : Nat) : Prop :=
  arrayFree s core = true ∧ (s.core core).busy = false ∧ ∀ j, j < 4 → headRecord (s.ctx (unitId core j)) .mq = none

/-- The instruction goes on, and only the core's own state changes with it. -/
def OnlyCore (s t : State) : Prop :=
  WroteAt { s with cores := t.cores } t 0 0 (s.me.pc + 8) ∧ ∀ c, c ≠ coreOf s.cur → t.core c = s.core c

/-- R294: the word that describes a slot: its owner, and whether it is spilled, saturated, held in the array and the task's own. -/
def describesSlot (s : State) (slot : Nat) (v : Word) : Prop :=
  let k := s.core (coreOf s.cur)
  let c := s.ctx (taskOf s s.cur)
  v.extractLsb' 0 8 = k.slotOwner slot ∧ v.getLsbD 8 = c.spilled.contains slot ∧ v.getLsbD 9 = Sparse.get (fun _ => false) k.sat slot ∧
  v.getLsbD 10 = Sparse.get (fun _ => false) k.held slot ∧ v.getLsbD 11 = decide (k.slotOwner slot = tagOf c) ∧ v >>> 12 = 0

/-- R295: what a save leaves: the slot is zero and its owner tag is `new`; the task that owned it, resident as context `ow`, notes it among
its spilled slots, with the slot's SAT, and nothing of its other slots. Memory holds the image, as `s2` has it. -/
def Spilled (s s2 t : State) (ow slot : Nat) (new : BitVec 8) : Prop :=
  let core := coreOf s.cur
  t.mem = s2.mem ∧ t.me.pc = s2.me.pc + 8 ∧ (∀ r, t.rs r = s2.rs r) ∧ (t.core core).slotOwner slot = new ∧
  slotBytes (t.core core) (4096 * slot) 4096 = List.replicate 4096 0 ∧ Sparse.get (fun _ => false) (t.core core).sat slot = false ∧
  slot ∈ (t.ctx ow).spilled ∧ (∀ x, x ≠ slot → (x ∈ (t.ctx ow).spilled ↔ x ∈ (s2.ctx ow).spilled)) ∧
  (slot ∈ (t.ctx ow).savedSat ↔ Sparse.get (fun _ => false) (s2.core core).sat slot = true) ∧
  ∀ x, x ≠ slot → (x ∈ (t.ctx ow).savedSat ↔ x ∈ (s2.ctx ow).savedSat)

/-- R293, R295: what ASAVE of a slot that its task has been given does, in every form. -/
def SavesSlot (s : State) (i : Instr) (sd : SReg) (slot : Nat) : Prop :=
  let core := coreOf s.cur
  let c := s.ctx (taskOf s s.cur)
  let o := (s.core core).slotOwner slot
  let a := settleArray s core
  (slotBusy a slot = true → ∃ t, exec i s = .next t ∧ OnlyMe a t ∧ t.me = { a.me with wait := .slot slot }) ∧
  (slotBusy a slot = false →
    (o = 0xFF → ∃ t, exec i s = .next t ∧ OnlyCore s.dirtied t) ∧
    (∀ g, ((s.core core).tagctx.find? fun g => g.tag == o.toNat) = some g → o ≠ 0xFF →
      (o ≠ tagOf c → s.me.mode = 0 → FaultsFrom i s a (cPRIV, 0) 0) ∧
      (o ≠ tagOf c → s.me.mode ≠ 0 → s.rs sd ≠ saveBase g.accsave + BitVec.ofNat 64 (4096 * slot) → FaultsFrom i s a (cBOUNDS, 10) (s.rs sd)) ∧
      (o = tagOf c → (s.rs sd).toNat % 64 ≠ 0 → FaultsFrom i s a (cMISALIGN, 0) (s.rs sd)) ∧
      (∀ s1 ps s2 ow, (o = tagOf c ∨ s.me.mode ≠ 0 ∧ s.rs sd = saveBase g.accsave + BitVec.ofNat 64 (4096 * slot)) →
        (s.rs sd).toNat % 64 = 0 → imagePages a (tagTrans core g s.me.mode) .write (s.rs sd) = (s1, .ok ps) →
        writeImage s1.cur g.part (slotBytes (s.core core) (4096 * slot) 4096) ps 0 s1 = (s2, none) →
        ((ctlUnits core).find? fun u => (s2.ctx u).live && tagOf (s2.ctx u) == o) = some ow →
        ∃ t, exec i s = .next t ∧ Spilled s s2 t ow slot (if o = tagOf c then 0xFF else tagOf c))))

/-- R293, R295: what AREST of a slot that its task has been given does, in every form. -/
def RestoresSlot (s : State) (i : Instr) (sd : SReg) (slot : Nat) : Prop :=
  let core := coreOf s.cur
  let tu := taskOf s s.cur
  let c := s.ctx tu
  let o := (s.core core).slotOwner slot
  let a := settleArray s core
  (slotBusy a slot = true → ∃ t, exec i s = .next t ∧ OnlyMe a t ∧ t.me = { a.me with wait := .slot slot }) ∧
  (slotBusy a slot = false →
    (o ≠ 0xFF → o ≠ tagOf c → FaultsFrom i s a (cACCOWNER, 0) (ownerEFault (a.core core) c slot 0).addr) ∧
    ((o = 0xFF ∨ o = tagOf c) → (s.rs sd).toNat % 64 ≠ 0 → FaultsFrom i s a (cMISALIGN, 0) (s.rs sd)) ∧
    (∀ s1 ps s2 img, (o = 0xFF ∨ o = tagOf c) → (s.rs sd).toNat % 64 = 0 →
      imagePages a (unitTrans a tu s.me.mode) .read (s.rs sd) = (s1, .ok ps) → readImage s1.cur c.part ps s1 = (s2, .ok img) →
      img.length = 4096 →
      ∃ t, exec i s = .next t ∧ t.mem = s2.mem ∧ t.me.pc = s2.me.pc + 8 ∧ (∀ r, t.rs r = s2.rs r) ∧
        (t.core core).slotOwner slot = tagOf (s2.ctx tu) ∧ slotBytes (t.core core) (4096 * slot) 4096 = img ∧
        Sparse.get (fun _ => false) (t.core core).sat slot = ((s2.ctx tu).spilled.contains slot && (s2.ctx tu).savedSat.contains slot) ∧
        slot ∉ (t.ctx tu).spilled ∧ slot ∉ (t.ctx tu).savedSat))

end Sys2Proof.Machine

/-! ### Engine queues -/

/-- R168, R171, R174: PUSHR and PUSHM put the record of their octet, or of their 64 bytes, behind what the queue holds, count it, and go on;
a record of another queue's operation raises QUEUE with subcause 7; a full queue makes both wait, PUSHM with the record it has read, which
goes in once there is room. A PUSHM that has read its record and whose release is not ready waits with it for that, which is no listed wait
(R369). -/
def Claims.RecordsArePushed : Prop :=
  (∀ (q : EQueue) (scope : BitVec 5) s, CtlAt s scope →
    (∀ (sa : SReg) rec, sa.toNat % 8 = 0 → octetIs s sa rec →
      (mayPush s q rec → ∃ t, exec (.pushr q scope sa) s = .next t ∧ Pushed s t q scope.toNat rec) ∧
      (queueOfOp (recOp rec) ≠ some q → Faults (.pushr q scope sa) s (cQUEUE, 7) 0) ∧
      (queueOfOp (recOp rec) = some q → opMissing s (recOp rec) = false → ownsEngine s q = true → qSize q ≤ (s.me.entries q).length →
        WaitsFor (.pushr q scope sa) s (.room q))) ∧
    (∀ (sd : SReg) s1 tr s2 bs, (∀ p rec, s.me.wait ≠ .pushm p rec ∧ s.me.wait ≠ .pushmRel p rec) → (s.rs sd).toNat % 64 = 0 →
      checkVa s .read false (s.rs sd) = (s1, .ok tr) → loadAt s1 tr 64 false = (s2, .ok bs) → s2.mem.invals = [] →
      let r := ofBytes 512 bs
      (mayPush s2 q r → ∃ t, exec (.pushm q scope sd) s = .next t ∧ Pushed s2 t q scope.toNat r) ∧
      (queueOfOp (recOp r) = some q → opMissing s2 (recOp r) = false → ownsEngine s2 q = true → qSize q ≤ (s2.me.entries q).length →
        ∃ t, exec (.pushm q scope sd) s = .next t ∧ OnlyMe s2 t ∧ t.me = { s2.me with wait := .pushm q r })) ∧
    (∀ (sd : SReg) rec, s.me.wait = .pushm q rec ∨ s.me.wait = .pushmRel q rec →
      ((s.me.entries q).length < qSize q → ∃ t, exec (.pushm q scope sd) s = .next t ∧ Pushed s t q scope.toNat rec) ∧
      (qSize q ≤ (s.me.entries q).length → WaitsFor (.pushm q scope sd) s (.pushm q rec)))) ∧
  (∀ (q : EQueue) (scope : BitVec 5) (sd : SReg) rec s, releaseReady s scope.toNat = false →
    s.me.wait = .pushm q rec ∨ s.me.wait = .pushmRel q rec → WaitsFor (.pushm q scope sd) s (.pushmRel q rec))

/-- R173, R175: POPQ moves the oldest completion element into its octet and goes on; with none it waits. -/
def Claims.ElementsArePopped : Prop :=
  ∀ (scope : BitVec 5) (sa : SReg) s, CtlAt s scope → sa.toNat % 8 = 0 →
    (∀ e r, s.me.oq = e :: r → (∀ f ∈ s.me.flights, f.posting = false) →
      ∃ t, exec (.popq scope sa) s = .next t ∧ t.me.oq = r ∧ t.me.pc = s.me.pc + 8 ∧ t.me.wait = .none ∧
        (∀ j, j < 8 → sa.toNat + j ≠ 0 → t.me.reg (sa.toNat + j) = e.extractLsb' (64 * j) 64) ∧
        (∀ m k, ¬ (sa.toNat ≤ k ∧ k < sa.toNat + 8 ∧ bankOf m k = bankOf s.me.mode k) → seenReg t.me m k = seenReg s.me m k) ∧
        { t.me with oq := s.me.oq, gpr := s.me.gpr, supBank := s.me.supBank, hypBank := s.me.hypBank, dirty := s.me.dirty,
                    pc := s.me.pc, wait := s.me.wait } = s.me ∧
        (∀ u, u ≠ s.cur → t.ctx u = s.ctx u) ∧ { t.mem with l1 := s.mem.l1 } = s.mem ∧ { t with ctxs := s.ctxs, mem := s.mem } = s) ∧
    (s.me.oq = [] → WaitsFor (.popq scope sa) s .popq)

/-- R171, R176, R177, R178: QWAIT goes on once the queue's counter has reached its value and waits until then; QSTAT reads how many entries
stand, how many records are in flight and how many were pushed; QMARK puts a marker into both copy queues, which leaves them at once where
nothing stands ahead of it. -/
def Obligations.QueuesAreWaitedForAndRead : Prop :=
  ∀ s, kindOf s.cur = .ctl →
    (∀ (q : EQueue) (v : BitVec 37), (v.setWidth 64 ≤ s.me.counter q → GoesTo (.qwait q v) s (s.me.pc + 8)) ∧
      (s.me.counter q < v.setWidth 64 → WaitsFor (.qwait q v) s (.qwait q (v.setWidth 64)))) ∧
    (∀ (q : EQueue) (sx : SReg), (s.rs sx ≤ s.me.counter q → GoesTo (.qwaitReg q sx) s (s.me.pc + 8)) ∧
      (s.me.counter q < s.rs sx → WaitsFor (.qwaitReg q sx) s (.qwait q (s.rs sx)))) ∧
    (∀ (q : EQueue) (sd : SReg), q ≠ .oq → (s.me.entries q).length < 2 ^ 8 → (s.me.inFlight q).length < 2 ^ 8 →
      ∃ v, Writes (.qstat sd q) s sd v ∧ v.toNat % 2 ^ 8 = (s.me.entries q).length ∧ v.toNat / 2 ^ 8 % 2 ^ 8 = (s.me.inFlight q).length ∧
        v.getLsbD 16 = (s.me.flights.any fun f => f.queue == q && f.halted) ∧ v.getLsbD 17 = (s.me.entries q).any QEntry.isMarker ∧
        v.toNat / 2 ^ 24 = s.me.pushedTo q % 2 ^ 40) ∧
    (∀ sd : SReg, s.me.oq.length < 2 ^ 24 →
      ∃ v, Writes (.qstat sd .oq) s sd v ∧ v.toNat % 2 ^ 24 = s.me.oq.length ∧ v.toNat / 2 ^ 24 = s.me.posted % 2 ^ 40) ∧
    (ownsEngine s .lq = true → s.me.lq.length < 32 → s.me.sq.length < 32 →
      ((headRecord s.me .lq).isSome ∨ (headRecord s.me .sq).isSome →
        ∃ t, exec .qmark s = .next t ∧ OnlyMe s t ∧
          t.me = { s.me with lq := s.me.lq ++ [.marker s.me.markers], sq := s.me.sq ++ [.marker s.me.markers], markers := s.me.markers + 1,
                             dirty := true, pc := s.me.pc + 8, wait := .none }) ∧
      (s.me.lq = [] → s.me.sq = [] → s.me.inFlight .lq = [] → s.me.inFlight .sq = [] →
        ∃ t, exec .qmark s = .next t ∧ OnlyMe s t ∧
          t.me = { s.me with markers := s.me.markers + 1, dirty := true, pc := s.me.pc + 8, wait := .none }))

/-- R296 to R298: LEASH of an idle array makes its context the holder, with the count it asked for; of one that another context holds, it
lists the request, unless the lease ends there; a count of 0 or above 64 raises ILLEGAL, or QUEUE with subcause 8 for a register's. UNLEASH
of the holder lets the first request take an idle array; of another context it withdraws the request. A boundary of a free array writes the
held tiles back. -/
def Obligations.TheLeashIsHeldAndPassed : Prop :=
  (∀ s, kindOf s.cur = .ctl →
    let core := coreOf s.cur
    let j := s.cur % 128
    let asks (i : Instr) (n : Nat) : Prop :=
      ((s.core core).leashHolder = none → (s.core core).leashReqs = [] → IdleArray s core →
        ∃ t, exec i s = .next t ∧ OnlyCore s t ∧ (t.core core).leashHolder = some j ∧ (t.core core).leashLeft = n ∧
          (t.core core).leashReqs = []) ∧
      (∀ h, (s.core core).leashHolder = some h → h ≠ j → (s.core core).leashReqs = [] → arrayFree s core = false →
        ∃ t, exec i s = .next t ∧ OnlyCore s t ∧ (t.core core).leashHolder = some h ∧ ⟨j, n, false⟩ ∈ (t.core core).leashReqs)
    (∀ n : BitVec 37, (1 ≤ n.toNat → n.toNat ≤ 64 → asks (.leash n) n.toNat) ∧
      (n = 0 ∨ 64 < n.toNat → Faults (.leash n) s (cILLEGAL, 0) 0)) ∧
    (∀ sx : SReg, (1 ≤ (s.rs sx).toNat → (s.rs sx).toNat ≤ 64 → asks (.leashReg sx) (s.rs sx).toNat) ∧
      (s.rs sx = 0 ∨ 64 < (s.rs sx).toNat → Faults (.leashReg sx) s (cQUEUE, 8) 0)) ∧
    (∃ t, exec .unleash s = .next t ∧ OnlyCore s t ∧
      ((s.core core).leashHolder = some j → IdleArray s core →
        ((s.core core).leashReqs = [] → (t.core core).leashHolder = none) ∧
        ∀ r rest, (s.core core).leashReqs = r :: rest → (t.core core).leashHolder = some r.ctx ∧ (t.core core).leashLeft = r.count) ∧
      ((s.core core).leashHolder ≠ some j → ∀ r ∈ (t.core core).leashReqs, r.ctx = j → r.implicit = true))) ∧
  (∀ core s, 256 ≤ core → core < 384 → arrayFree s core = true →
    ∃ t, exec (.retirementBoundary core) s = .next t ∧ (t.core core).held = [] ∧ (t.core core).sinceBoundary = 0 ∧
      (t.core core).busy = false ∧ (∀ c, c ≠ core → t.core c = s.core c) ∧ { t with cores := s.cores } = s)

/-- R291 to R295: AOWNR describes a slot and changes nothing. ASAVE of a free slot goes on; of a slot of its own task it writes the image and
leaves the slot free, zero, and noted as spilled with its SAT; a privileged context, such as the shadow context, saves a slot of another task
to that task's own place, notes it there, and its own task becomes the owner; in user mode that raises PRIV, elsewhere BOUNDS with subcause
10. AREST fills a slot with its image and its SAT and makes it the task's own. A slot number above 2047 in a register raises BOUNDS with
subcause 9, and so does a slot the task has not been given; one in use makes both wait. -/
def Obligations.SlotsAreSavedAndRestored : Prop :=
  ∀ s, kindOf s.cur = .ctl ∨ kindOf s.cur = .shadow →
    let c := s.ctx (taskOf s s.cur)
    let moves (i j : Instr) (sd : SReg) (slot : Nat) : Prop :=
      (c.accslots ≤ slot → Faults i s (cBOUNDS, 9) 0 ∧ Faults j s (cBOUNDS, 9) 0) ∧
      (slot < c.accslots → SavesSlot s i sd slot ∧ RestoresSlot s j sd slot)
    ∀ (sd sx : SReg) (slot : BitVec 11),
      (∃ v, describesSlot s slot.toNat v ∧ Writes (.aownr sd slot) s sd v) ∧
      ((s.rs sx).toNat ≤ 2047 → ∃ v, describesSlot s (s.rs sx).toNat v ∧ Writes (.aownrReg sd sx) s sd v) ∧
      moves (.asave sd slot) (.arest sd slot) sd slot.toNat ∧
      ((s.rs sx).toNat ≤ 2047 → moves (.asaveReg sd sx) (.arestReg sd sx) sd (s.rs sx).toNat) ∧
      (2047 < (s.rs sx).toNat → Faults (.aownrReg sd sx) s (cBOUNDS, 9) 0 ∧ Faults (.asaveReg sd sx) s (cBOUNDS, 9) 0 ∧
        Faults (.arestReg sd sx) s (cBOUNDS, 9) 0)

/-! ### Records: vocabulary -/

namespace Sys2Proof.Machine

/-- A record of a queue of the acting control context that may start: it stands at the head, its wait is over, it does not wait for
itself, and nothing holds the queue (R169, R172). -/
def HeadReady (s : State) (q : EQueue) (h : QHead) : Prop :=
  kindOf s.cur = .ctl ∧ s.me.live = true ∧ s.me.draining = false ∧ headRecord s.me q = some h ∧ selfWait q h = false ∧
  waitOver s.me h.bits = true ∧ (s.me.inFlight q).length < 4

/-- The record has left the queue and is in flight; no memory and no register changes with its start. -/
def InFlight (s t : State) (q : EQueue) (h : QHead) (p : Flight → Prop) : Prop :=
  t.me.entries q = (s.me.entries q).drop 1 ∧ t.me.pc = s.me.pc ∧ (∀ r, t.rs r = s.rs r) ∧
  ∃ f ∈ t.me.flights, f.bits = h.bits ∧ f.queue = q ∧ f.ordinal = h.ordinal ∧ f.mode = h.mode ∧ p f

/-- R173: a completion element of a record that retired with a fault. -/
def FaultElement (e : Rec512) (h : QHead) (q : EQueue) (c : BitVec 8) (addr : Word) : Prop :=
  e.toNat % 2 ^ 8 = recOp h.bits ∧ e.toNat / 2 ^ 8 % 2 ^ 8 = qCode q ∧ e.getLsbD 16 = true ∧ e.extractLsb' 24 8 = c ∧
  e.toNat / 2 ^ 64 % 2 ^ 64 = (h.ordinal + 1) % 2 ^ 64 ∧ e.extractLsb' 128 64 = addr

/-- The five copy operations and their constructors. -/
noncomputable def copyOps : List ((CopyRec → Instr) × CopyOp) :=
  [(Instr.cpld, .cpld), (Instr.cpst, .cpst), (Instr.cpcc, .cpcc), (Instr.cprd, .cprd), (Instr.cpfill, .cpfill)]

/-- The Canvas of context `u`'s task holds some bytes at offset `o` of its allocation. -/
def canvasHolds (s : State) (u o : Nat) (bs : List Byte) : Prop :=
  canvasBytes (s.core (coreOf u)) ((s.ctx u).cbase + o) bs.length = bs

/-- R300, R301: the vector operations, with the opcode and the value of an element from those of X, Y and W, where `m` is the record's
rounding. -/
noncomputable def vectorOps : List ((VecRec → Instr) × Nat × (VecRec → Rnd → Val → Val → Val → Val)) :=
  [(Instr.vadd, 0x40, fun _ m x y _ => addVal m x y), (Instr.vsub, 0x41, fun _ m x y _ => addVal m x (negVal y)),
   (Instr.vmul, 0x42, fun _ _ x y _ => mulVal x y), (Instr.vfma, 0x43, fun _ m x y w => addVal m (mulVal x y) w),
   (Instr.vmax, 0x44, fun _ _ x y _ => maxVal x y), (Instr.vmin, 0x45, fun _ _ x y _ => minVal x y),
   (Instr.vexp, 0x46, fun _ m x _ _ => vecApprox .ex2 m x), (Instr.vrcp, 0x47, fun _ m x _ _ => vecApprox .rcp m x),
   (Instr.vrsq, 0x48, fun _ m x _ _ => vecApprox .rsq m x), (Instr.vcvt, 0x49, fun _ _ x _ _ => x),
   (Instr.vscale, 0x4B, fun r _ x _ _ => scaleVal x r.e.toInt),
   (Instr.vcmp, 0x4C, fun r _ x y _ => ofInt (if condFloat (condOf r.misc) x y then 1 else 0)),
   (Instr.vsel, 0x4D, fun _ _ x y w => match w with
     | .fin _ 0 _ => y
     | _ => x)]

/-- A matrix, slot or vector record that may start on the array: its context holds the Leash of a free array (R287, R298). -/
def ArrayReady (s : State) (h : QHead) : Prop :=
  HeadReady s .mq h ∧ clocksHeld s (coreOf s.cur) = false ∧
  ((settleArray s (coreOf s.cur)).core (coreOf s.cur)).leashHolder = some (s.cur % 128) ∧ arrayFree s (coreOf s.cur) = true

/-- R292: every slot is the task's own or free, none is spilled, and no running record of another task names one. -/
def slotsOwn (s : State) (slots : List Int) : Prop :=
  ownerFault (s.core (coreOf s.cur)) s.me slots = none ∧ slotsInUse s s.cur slots = false

/-- The next `n` ordinals of a record's work, all performed; none where one of them fails. -/
def allDone (w : Work) : Nat → State → Flight → Option (State × Flight)
  | 0, s, f => some (s, f)
  | n + 1, s, f =>
    match w.elem s f with
    | (s, f, none) => allDone w n s { f with done := f.done + 1 }
    | (_, _, some _) => none

/-- R302, R305, R327: how a record of context `u` goes on: with every unit debited it performs its ordinals and is done; where an ordinal
fails it halts there, with what came before in place; where the unit that covers its ordinal has been asked for and not debited it waits,
and nothing else changes. -/
def GoesOn (u : Nat) (w : Work) (go : State → Flight → State) (fmts : List (BitVec 8)) : Prop :=
  ∀ (f : Flight) s, f.fmts = fmts → f.done ≤ f.total →
    (∀ s1 f1, (∀ n, n < f.total → w.need n ≤ f.paid) → allDone w (f.total - f.done) s f = some (s1, f1) →
      go s f = s1.setCtx u ((s1.ctx u).putFlight { f1 with finished := true }) ∧ f1.done = f.total) ∧
    (∀ s1 f1 e, f.done < f.total → w.need f.done ≤ f.paid → w.elem s f = (s1, f1, some e) → go s f = haltFlight s1 u f1 e) ∧
    (f.done < f.total → f.paid < w.need f.done → f.paid < f.asked → go s f = s.setCtx u ((s.ctx u).putFlight f))

end Sys2Proof.Machine

/-! ### Copy records -/

/-- R169, R173, R180, R185: a copy record that passes its checks leaves its queue and is in flight, with all its elements to land; one that
fails a check of its own fields retires with a fault element in `%oq`. -/
def Claims.CopyRecordsStart : Prop :=
  ∀ p ∈ copyOps, ∀ (r : CopyRec) s h, HeadReady s p.2.queue h → recOp h.bits = p.2.code → copyRec h.bits = r →
    (∀ f ∈ s.me.inFlight p.2.queue, f.halted = false ∧ cpConflict s s.cur p.2 r h.mode f = false) →
    (copyCheck s s.cur p.2 r = none →
      ∃ t, exec (p.1 r) s = .next t ∧ t.mem = s.mem ∧ InFlight s t p.2.queue h fun f => f.total = cpN r ∧ f.done = 0 ∧ f.halted = false) ∧
    (∀ c a, copyCheck s s.cur p.2 r = some (c, a) → c.1 ≠ 0 → s.me.oq.length < 32 → h.ordinal + 1 < 2 ^ 64 →
      ∃ t e, exec (p.1 r) s = .next t ∧ t.me.oq = s.me.oq ++ [e] ∧ FaultElement e h p.2.queue c.1 a ∧
        (∃ n, t.me.entries p.2.queue = (s.me.entries p.2.queue).drop (n + 1)) ∧ t.me.pc = s.me.pc)

/-- R181, R183, R184: what an element of a copy record moves: CPLD the bytes its memory line answers, CPCC those of its Canvas source,
CPFILL the record's value, each to the element's Canvas offset; CPST writes the Canvas bytes to the element's address, with the descriptor
its record gives or the one that every source of that memory line agrees on, the line being home's whatever address maps it; CPRD combines
them into the live range there. -/
def Claims.CopyElementsMove : Prop :=
  ∀ (r : CopyRec) (f : Flight) u s, badDval r = false →
    (∃ t g, landSome s u .cpfill r f 1 = (t, g, 1, none) ∧ canvasHolds t u (cpDst r f.done) (toBytes r.gva (cpEs r))) ∧
    (∀ s1 bs d, canvasElem s u r (cpSrc r f.done).toNat = (s1, .ok (bs, d)) → bs ≠ [] →
      ∃ t g, landSome s u .cpcc r f 1 = (t, g, 1, none) ∧ canvasHolds t u (cpDst r f.done) bs ∧ t.mem = s1.mem) ∧
    (∀ s1 bs d, engineRead s u f.mode (cpDown r) (cpVa r f.done) (cpEs r) = (s1, .ok (bs, d)) → sourceOk r d = true → bs.length = cpEs r →
      ∃ t g, landSome s u .cpld r f 1 = (t, g, 1, none) ∧ canvasHolds t u (cpDst r f.done) bs ∧ t.mem = s1.mem) ∧
    (∀ s1 bs d s2 line, canvasElem s u r (cpDst r f.done) = (s1, .ok (bs, d)) →
      let noted (l : Nat) : List WLine × WLine := noteLine f.lines l (byteMask (cpVa r f.done).toNat bs.length) d
      engineWriteAt s1 u f.mode (cpDown r) (cpVa r f.done) bs (fun l => some (if r.desc = 0 then (noted l).2.desc else r.dval)) = (s2, .ok line) →
      landSome s u .cpst r f 1 = (s2, { f with lines := (noted line).1 }, 1, none)) ∧
    (∀ s1 bs d s2 tr s3 tr' g s4, canvasElem s u r (cpDst r f.done) = (s1, .ok (bs, d)) →
      engineTrans s1 u f.mode .atomic (cpDown r) (cpVa r f.done) = (s2, .ok tr) → cprdRow s2 u (cpEs r) tr.pa = none →
      pacedTrans s2 (coreOf u) (unitTrans s2 u f.mode) .atomic (cpVa r f.done) tr = (s3, .ok tr') → isRemote tr'.pa = false →
      rangeOf s3 (s3.ctx u).part tr'.pa = some g → sizeMatches g false (cpEs r) = true →
      reduceInto s3 (engineReq s3 u tr') g tr'.pa (cpEs r) (ofBytesNat bs) = (s4, none) →
      landSome s u .cprd r f 1 = (s4, f, 1, none))

/-- R171, R173, R185, R186, R302, R303: the landing of a copy record's next element counts it, a failing one halts the record there
(elements land in ascending order, log 24, and FADDR of a halted record is its fault's, log 40), while a CPRD's elements wait until all of
them are there; a matrix, slot or vector record first does
the work its debited units cover (log 11); a record that has done its work retires, which raises its queue's counter and posts the element
it asked for, and one whose write a late error has answered posts an element with the cause FABRIC and the first such address, though it
has not asked for one (log 39). -/
def Obligations.EngineRecordsRetire : Prop :=
  ∀ s (e : EngineRef), kindOf (unitId e.core e.ctx) = .ctl → (s.ctx (unitId e.core e.ctx)).live = true →
    let u := unitId e.core e.ctx
    let c := s.ctx u
    let a := advanceQueue s u e.queue
    (∀ f n, e.queue = .lq ∨ e.queue = .sq → c.flight e.queue n = some f → f.ordinal = n → f.halted = false → f.posting = false →
      (copyRec f.bits).tbar = 0xFFFFFFFF → f.done < f.total → f.done < 2 ^ 32 → f.done < paidElems (copyRec f.bits) f →
      let i := Instr.copyElementLanded e (n * 2 ^ 32 + f.done)
      (copyOpOf (recOp f.bits) = .cprd → f.done + 1 < f.total →
        ∃ t, exec i s = .next t ∧ t.mem = s.mem ∧ t.cores = s.cores ∧ (t.ctx u).flight e.queue n = some f) ∧
      (copyOpOf (recOp f.bits) ≠ .cprd ∨ f.done + 1 = f.total →
      (∀ s1 g, landSome s u (copyOpOf (recOp f.bits)) (copyRec f.bits) f 1 = (s1, g, 1, none) → f.done + 1 < f.total →
        (g.queue, g.ordinal, g.done, g.total, g.halted) = (f.queue, f.ordinal, f.done, f.total, f.halted) →
        ∃ t, exec i s = .next t ∧ t.mem = s1.mem ∧ ∃ g' ∈ (t.ctx u).flights, g'.ordinal = n ∧ g'.done = f.done + 1 ∧ g'.halted = false) ∧
      (∀ s1 g x, landSome s u (copyOpOf (recOp f.bits)) (copyRec f.bits) f 1 = (s1, g, 0, some x) → (s1.ctx u).flight e.queue n = some f →
        (g.queue, g.ordinal, g.done, g.total) = (f.queue, f.ordinal, f.done, f.total) → (s1.ctx (unitId (coreOf u) 4)).live = true →
        ∃ t, exec i s = .next t ∧ ∃ g' ∈ (t.ctx u).flights, g'.ordinal = n ∧ g'.done = f.done ∧ g'.halted = true ∧ g'.cause = x.cause.1 ∧
          g'.faddr = x.addr))) ∧
    ((e.queue = .mq ∨ e.queue = .vq) → clocksHeld s (coreOf u) = false →
      ∀ f, (c.flights.find? fun f => f.queue == e.queue && !f.finished && !f.halted && !f.atStart && !f.posting) = some f →
        a = (if e.queue = .vq then vecGo s u (recOp f.bits) (vecRec f.bits) f
          else if recOp f.bits = 0x20 ∨ recOp f.bits = 0x21 then matGo s u (recOp f.bits == 0x21) (matRec f.bits) f
          else slotGo s u (slotOpOf (recOp f.bits)) (slotRec f.bits) f)) ∧
    (completable a u e.queue = none → exec (.engineRecordCompletion e) s = .next a) ∧
    (∀ f, completable a u e.queue = some f → f.queue = e.queue → f.cause = 0 → (a.ctx u).early = [] → e.queue ≠ .oq →
      f.ordinal = ((a.ctx u).counter e.queue).toNat → (a.ctx u).oq.length < 32 →
      ∃ t, exec (.engineRecordCompletion e) s = .next t ∧ (t.ctx u).counter e.queue = (a.ctx u).counter e.queue + 1 ∧
        (t.ctx u).flight e.queue f.ordinal = none ∧ (bitAt f.bits 8 = false → f.late = none → (t.ctx u).oq = (a.ctx u).oq) ∧
        (bitAt f.bits 8 = true → f.late = none → (t.ctx u).oq = (a.ctx u).oq ++ [elementOf f]) ∧
        ∀ addr, f.late = some addr → (t.ctx u).oq = (a.ctx u).oq ++ [elementOf { f with cause := cFABRIC, faddr := addr }]) ∧
    (∀ f (addr : Word), (c.flights.find? fun f => f.queue == e.queue && writesMemory f && !f.atStart && !f.posting && f.late.isNone) = some f →
      ∃ t, exec (.engineLateError e addr) s = .next t ∧ { f with late := some addr } ∈ (t.ctx u).flights ∧ { t with ctxs := s.ctxs } = s)

/-! ### Matrix, slot and vector records -/

/-- R280 to R288, R305, R327: an MMA or MMAS that passes its checks leaves its queue, and its slots' owner is its task. Where the core's
COUNT covers all its units and no unit waits before them, all its passes are done with its start (work follows the debited units, log 11;
the open cases of the checks are log 39): COUNT has fallen by their price, and each output element of a record of one pass is its
accumulator plus the chunk sum of the products over the K-steps performed; no memory changes. A pass whose units are not all debited is not
performed. -/
def Obligations.MatrixRecordsAccumulate : Prop :=
  (∀ (sparse : Bool) (r : MatRec) s h s1 fa fb, ArrayReady s h → recOp h.bits = (if sparse then 0x21 else 0x20) → matRec h.bits = r →
    matCheck (settleArray s (coreOf s.cur)) s.cur sparse r = (s1, .ok (fa, fb)) → s1.me = s.me → s1.cur = s.cur → slotsOwn s1 (matSlots r) →
    let core := coreOf s.cur
    let units := (rangeFrom 0 (matPasses r)).flatMap fun p => passUnits r ((fmtClass fa).getD 0) (bitmapWord s1 s.cur sparse r p)
    let price := (units.map fun x => x.1 * x.2).sum
    (s1.core core).tokq = [] → price ≤ (s1.core core).tokens →
    ∃ t, exec (if sparse then .mmas r else .mma r) s = .next t ∧ t.mem = s1.mem ∧
      (InFlight s t .mq h fun f => f.finished = true ∧ f.done = matPasses r ∧ f.halted = false) ∧
      (t.core core).tokens = (s1.core core).tokens - price ∧
      (∀ x ∈ matSlots r, 0 ≤ x → (t.core core).slotOwner x.toNat = tagOf s.me ∨ tagOf s.me = 0xFF) ∧
      (t.core core).canvas = (s1.core core).canvas ∧
      (matPasses r = 1 → 0 ≤ matSlot r 0 → r.acc ≠ 3 →
        ∀ i j, i < 32 * matMt r → j < 32 * matNt r →
          let slot := (matSlot r 0).toNat + accSlots r.acc * (i / 32 * matNt r + j / 32)
          let k := s1.core core
          let base := s.me.cbase
          let av (n : Nat) : Val := operandVal k k.cdesc base fa (r.fa == 0) (matA r (d0Bytes fa) 0 i n)
          let bv (n : Nat) : Val := operandVal k k.cdesc base fb (r.fb == 0) (matB r (d0Bytes fb) 0 n j)
          accGet (t.core core) r.acc slot (i % 32) (j % 32) % 2 ^ (8 * accBytes r.acc) =
            (accStep r.acc (bitAt r.head.flags 0) (accGet k r.acc slot (i % 32) (j % 32))
              (sumVals ((stepsOf (groupsOf r (bitmapWord s1 s.cur sparse r 0))).map fun n => prodVal (av n) (bv n)))).1 % 2 ^ (8 * accBytes r.acc))) ∧
  ∀ u sparse (r : MatRec) (f : Flight) s, f.units ≠ [] → f.done < f.total → f.paid < passNeeds s u sparse r f.done →
    matGo s u sparse r f = s.setCtx u ((s.ctx u).putFlight f)

/-- R289, R290, R302, R305: a slot record that passes its checks leaves its queue and goes on from its first row, as `GoesOn` says (rows
follow the debited units, log 11; formats and failing rows, log 39). A row of MZERO leaves its accumulators zero, one of MLDC holds the
scaled and converted elements it read, one of MRET writes the scaled and converted accumulators to the Canvas. An MZERO of one tile that
COUNT covers is done with its start. -/
def Obligations.SlotRecordsMoveRows : Prop :=
  (∀ p ∈ [(Instr.mzero, SlotOp.mzero), (Instr.mldc, SlotOp.mldc), (Instr.mret, SlotOp.mret)], ∀ (r : SlotRec) s h,
    ArrayReady s h → recOp h.bits = p.2.code → slotRec h.bits = r → slEarly p.2 r = none → (p.2 ≠ .mldc ∨ r.fmt ≠ 0) →
    let core := coreOf s.cur
    let s0 := settleArray s core
    slLate s0 s.cur p.2 r r.fmt = none → slotsOwn s0 (tileSlots r) →
    let f : Flight := { bits := h.bits, queue := .mq, ordinal := h.ordinal, mode := h.mode, total := 32 * slotTiles r,
                        clocks := 64 * slotTiles r, fmts := [r.fmt] }
    let sa := s0.setCore core (takeSlots (s0.core core) (tagOf s.me) (tileSlots r))
    exec (p.1 r) s = .next (slotGo (sa.setCtx s.cur ((s.me.popHead .mq).putFlight f)) s.cur p.2 r f) ∧
    (p.2 = .mzero → slotTiles r = 1 → (s.core core).tokq = [] → accSlots r.acc ≤ (s.core core).tokens →
      ∃ t, exec (.mzero r) s = .next t ∧ t.mem = s.mem ∧ (InFlight s t .mq h fun f => f.finished = true ∧ f.done = 32 ∧ f.halted = false) ∧
        (t.core core).tokens = (s.core core).tokens - accSlots r.acc ∧
        ∀ i j, i < 32 → j < 32 → accGet (t.core core) r.acc (tileSlot r 0).toNat i j = 0)) ∧
  (∀ u op (r : SlotRec) fmts, GoesOn u (slotWork u op r) (fun s f => slotGo s u op r f) fmts) ∧
  (∀ (r : SlotRec) (f : Flight) (ti i u : Nat) s, i < 32 → 0 ≤ tileSlot r ti → r.acc ≠ 3 →
    let slot := (tileSlot r ti).toNat
    let core := coreOf u
    let fmt := f.fmts.headD r.fmt
    (∃ t, slotRow s u .mzero r f ti i = (t, f, none) ∧ ∀ j, j < 32 → accGet (t.core core) r.acc slot i j = 0) ∧
    (∀ s1 vs, readElems u f.mode (slMem r) false fmt (r.fmt == 0) 32 (slRow r ti i) 32 s = (s1, .ok vs) → vs.length = 32 →
      ∃ t, slotRow s u .mldc r f ti i = (t, f, none) ∧ t.mem = s1.mem ∧
        ∀ j, j < 32 → accGet (t.core core) r.acc slot i j =
          d0Code (accFmt r.acc) (rndOf r.rnd) (slSat r) (scaleVal (vs.getD j .nan) r.scale.toInt) % 2 ^ (8 * accBytes r.acc)) ∧
    (slMem r = false → 0 ≤ slRow r ti i → slRow r ti i % (d0Bytes fmt : Int) = 0 →
      ∃ t g, slotRow s u .mret r f ti i = (t, g, none) ∧ t.mem = s.mem ∧
        ∀ j, j < 32 →
          let v := scaleVal (d0Val (accFmt r.acc) 0 (accGet (s.core core) r.acc slot i j)) (-r.scale.toInt)
          canvasHolds t u ((slRow r ti i).toNat + j * d0Bytes fmt) (toBytes (BitVec.ofNat 64
            (if r.scale = 0 then d0Convert (accFmt r.acc) fmt (rndOf r.rnd) (slSat r) v else d0Code fmt (rndOf r.rnd) (slSat r) v))
            (d0Bytes fmt))))

/-- R300 to R302, R305: a vector record that passes its checks leaves its queue and goes on from its first element, as `GoesOn` says
(elements follow the debited units, log 11); each element is the operation on the values of its sources, converted to `fz` and written to Z
in the Canvas; a step of VRED combines the next value, the first being taken unrounded (log 39). -/
def Obligations.VectorRecordsComputeElements : Prop :=
  (∀ p ∈ (Instr.vred, 0x4A) :: vectorOps.map (fun x => (x.1, x.2.1)), ∀ (r : VecRec) s h,
    HeadReady s .vq h → recOp h.bits = p.2 → vecRec h.bits = r → clocksHeld s (coreOf s.cur) = false → runningOf s (coreOf s.cur) .vq = [] →
    vecEarly p.2 r = none → (∀ o ∈ [VOp.x, .y, .w], vFmt r o ≠ 0 ∨ o ∉ vUses p.2) →
    let core := coreOf s.cur
    let s0 := settleArray s core
    let fmts := [r.fx, r.fy, r.fw]
    vecLate s0 s.cur p.2 fmts r = none → (∀ x ∈ vecSlots p.2 r, Sparse.get (fun _ => false) (s0.core core).held x.toNat = false) →
    slotsOwn s0 (vecSlots p.2 r) →
    let f : Flight := { bits := h.bits, queue := .vq, ordinal := h.ordinal, mode := h.mode, total := r.n0.toNat * r.n1.toNat, fmts := fmts }
    let sa := s0.setCore core (takeSlots (s0.core core) (tagOf s.me) (vecSlots p.2 r))
    exec (p.1 r) s = .next (vecGo (sa.setCtx s.cur ((s.me.popHead .vq).putFlight f)) s.cur p.2 r f)) ∧
  (∀ u op (r : VecRec) fmts, GoesOn u (vecWork u op fmts r) (fun s f => vecGo s u op r f) fmts) ∧
  (∀ p ∈ vectorOps, ∀ (r : VecRec) (f : Flight) u s s1 vs, 0 < r.n0.toNat → vLoc r .z = 0 →
    vecReads u f.mode f.fmts r (f.done / r.n0.toNat) (f.done % r.n0.toNat) ((vUses p.2.1).filter fun o => o != .z) s = (s1, .ok vs) →
    0 ≤ vAddr [] r .z (f.done / r.n0.toNat) (f.done % r.n0.toNat) →
    let v := p.2.2 r (rndOf r.rnd) (vs.getD 0 .nan) (vs.getD 1 .nan) (vs.getD 2 .nan)
    ∃ t, vecElem s u p.2.1 r f = (t, f, none) ∧ t.mem = s1.mem ∧
      canvasHolds t u (vAddr [] r .z (f.done / r.n0.toNat) (f.done % r.n0.toNat)).toNat
        (toBytes (BitVec.ofNat 64 (if p.2.1 = 0x49 then d0Convert (vFmtIn f.fmts r .x) r.fz (rndOf r.rnd) (bitAt r.head.flags 0) v
          else d0Code r.fz (rndOf r.rnd) (bitAt r.head.flags 0) v)) (d0Bytes r.fz))) ∧
  (∀ (r : VecRec) (f : Flight) u s s1 v, f.done % r.n0.toNat + 1 < r.n0.toNat →
    vecRead s u f.mode f.fmts r .x (f.done / r.n0.toNat) (f.done % r.n0.toNat) = (s1, .ok v) →
    vecElem s u 0x4A r f = (s1, { f with acc := some (redStep (vFmtIn f.fmts r .x) r (if f.done % r.n0.toNat = 0 then none else f.acc) v) }, none))

/-! ### The Shepherd: vocabulary -/

namespace Sys2Proof.Machine

/-- The packet has left its queue, and the others stay in their order (R312). -/
def LeftQueue (s t : State) (q : Nat) (w : Waiting) : Prop := t.queue q = (s.queue q).filter fun v => v.seq != w.seq

/-- R311, R312, R342: the Shepherd may start packet `w` of queue `q` now, and its checks pass, leaving `s1` and the header `h`. -/
def Startable (s : State) (q : Nat) (w : Waiting) (s1 : State) (h : List Word) : Prop :=
  candidate s q = some w ∧ mayPlace s (queuePart s q) = true ∧ packetCheck s (queuePart s q) w.packet = (s1, false, h) ∧
  chosen s q w = true

/-- R361, R374, R383: a unit runs with the registers and the PC of a saved image, and with its partition's translation. -/
def ReturnedAs (s : State) (v : Saved) (c : Ctx) : Prop :=
  c.live = true ∧ c.gpr = v.ctx.gpr ∧ c.vreg = v.ctx.vreg ∧ c.pc = v.ctx.pc ∧ c.part = some v.part ∧
  c.ttb1 = s.hubR (pBase v.part + 8) ∧ c.ttb2 = s.hubR (pBase v.part + 0x18)

/-- A unit that has been saved: its image holds the registers, the PC and the lane registers that `c` had (R372, R373, R411). -/
def ImageOf (v : Saved) (u : Nat) (c : Ctx) : Prop :=
  v.unit = u ∧ v.ctx.gpr = c.gpr ∧ v.ctx.pc = c.pc ∧ v.ctx.vreg = c.vreg ∧ v.ctx.index = c.index ∧ v.blockId = c.block

/-- R311: packet `w` of queue `q` has been refused: it has left its queue, the others stay in their order, no launch has started or ended,
its signal is decremented, and a completion event carries QUEUE, after what its checks read (R90, R94); the hub may have counted a masked
feature (R395). -/
def Refused (s t : State) (q : Nat) (w : Waiting) : Prop :=
  let c := (packetCheck s (queuePart s q) w.packet).1
  LeftQueue s t q w ∧ t.launches = s.launches ∧
  ∃ s0, { s0 with queues := c.queues, hub := c.hub } = c ∧
    t = presentEvent (decrementSignal s0 (queuePart s q) (pkSignal w.packet)) 1 0 cQUEUE (some (queuePart s q)) q (pkSignal w.packet)

/-- R313: unit number `k` of launch `l`, which is `x`, stands at its start: in user mode, at the entry, with its registers. -/
def StartedAs (s : State) (x : Launch) (l k : Nat) (c : Ctx) : Prop :=
  c.live = true ∧ c.mode = 0 ∧ c.pc = pcOf x.entry ∧ c.launch = some l ∧ c.member = k ∧ c.part = some x.part ∧
  c.ttb1 = s.hubR (pBase x.part + 8) ∧ c.ttb2 = s.hubR (pBase x.part + 0x18) ∧
  ∀ n, c.reg n = if n = 1 then BitVec.ofNat 64 k else if n = 2 then pkArgs x.packet else if n = 62 then Config.endAddress else 0

/-- R377, R378: partition `p` has been reset: no pack, task or shadow context runs its work, nothing of it is saved, none of its launches is
left, and PCTL shows the reason with no reset in progress. -/
def PartitionStopped (t : State) (p reason : Nat) : Prop :=
  (∀ u, kindOf u ≠ .host → workOf p (t.ctx u) = false) ∧ (∀ v ∈ t.saved, v.part ≠ p) ∧
  (∀ l x, t.launch l = some x → x.part ≠ p) ∧ hubF t (fBase p + 0x20) 8 8 = reason ∧ pQuiesce t p = false

/-- R366: the Shepherd's work for one partition at a tick: gangs first, then tasks. -/
def tickFor (s : State) (p : Nat) : State := tickTasks (tickGangs s p) p

/-- R347: a tick comes TICK after the last; the state in which the Shepherd comes to partition `p` in it. -/
def tickUntil (s : State) (p : Nat) : State :=
  let now := max s.cycles (s.lastTick + 2000 * hubF s 0xB80 0 16)
  (rangeFrom 0 p).foldl tickFor { s with cycles := now, lastTick := now }

/-- No switch of another partition is in progress. -/
def NoOtherSwitch (s : State) (p : Nat) : Prop := ∀ q, q ≠ p → (s.part q).switchAt = none

/-- R302: no fault is in service in the shadow context of a unit's core. -/
def ShadowIdle (s : State) (u : Nat) : Prop :=
  (s.ctx (unitId (coreOf u) 4)).live = false ∨ (s.ctx (unitId (coreOf u) 4)).serving = none

end Sys2Proof.Machine

/-! ### Packets and members -/

/-- R310 to R313, R412: a dispatch packet whose checks pass, where its first member is admitted, becomes a launch; a barrier or signal
packet starts at once, and completes when its signals are zero (a signal packet at once); a packet whose checks fail leaves its queue,
starts no launch, decrements its signal and completes with CAUSE QUEUE, one with `barrier` set also at the head of its queue while earlier
packets run. A signal of 0 is none; another loses 1 where its partition's translation and home take the access. A read of a DEP signal notes
whether it is 0. That a launch's first member goes after those of an earlier launch of its class, and that a refused packet leaves as soon
as it is a candidate, is log 38 (DEDUCED). -/
def Claims.PacketsStartAndComplete : Prop :=
  (∀ q s w, candidate s q = some w → mayPlace s (queuePart s q) = true → (packetCheck s (queuePart s q) w.packet).2.1 = true →
    (pkType w.packet = 0 ∨ 4 ≤ pkType w.packet → ∃ t, exec (.dispatchPacket q w.packet) s = .next t ∧ Refused s t q w) ∧
    (pkType w.packet = 1 → ∃ t, exec (.barrierAndPacket q w.packet) s = .next t ∧ Refused s t q w) ∧
    (pkType w.packet = 2 → ∃ t, exec (.barrierOrPacket q w.packet) s = .next t ∧ Refused s t q w) ∧
    (pkType w.packet = 3 → ∃ t, exec (.signalPacket q w.packet) s = .next t ∧ Refused s t q w)) ∧
  (∀ s p, decrementSignal s p 0 = s) ∧
  (∀ s p (a : Word) s1 tr, a ≠ 0 → a.toNat % 8 = 0 → translate s (shepherdTrans s p) .atomic false a = (s1, .ok tr) →
    PlainBytes s1 tr.pa 8 → homeRefuses s1 (some p) tr.pa = false → s1.mem.ranges = [] → s1.mem.fwd = [] →
    Stored s1 (decrementSignal s p a) tr.pa 8 (BitVec.ofNat 64 (numberAt s1 tr.pa 8) - 1)) ∧
  (∀ q s w s1 h, Startable s q w s1 h →
    (∀ s2, pkType w.packet = 0 → startCandidate s q w = some s2 →
      ∃ t x, exec (.dispatchPacket q w.packet) s = .next t ∧ LeftQueue s1 t q w ∧ t.launch s1.nextId = some x ∧ x.queue = q ∧
        x.packet = w.packet ∧ x.part = queuePart s1 q ∧ 1 ≤ x.placed) ∧
    (systemScope (pkRel w.packet) = false → pkType w.packet = 3 →
      ∃ t, exec (.signalPacket q w.packet) s = .next t ∧ LeftQueue s t q w ∧ ∀ y ∈ t.depWait, y.2.seq ≠ w.seq) ∧
    (systemScope (pkRel w.packet) = false → pkType w.packet = 1 → depsUsed w.packet = [] →
      ∃ t, exec (.barrierAndPacket q w.packet) s = .next t ∧ LeftQueue s t q w ∧ ∀ y ∈ t.depWait, y.2.seq ≠ w.seq) ∧
    (pkType w.packet = 2 → depsUsed w.packet = [] → w.depZero = [] → w.depFailed = [] →
      ∃ t, exec (.barrierOrPacket q w.packet) s = .next t ∧ LeftQueue s t q w ∧ (q, w) ∈ t.depWait)) ∧
  (∀ q i s w s1 w1, ((s.depWait.filter fun x => x.1 == q && pkType x.2.packet != 3).drop (i / 5)).head? = some (q, w) →
    readDep s q w (i % 5) = (s1, w1) → (q, w) ∈ s1.depWait →
    (depsDone w1 = false → ∃ t, exec (.depSignalRead q i) s = .next t ∧ (q, w1) ∈ t.depWait) ∧
    (depsDone w1 = true → systemScope (pkRel w1.packet) = false →
      ∃ t, exec (.depSignalRead q i) s = .next t ∧ ∀ y ∈ t.depWait, y.2.seq ≠ w.seq)) ∧
  (∀ q i s w s1 v, (pkDep w.packet i) ≠ 0 → (pkDep w.packet i).toNat % 8 = 0 → i ∉ w.depFailed →
    shepherdRead s (queuePart s q) (pkDep w.packet i) 1 = (s1, .ok [v]) →
    (readDep s q w i).1 = s1 ∧ (i ∈ (readDep s q w i).2.depZero ↔ v = 0))

/-- R313, R315, R343, R345, R361: a launch's next member is placed where one is admitted and no earlier launch comes first; a member that
only FLOOR keeps back is deferred, for at most 10 ms. A task that is placed starts in user mode at its entry, with `s1` its index, `s2` the
arguments, `s62` the end address, every other register 0 and its Canvas zero, at a group-aligned base within the Canvas of the Shepherd's
choice (R407; log 38, DESIGN CHOICE); the packs of a block start so with `s1` their INDEX and every lane register 0, in a block whose shared
memory is zero; a host thread starts so on the coolest idle core, whose own values are kept (log 27, DEDUCED). The
order of launches by their start, and the deferral of a packet that waits, are log 38 (DEDUCED); that a timeout brings the cycle count to its
moment is log 42 (DEDUCED); the PC's low three bits read 0 (R39, log 47). -/
def Claims.MembersArePlaced : Prop :=
  (∀ l s x, s.launch l = some x →
    (∀ t, earlierFirst s x = false → placeNext s l x = some t →
      exec (.memberPlacement l) s = .next t ∧ ∃ y, t.launch l = some y ∧ y.placed = x.placed + (if x.code = 1 then max 1 (pkCohort x.packet) else 1)) ∧
    (earlierFirst s x = false → placeNext s l x = none → x.deferredSince = none → (placeNext s l { x with noDefer := true }).isSome →
      exec (.memberPlacement l) s = .next (s.setLaunch l (some { x with deferredSince := some s.cycles }))) ∧
    (∀ c, x.deferredSince = some c →
      ∃ t, exec (.floorDeferTimeout l) s = .next t ∧ t.launch l = some { x with noDefer := true } ∧ t.cycles = max s.cycles (c + 20000000) ∧
        { t with launches := s.launches, cycles := s.cycles } = s)) ∧
  (∀ l s w, s.launch l = none → ((s.queues.flatMap fun x => x.2).find? fun w => w.seq == l && w.deferredSince.isSome) = some w →
    ∃ t, exec (.floorDeferTimeout l) s = .next t ∧ ∀ q, ∀ v ∈ t.queue q, v.seq = l → v.noDefer = true) ∧
  (∀ l s x, s.launch l = some x → earlierFirst s x = false → mayPlace s x.part = true → x.placed < x.members →
    let dies := diesFor s x.part x.code (effPrio s x.queue x.packet) x.noDefer
    (∀ core j base, x.code = 2 → pagesFit s x.part (taskPages (pkCanvas x.packet)) = true →
      coreAmong s (fun c => taskFits s x.part c (pkCanvas x.packet) (pkAccslots x.packet) && (pkAccslots x.packet == 0 || tagFree s c)) dies
        = some core →
      ctxOwned s x.part (core - 256) = some j → canvasBase s core (pkCanvas x.packet) = some base →
      ∃ t, exec (.memberPlacement l) s = .next t ∧
        let c := t.ctx (unitId core j)
        StartedAs s x l x.placed c ∧ base % 0x18000 = 0 ∧ base + pkCanvas x.packet ≤ 0x60000 ∧ c.cbase = base ∧ c.csize = pkCanvas x.packet ∧
          ∀ a, base ≤ a → a < base + pkCanvas x.packet → Sparse.get byte0 (t.core core).canvas a = 0) ∧
    (∀ core, x.code = 0 → pagesFit s x.part 1 = true → coreAmong s (fun c => hostFits s x.part c) dies = some core →
      ∃ t, exec (.memberPlacement l) s = .next t ∧ StartedAs s x l x.placed (t.ctx (unitId core 0)) ∧
        Sparse.get (fun _ => ({} : Ctx)) t.former (unitId core 0) = s.ctx (unitId core 0)) ∧
    (let pk := x.packet
     ∀ core, x.code = 1 → pkCohort pk = 0 → (s.part x.part).switchAt = none →
      pagesFit s x.part (blockPages (pkShared pk) + pkPacks pk * packPages (allocOf (pkVregs pk)) x.narrow) = true →
      coreAmong s (fun c => simtFits s x.part c (pkPacks pk) (allocOf (pkVregs pk)) x.narrow (pkShared pk)) dies = some core →
      ∃ t b blk, exec (.memberPlacement l) s = .next t ∧ t.block b = some blk ∧ blk.core = core ∧ blk.launch = l ∧ blk.part = some x.part ∧
        blk.x + pkX pk * (blk.y + pkY pk * blk.z) = x.placed ∧ blk.shared = [] ∧ blk.sharedSize = pkShared pk ∧
        blk.packs.map (·.1) = rangeFrom 0 (pkPacks pk) ∧
        ∀ u ∈ blk.packs, coreOf u.2 = core ∧ StartedAs s x l u.1 (t.ctx u.2) ∧ (t.ctx u.2).index = u.1 ∧ (t.ctx u.2).block = some b ∧
          (t.ctx u.2).vreg = [] ∧ (t.ctx u.2).vregs = allocOf (pkVregs pk)))

/-! ### Pre-emption -/

/-- R302, R361, R369, R370, R372, R373, R411: a unit that a request has reached is saved with its registers, its PC and its lane registers,
and runs no more: a pack in a listed wait, or at PTIMEOUT, as it stands, a pack without a point since its start at its start; a host thread
as it stands, and its core has its own values again (log 27, DEDUCED); a drained task with its Canvas, where no fault is in service in its
core's shadow context. That images are kept beside the bytes of the save area is log 14 (DESIGN CHOICE), and that PTIMEOUT brings the cycle
count to its moment log 42 (DEDUCED). -/
def Claims.PreemptedUnitsAreSaved : Prop :=
  (∀ u s l, kindOf u = .pack → (s.ctx u).live = true → (s.ctx u).launch = some l → (s.ctx u).draining = false → (s.ctx u).aclanes = [] →
    (unitStops u (s.ctx u) = some true →
      ∃ t, exec (.unitSave u) s = .next t ∧ (t.ctx u).live = false ∧ ∃ v ∈ t.saved, ImageOf v u (s.ctx u)) ∧
    (∀ x, unitStops u (s.ctx u) = some false → s.launch l = some x → (s.ctx u).pvalid = false →
      ∃ t, exec (.unitSave u) s = .next t ∧ (t.ctx u).live = false ∧
        ∃ v ∈ t.saved, v.unit = u ∧ v.ctx.pc = (s.ctx u).startpc ∧ v.ctx.reg 1 = BitVec.ofNat 64 (s.ctx u).index ∧
          v.ctx.reg 2 = pkArgs x.packet ∧ v.ctx.reg 62 = Config.endAddress) ∧
    (∀ since, (s.ctx u).preempt = some since →
      ∃ t, exec (.preemptTimeout u) s = .next t ∧ (t.ctx u).live = false ∧ (∃ v ∈ t.saved, ImageOf v u (s.ctx u)) ∧
        t.cycles = max s.cycles (2 * (since + ptimeout s ((s.ctx u).part.getD 0))))) ∧
  (∀ u s l, kindOf u = .host → (s.ctx u).live = true → (s.ctx u).launch = some l → (s.ctx u).draining = false →
    unitStops u (s.ctx u) = some true →
    ∃ t, exec (.unitSave u) s = .next t ∧ (∃ v ∈ t.saved, ImageOf v u (s.ctx u)) ∧ t.ctx u = Sparse.get (fun _ => ({} : Ctx)) s.former u) ∧
  (∀ u s, kindOf u = .ctl → (s.ctx u).live = true → (s.ctx u).draining = true → (s.ctx u).flights = [] → ShadowIdle s u →
    (s.core (coreOf u)).leashHolder ≠ some (u % 128) → pPhase s ((s.ctx u).part.getD 0) ≠ 3 →
    ∃ t, exec (.taskDrain u) s = .next t ∧ (t.ctx u).live = false ∧ ∃ v ∈ t.saved, ImageOf v u (s.ctx u) ∧
      ((s.ctx u).flash = none → ∀ o, o < (s.ctx u).csize →
        Sparse.get byte0 v.canvas o = Sparse.get byte0 (s.core (coreOf u)).canvas ((s.ctx u).cbase + o)))

/-- R291, R348, R361, R374, R383, R411: a saved unit returns whole where it is admitted: a host thread to an idle core, a task to a context
with the bytes of its Canvas, a block that has no cohort to a SIMT core with every pack of it and its shared memory, each unit with the
registers and the PC of its image and the partition's translation, and no image left. A task keeps its owner tag on the core it left; on
another it takes a free one, and owns no slot of the former core. Images are kept as data (log 14, DESIGN CHOICE); the base of a Canvas is
the Shepherd's choice (log 38). -/
def Claims.SavedUnitsReturn : Prop :=
  (∀ id s v b blk s1 core, (s.saved.drop id).head? = some v → mayPlace s v.part = true → v.blockId = some b →
    let s0 := settleSwitch s v.part
    s0.block b = some blk → blk.resident = false → blk.cohort = none → gangReturns s0 v.part blk.gang = some s1 → savedPacks s1 b ≠ [] →
    coreAmong s1 (fun c => simtFits s1 v.part c (savedPacks s1 b).length blk.vregs blk.narrow blk.sharedSize) (diesByTemp s1 (codeDies 1) 2) =
      some core →
    ∃ t blk', exec (.unitRestore id) s = .next t ∧ t.block b = some blk' ∧ blk'.resident = true ∧ blk'.core = core ∧ blk'.shared = blk.shared ∧
      ∀ w ∈ savedPacks s1 b, w ∉ t.saved ∧ ∃ u, coreOf u = core ∧ ReturnedAs s1 w (t.ctx u) ∧ (t.ctx u).index = w.ctx.index) ∧
  ∀ id s v, (s.saved.drop id).head? = some v → mayPlace s v.part = true → v.blockId = none →
    (∀ c, v.host = true → coreOn s 0 (fun c => hostFits s v.part c) = some c → c < 64 →
      ∃ t, exec (.unitRestore id) s = .next t ∧ v ∉ t.saved ∧
        ReturnedAs s v (t.ctx (unitId c 0))) ∧
    (∀ core j base, v.host = false → tagOf v.ctx = 0xFF → (∀ f ∈ v.ctx.flights, f.halted = false) →
      savedCore s v = some core →
      256 ≤ core → core < 384 → ctxOwned s v.part (core - 256) = some j → canvasBase s core v.ctx.csize = some base →
      ∃ t, exec (.unitRestore id) s = .next t ∧ v ∉ t.saved ∧
        ReturnedAs s v (t.ctx (unitId core j)) ∧ (t.ctx (unitId core j)).cbase = base ∧
        ((v.canvas.map (·.1)).Nodup → ∀ o, o < v.ctx.csize →
          Sparse.get byte0 (t.core core).canvas (base + o) = Sparse.get byte0 v.canvas o)) ∧
    (∀ core j base, v.host = false → tagOf v.ctx ≠ 0xFF → (∀ f ∈ v.ctx.flights, f.halted = false) → savedCore s v = some core →
      256 ≤ core → core < 384 → ctxOwned s v.part (core - 256) = some j → canvasBase s core v.ctx.csize = some base →
      (∀ w ∈ s.saved, w.unit = v.unit → tagOf w.ctx = tagOf v.ctx → w = v) →
      ∃ t, exec (.unitRestore id) s = .next t ∧ (∀ w ∈ t.saved, w.unit = v.unit → tagOf w.ctx ≠ tagOf v.ctx) ∧
        let x := t.ctx (unitId core j)
        ReturnedAs s v x ∧ x.cbase = base ∧
        (∃ g ∈ (t.core core).tagctx, g.tag = (tagOf x).toNat ∧ g.ctx = some j) ∧
        (coreOf v.unit = core → x.accsave = v.ctx.accsave) ∧
        (coreOf v.unit ≠ core → saveBase x.accsave = saveBase v.ctx.accsave ∧ (∀ g ∈ (s.core core).tagctx, g.tag ≠ (tagOf x).toNat) ∧
          ∀ slot, (t.core (coreOf v.unit)).slotOwner slot ≠ tagOf v.ctx))

/-- R346, R347, R348, R349, R366, R376 to R378: a tick comes TICK after the last; at it a resident gang whose partition oversubscribes is
asked to leave, every unit of it, and the switch begins. A missed deadline abandons the switch, which is counted. The watchdog and PCTL.RST
reset the partition. What is the Shepherd's to choose at a tick is log 31 (DEDUCED and DESIGN CHOICE); that a tick and a deadline bring the
cycle count to their moment is log 42 (DEDUCED). -/
def Obligations.TicksDeadlinesAndResets : Prop :=
  (∀ s, ∃ t, exec .shepherdTick s = .next t ∧ t.lastTick = max s.cycles (s.lastTick + 2000 * hubF s 0xB80 0 16)) ∧
  (∀ s p g s1, p < 16 → NoOtherSwitch s p → settleSwitch (tickUntil s p) p = s1 → (s1.part p).resident = some g → mayPlace s1 p = true →
    pPhase s1 p = 0 → (s1.part p).switchAt = none → oversubscribes s1 p g = true →
    ∃ t, exec .shepherdTick s = .next t ∧ (t.part p).switchAt = some s1.cycles ∧
      ∀ u, (s1.ctx u).live = true → inGang s1 p g (s1.ctx u) = true → (t.ctx u).preempt.isSome = true) ∧
  (∀ s p s1 g c, settleSwitch s p = s1 → (s1.part p).switchAt = some c → (s1.part p).resident = some g → (s1.part p).misses + 1 < 3 →
    ∃ t, exec (.saveDeadlineMiss p) s = .next t ∧ (t.part p).switchAt = none ∧ (t.part p).misses = (s1.part p).misses + 1 ∧
      max s1.cycles (c + 2000 * hubF s1 0xB80 16 16) ≤ t.cycles ∧ t.cycles ≤ max s1.cycles (c + 2000 * hubF s1 0xB80 16 16) + 1 ∧
      ∀ u, inGang s1 p g (s1.ctx u) = true → (t.ctx u).preempt = none ∧ (t.ctx u).draining = false) ∧
  (∀ s p c, p < 16 → s.rehang = none → pQuiesce s p = false → leastBy id (watchdogTimes s p) = some c →
    ∃ t, exec (.watchdog p) s = .next t ∧ PartitionStopped t p 2) ∧
  (∀ s p, p < 16 → s.rehang = none → pQuiesce s p = false → ∃ t, exec (.pctlRst p) s = .next t ∧ PartitionStopped t p 5)

/-! ### The hub: vocabulary -/

namespace Sys2Proof.Machine

/-- R82, R161: what the hub reads of an entry of `size` bytes, its lines gathered first where they lie in a live range. -/
def opened (s : State) (size entry : Nat) : State := gatherSpan s entry (if size = 128 then 2 else 1)

/-- R82: the command that stands at a ring's HEAD, in a ring of entries of `size` bytes: its operation is `op`. -/
def CommandAt (s : State) (ring size entry op : Nat) : Prop :=
  ringHeadAt s ring size entry = true ∧ fieldNat (entryWord (opened s size entry) entry 0) 0 8 = op

/-- R82: the hub has taken the entry: HEAD stands one further than in `s`. -/
def Taken (s t : State) (ring : Nat) : Prop := ringHead t ring = (ringHead s ring + 1) % 2 ^ 32

/-- R82, R90: STATUS of an entry, its byte 2, is written after what the command did in `s`; in the pool the write is metered. -/
def withStatus (s : State) (entry status : Nat) : State :=
  (homeWrite (dirDrop (poolMeter s entry) (lineOf entry)) (entry + 2) [BitVec.ofNat 8 status] none).1

/-- R34, R82: memory of `t` is that of `s` with STATUS written, and with the completion event's record, which names the entry, in the
operating system's ring where that ring takes one now. -/
def MemoryAnswered (s t : State) (entry status : Nat) : Prop :=
  let a := withStatus s entry status
  (ringReady a 16 = false ∨ Sparse.get (fun _ => []) a.evbuf 16 ≠ [] → t.mem = a.mem) ∧
  (ringReady a 16 = true → Sparse.get (fun _ => []) a.evbuf 16 = [] →
    ∃ time, t.mem = (hubWrite (eventCycle a 0) (ringEntry a (ringBase 16) 32 (ringTail a (ringBase 16)))
      [BitVec.ofNat 64 s.seq, time, 1, BitVec.ofNat 64 entry]).mem)

/-- The command is executed: it ends in `t`, which has taken the entry and answered it with `status`, after its own work left `s1`. -/
def Completes (i : Instr) (s s1 : State) (ring entry status : Nat) (p : State → Prop) : Prop :=
  ∃ t, exec i s = .next t ∧ Taken s1 t ring ∧ MemoryAnswered s1 t entry status ∧ p t

/-- R38: what OP 1 writes at OUT: the report, its signature and zeros. -/
def reportBytes (s : State) (entry : Nat) : List Byte :=
  let b := reportBody s (entryWord s entry 0) (entryNonce s entry)
  let sig := Config.attestationSignature (measDigest s) b
  b ++ bigBytes (field sig 384 384) 48 ++ bigBytes (field sig 0 384) 48 ++ zeros 96

/-- R36, R38: what OP 2 writes at OUT: the public key, the digest it is bound to, the signature of the identity key and zeros. -/
def keyBytes (s : State) : List Byte :=
  let key := Config.attestationKey (measDigest s)
  let b := bigBytes (field key 384 384) 48 ++ bigBytes (field key 0 384) 48 ++ bigBytes (measDigest s) 48
  let sig := Config.identitySignature b
  b ++ bigBytes (field sig 384 384) 48 ++ bigBytes (field sig 0 384) 48 ++ zeros 784

/-- R36, R38: what OP 3 writes at OUT: the length of the certificate and its bytes. -/
def certificateBytes : List Byte :=
  let c := Config.identityCertificate.take 4096
  toBytes (BitVec.ofNat 32 c.length) 4 ++ c

/-- R93: what PUBLISH leaves before it answers: no copy of the versioned region `r`, here or at a peer, its contents exchanged with those of
the staging region `g`, its version `v`. -/
def published (s : State) (r g : Nat) (v : Word) : State :=
  let s := backInvalidate s r
  s.setMem { s.mem with
    bytes := swapKeys (2 ^ 50 + r * 0x200000) (2 ^ 50 + g * 0x200000) 0x200000 s.mem.bytes
    poison := swapKeys ((2 ^ 50 + r * 0x200000) / 64) ((2 ^ 50 + g * 0x200000) / 64) 0x8000 s.mem.poison
    pool := { s.mem.pool with versioned := s.mem.pool.versioned.map fun x => if x.1 = r then (r, v) else x } }

/-- R15: a register keeps the bits that a write does not reach and takes the others. -/
def MergedInto (s t : State) (off : Nat) (v mask : Word) : Prop :=
  t.hubR off = (s.hubR off &&& ~~~ mask) ||| (v &&& mask) ∧ (∀ o, o ≠ off → t.hubR o = s.hubR o) ∧ { t with hub := s.hub } = s

/-- R24: registers of the hub block whose write only replaces writable bits, with their masks. -/
def plainHubRegs : List (Nat × Word) :=
  [(0x8, 0x3F), (0x708, 0x000FFFFFF0000000), (0x788, 0xFFFFFFFF00FFFFFF)]

/-- A line that a hub event reaches at home, in an enabled near or LPDDR set and no live range, with no forwarding and no access counting,
while no slice holds a partial. -/
def PlainHome (s : State) (pa : Nat) : Prop :=
  (setOf s pa).isSome ∧ s.mem.fwd = [] ∧ liveRange s pa = none ∧ hubF s 0x700 0 1 = 0 ∧ isRemote pa = false ∧ s.mem.partials = []

/-- No L1, no slice and no memory-side cache holds a copy of a line that `f` names. -/
def NoCopies (t : State) (f : Nat → Bool) : Prop :=
  (∀ x ∈ t.mem.l1, f x.line = false) ∧ (∀ x ∈ t.mem.ncf, f x.line = false) ∧ (∀ x ∈ t.mem.dir, f x.line = false) ∧
  (∀ x ∈ t.mem.rem, f x.line = false) ∧ (∀ l ∈ t.mem.msc, f l = false) ∧ ∀ x ∈ t.mem.partials, f x.line = false

/-- R28, R162: the lines that home records as Modified or Owned by site `n`, and those of its partials, are poisoned in `t`. -/
def PoisonedOf (s t : State) (n : Nat) : Prop :=
  (∀ h ∈ s.mem.dir, h.agent = n + 1 → h.st = .m ∨ h.st = .o → ∀ k, homeKey s (64 * h.line) = some k → memPoison t.mem k = true) ∧
  ∀ x ∈ s.mem.partials, x.agent = n + 1 → ∀ k, homeKey s (64 * x.line) = some k → memPoison t.mem k = true

/-- A chiplet's own caches and TLBs hold nothing, and home records it nowhere. -/
def NothingHeld (t : State) (n : Nat) : Prop :=
  (∀ x ∈ t.mem.l1, siteOfCore x.core ≠ n) ∧ (∀ x ∈ t.mem.code, siteOfCore x.core ≠ n) ∧
  (∀ x ∈ t.mem.tlb, x.core < 384 → siteOfCore x.core ≠ n) ∧ (∀ x ∈ t.mem.ncf, x.site ≠ n) ∧ (∀ x ∈ t.mem.rem, x.site ≠ n) ∧
  (∀ x ∈ t.mem.dir, x.agent ≠ n + 1) ∧ ∀ x ∈ t.mem.partials, x.agent ≠ n + 1

/-- R161: home combines one element of `nb` bytes of the range `r` for a request: `s` becomes the state that follows the read and the write.
-/
def CombinedAtHome (s t : State) (r : Range) (pa nb : Nat) (v : Word) : Prop :=
  ∃ s1 bs, homeRead s pa nb = (s1, .ok bs) ∧
    t = (homeWrite s1 pa (toBytes (BitVec.ofNat 64 (combineR r.fmt r.op (ofBytesNat bs) (v.toNat % 2 ^ (8 * nb)))) nb) none).1

/-- R78: set `k` of a kind names a channel, ends inside its window, and shares no channel and no address with another enabled set. -/
def SetStands (s : State) (lp : Bool) (k : Nat) : Prop :=
  (∃ c, c ∈ setChannels s lp k) ∧ setBase s lp k + setLen s lp k ≤ (if lp then 2 ^ 41 else 2 ^ 40) ∧
  ∀ j, j < 16 → j ≠ k → setEnabled s lp j = true →
    (∀ c ∈ setChannels s lp k, c ∉ setChannels s lp j) ∧
    ∀ a, setBase s lp k ≤ a → a < setBase s lp k + setLen s lp k → ¬ (setBase s lp j ≤ a ∧ a < setBase s lp j + setLen s lp j)

/-- R78: every enabled set, near and LPDDR, stands so. -/
def SetsApart (s : State) : Prop := ∀ lp k, k < 16 → setEnabled s lp k = true → SetStands s lp k

/-- Nothing waits for an acknowledgement of a peer (R212, R214). -/
def NoReleases (s : State) : Prop := s.launches = [] ∧ s.depWait = []

end Sys2Proof.Machine

/-! ### Command rings -/

/-- R36 to R38, R82, R87, R88, R92, R93, R115 to R117: a command at the head of its ring runs, its entry is taken, and memory afterwards is
what the command's work left, with its STATUS and the completion event. An attestation command writes its report or certificate at OUT (or
answers BADADDR); COPY AND FORWARD copies a page and adds its pair, RELEASE flushes the slices and ends it; QUERY and PUBLISH answer a
version, which PUBLISH raises with the regions exchanged; a zero-filled frame reads zero, and a deposit appends it. What an entry names that
its rule turns away gets the rule's STATUS, and nothing but that is written. Keys, signatures and certificates are the model's opaque
constants (log 12); a page copied in one step, BADADDR for an address off its alignment, and BADCMD by whichever row of the ring runs are
log 41 (DEDUCED); that a COPY AND FORWARD with several failing checks answers BADADDR before BUSY and BUSY before RANGE, and a PUBLISH with a
bad STAGING answers BADREGION whatever its VERSION, is the model's choice (log 50, DESIGN CHOICE). -/
def Obligations.RingCommandsComplete : Prop :=
  (∀ entry s,
    let g := opened s 128 entry
    let out := (entryWord g entry 1).toNat
    (CommandAt s 0x6A40 128 entry 1 →
      (outOk g out = false → Completes (.attestationReport entry) s g 0x6A40 entry 2 fun _ => True) ∧
      (outOk g out = true → Completes (.attestationReport entry) s (writeLines g out (reportBytes g entry) 80) 0x6A40 entry 1 fun _ => True)) ∧
    (CommandAt s 0x6A40 128 entry 2 →
      (outOk g out = false → Completes (.attestationKeyCertificate entry) s g 0x6A40 entry 2 fun _ => True) ∧
      (outOk g out = true → Completes (.attestationKeyCertificate entry) s (writeLines g out (keyBytes g) 80) 0x6A40 entry 1 fun _ => True)) ∧
    (CommandAt s 0x6A40 128 entry 3 →
      (outOk g out = false → Completes (.deviceIdentityCertificate entry) s g 0x6A40 entry 2 fun _ => True) ∧
      (outOk g out = true →
        Completes (.deviceIdentityCertificate entry) s (writeLines g out certificateBytes 80) 0x6A40 entry 1 fun _ => True)) ∧
    (∀ op, CommandAt s 0x6A40 128 entry op → op = 0 ∨ 3 < op →
      ∀ i ∈ [Instr.attestationReport entry, .attestationKeyCertificate entry, .deviceIdentityCertificate entry],
        Completes i s g 0x6A40 entry 6 fun _ => True)) ∧
  (∀ s w0 nonce, nonce.length = 48 →
    (reportBody s w0 nonce).length = 832 ∧ (reportBody s w0 nonce).take 6 = [0x36, 0x41, 0x54, 0x52, 1, 0] ∧
    ((reportBody s w0 nonce).drop 8).take 48 = nonce) ∧
  (∀ entry s op, op ≠ 1 → op ≠ 2 →
    ∀ x ∈ [(Instr.copyAndForward entry, 0x740), (.release entry, 0x740), (.publish entry, 0x7A0), (.query entry, 0x7A0), (.zeroFill entry, 0x820),
      (.zeroFillAndDeposit entry, 0x820)],
      CommandAt s x.2 32 entry op → Completes x.1 s (opened s 32 entry) x.2 entry 6 fun _ => True) ∧
  (∀ entry s, CommandAt s 0x740 32 entry 1 →
    let g := opened s 32 entry
    let size := if bitAt (entryWord g entry 0) 8 then 0x200000 else 0x10000
    let src := (entryWord g entry 1).toNat
    let dst := (entryWord g entry 2).toNat
    (∀ st, copyRefused g src dst size = some st → Completes (.copyAndForward entry) s g 0x740 entry st fun _ => True) ∧
    (∀ s1 poisoned, copyRefused g src dst size = none → copyLines src dst (size / 64) (g, false) = (s1, poisoned) →
      Completes (.copyAndForward entry) s (s1.setMem { s1.mem with fwd := ⟨src, dst, size, size / 64⟩ :: s1.mem.fwd }) 0x740 entry
        (if poisoned then 4 else 1) fun t => t.mem.fwd = ⟨src, dst, size, size / 64⟩ :: s1.mem.fwd)) ∧
  (∀ entry s, CommandAt s 0x740 32 entry 2 →
    let g := opened s 32 entry
    let same (f : Pair) : Bool := f.src == (entryWord g entry 1).toNat && f.dst == (entryWord g entry 2).toNat
    (g.mem.fwd.find? same = none → Completes (.release entry) s g 0x740 entry 2 fun _ => True) ∧
    (∀ f, g.mem.fwd.find? same = some f →
      let s1 := flushL2 g f.src f.size
      Completes (.release entry) s (s1.setMem { s1.mem with fwd := s1.mem.fwd.filter fun x => x != f }) 0x740 entry 1 fun t => f ∉ t.mem.fwd)) ∧
  (∀ entry s,
    let g := opened s 32 entry
    let target := (regionAt (entryWord g entry 1).toNat).bind fun r => g.mem.pool.versioned.find? fun x => x.1 == r
    (∀ x ∈ [(Instr.query entry, 2), (.publish entry, 1)], CommandAt s 0x7A0 32 entry x.2 →
      (hubF g 0x780 0 1 = 0 ∨ hubF g 0x780 2 1 = 1 → Completes x.1 s g 0x7A0 entry 7 fun _ => True) ∧
      (hubF g 0x780 0 1 ≠ 0 → hubF g 0x780 2 1 ≠ 1 → target = none → Completes x.1 s g 0x7A0 entry 3 fun _ => True)) ∧
    (∀ r v, hubF g 0x780 0 1 ≠ 0 → hubF g 0x780 2 1 ≠ 1 → target = some (r, v) →
      (CommandAt s 0x7A0 32 entry 2 → Completes (.query entry) s (hubWrite g (entry + 24) [v]) 0x7A0 entry 1 fun _ => True) ∧
      (CommandAt s 0x7A0 32 entry 1 →
        let stage := regionAt (entryWord g entry 2).toNat
        (stage = none → Completes (.publish entry) s g 0x7A0 entry 3 fun _ => True) ∧
        (∀ k, stage = some k →
          (k ∉ g.mem.pool.staging → Completes (.publish entry) s g 0x7A0 entry 3 fun _ => True) ∧
          (k ∈ g.mem.pool.staging → entryWord g entry 3 ≠ v →
            Completes (.publish entry) s (hubWrite g (entry + 24) [v]) 0x7A0 entry 2 fun _ => True) ∧
          (k ∈ g.mem.pool.staging → entryWord g entry 3 = v →
            Completes (.publish entry) s (hubWrite (published g r k (v + 1)) (entry + 24) [v + 1]) 0x7A0 entry 1 fun t =>
              ∀ x ∈ t.mem.pool.versioned, x.1 = r → x.2 = v + 1))))) ∧
  (∀ (m : Sparse Byte) a b n k, Sparse.wf byte0 m = true → a + n ≤ b ∨ b + n ≤ a →
    Sparse.get byte0 (swapKeys a b n m) k =
      if a ≤ k ∧ k < a + n then Sparse.get byte0 m (k - a + b) else if b ≤ k ∧ k < b + n then Sparse.get byte0 m (k - b + a)
      else Sparse.get byte0 m k) ∧
  (∀ entry s,
    let g := opened s 32 entry
    let frame := (entryWord g entry 1).toNat
    (∀ x ∈ [(Instr.zeroFill entry, 1), (.zeroFillAndDeposit entry, 2)], CommandAt s 0x820 32 entry x.2 →
      (frameSize (entryWord g entry 0) = none → Completes x.1 s g 0x820 entry 6 fun _ => True) ∧
      (∀ size, frameSize (entryWord g entry 0) = some size →
        (frame % size ≠ 0 ∨ rangeInSets g frame size = false ∨ clearOfPairs g frame size = false →
          Completes x.1 s g 0x820 entry 2 fun _ => True) ∧
        (frame % size = 0 → rangeInSets g frame size = true → clearOfPairs g frame size = true → meetsRange g frame size = true →
          Completes x.1 s g 0x820 entry 3 fun _ => True))) ∧
    (∀ size, frameSize (entryWord g entry 0) = some size → frame % size = 0 → rangeInSets g frame size = true →
      clearOfPairs g frame size = true → meetsRange g frame size = false →
      let z := zeroFrame g frame size
      (∀ a, frame ≤ a → a < frame + size → physByte z a = 0) ∧
      (CommandAt s 0x820 32 entry 1 → Completes (.zeroFill entry) s z 0x820 entry 1 fun _ => True) ∧
      (∀ s2 st, CommandAt s 0x820 32 entry 2 → deposit z (entryWord z entry 2).toNat frame = (s2, st) →
        Completes (.zeroFillAndDeposit entry) s s2 0x820 entry st fun _ => True)))

/-! ### Registers -/

/-- R15, R19, R24, R34, R78, R84, R85, R89, R107, R108, R148, R381, R387: a write that the hub does not accept changes nothing; an accepted
one changes the writable bits of its register and gives the register's own effect: a ring's BASE is taken while the ring is empty, MIGCTL.EN
is set where the counter store lies wholly in an enabled near set and there alone, POOLCTL.PORT keeps its value while EN is 1, LEASECTL
keeps the former LMAX for its own length, L2SET of a partition that is not enabled takes no slice of another and none reserved to join one.
That the end of PEND brings the cycle count to its moment is log 42 (DEDUCED). -/
def Obligations.RegisterWritesTakeEffect : Prop :=
  ∀ (v : Word) (w : Writer) s,
    (writerAccepted w = false →
      (∀ pa, exec (.registerWrite pa v w) s = .next s) ∧ exec (.migctlEn v w) s = .next s ∧ exec (.poolEn v w) s = .next s ∧
      exec (.lmaxWrite v w) s = .next s) ∧
    (writerAccepted w = true →
      (∀ p ∈ plainHubRegs, ∃ t, exec (.registerWrite (Config.hubBase + p.1) v w) s = .next t ∧ MergedInto s t p.1 v p.2) ∧
      (∀ ring, ring ≤ 16 → ringEmpty s (ringBase ring) = true →
        ∃ t, exec (.evringBaseWrite ring v w) s = .next t ∧ ringAddr t (ringBase ring) = fieldNat v 12 40 * 4096 ∧
          hubF t (ringBase ring + 8) 32 16 = 0 ∧ { t with hub := s.hub } = s) ∧
      (∀ ring, ring ≤ 16 → ringEmpty s (ringBase ring) = false → exec (.evringBaseWrite ring v w) s = .next s) ∧
      (∃ t, exec (.migctlEn v w) s = .next t ∧ { t with hub := s.hub } = s ∧ (∀ o, o ≠ 0x700 → t.hubR o = s.hubR o) ∧
        hubF t 0x700 1 1 = fieldNat v 1 1 ∧ hubF t 0x700 8 8 = fieldNat v 8 8 ∧ hubF t 0x700 16 4 = fieldNat v 16 4 ∧
        hubF t 0x700 32 16 = fieldNat v 32 16 ∧ hubF t 0x700 24 8 = hubF s 0x700 24 8 ∧
        (bitAt v 0 = false → hubF t 0x700 0 1 = 0) ∧
        (bitAt v 0 = true → hubF s 0x700 0 1 = 1 → hubF t 0x700 0 1 = 1) ∧
        (let base := hubF s 0x708 28 24 * 2 ^ 28
         bitAt v 0 = true → hubF s 0x700 0 1 = 0 →
          ((∀ k, setOf s base = some (false, k) → setBase s false k + setLen s false k < base + 2 ^ 28) → hubF t 0x700 0 1 = 0) ∧
          ∀ k, setOf s base = some (false, k) → base + 2 ^ 28 ≤ setBase s false k + setLen s false k → hubF t 0x700 0 1 = 1)) ∧
      (∃ t, exec (.poolEn v w) s = .next t ∧ { t with hub := s.hub } = s ∧ (∀ o, o ≠ 0x780 → t.hubR o = s.hubR o) ∧
        hubF t 0x780 3 61 = hubF s 0x780 3 61 ∧
        (hubF s 0x780 0 1 = 0 → hubF t 0x780 1 1 = fieldNat v 1 1) ∧ (hubF s 0x780 0 1 = 1 → hubF t 0x780 1 1 = hubF s 0x780 1 1) ∧
        (bitAt v 0 = true → hubF t 0x780 0 1 = 1 ∧ hubF t 0x780 2 1 = 0) ∧
        (bitAt v 0 = false → hubF t 0x780 0 1 = 0 ∧ hubF t 0x780 2 1 = hubF s 0x780 2 1)) ∧
      (1000 ≤ fieldNat v 0 32 → fieldNat v 0 32 ≤ 1000000 → s.mem.pendEnd ≤ s.hubTime →
        ∃ t, exec (.lmaxWrite v w) s = .next t ∧ hubF t 0x800 0 32 = fieldNat v 0 32 ∧ t.mem.oldLmax = hubF s 0x800 0 32 ∧
          t.mem.pendEnd = s.hubTime + hubF s 0x800 0 32) ∧
      (∀ site p, 1 ≤ site → site ≤ 6 → p < 16 → siteState s site = 3 → 0x100000 + 8 * p < windowSize s site →
        (pEnabled s p = false → reservedSlices s site p &&& v = 0 → (∀ q, q < 16 → q ≠ p → s.winR site (0x100000 + 8 * q) &&& v = 0) →
          ∃ t, exec (.l2setWrite site p v w) s = .next t ∧ t.winR site (0x100000 + 8 * p) = v) ∧
        (pEnabled s p = true ∨ reservedSlices s site p &&& v ≠ 0 ∨ (∃ q, q < 16 ∧ q ≠ p ∧ s.winR site (0x100000 + 8 * q) &&& v ≠ 0) →
          exec (.l2setWrite site p v w) s = .next s))) ∧
    (s.hubTime < s.mem.pendEnd → exec .lmaxPendEnd s = .next { s with cycles := 2 * s.mem.pendEnd }) ∧
    (∀ ring r, Sparse.get (fun _ => []) s.evbuf ring = [r] → ringReady s ring = true →
      ∃ t, exec (.eventRingDrain ring) s = .next t ∧ Sparse.get (fun _ => []) t.evbuf ring = [] ∧
        ringTail t (ringBase ring) = (ringTail s (ringBase ring) + 1) % 2 ^ 32)

/-- R77, R78, R81: an interleave set is enabled where it names channels, ends inside its window and meets no other enabled set's channels or
addresses, and only there; a refused write sets the error bit instead and leaves the set disabled; an enabled set's only change is to be
disabled; no two addresses of a set are stored in one place. That every enabled set stands so holds at reset, and the writes that enable and
disable a set keep it. -/
def Obligations.InterleaveSetsAreExclusive : Prop :=
  SetsApart State.reset ∧
  (∀ lp k v w s t, SetsApart s →
    exec (.interleaveSetEnable lp k v w) s = .next t ∨ exec (.interleaveSetDisable lp k v w) s = .next t → SetsApart t) ∧
  ∀ (lp : Bool) k (v : Word) (w : Writer) s, k < 16 →
    (writerAccepted w = false → exec (.interleaveSetEnable lp k v w) s = .next s ∧ exec (.interleaveSetDisable lp k v w) s = .next s) ∧
    (writerAccepted w = true →
      (setEnabled s lp k = true →
        exec (.interleaveSetEnable lp k v w) s = .next s ∧
        ∃ t, exec (.interleaveSetDisable lp k v w) s = .next t ∧ setEnabled t lp k = false ∧ (∀ o, o ≠ setCtl lp k → t.hubR o = s.hubR o) ∧
          { t with hub := s.hub } = s) ∧
      (setEnabled s lp k = false →
        let s1 := setHubF s (setCtl lp k) 30 10 (fieldNat v 30 10)
        (setRefused s1 lp k = false →
          ∃ t, exec (.interleaveSetEnable lp k v w) s = .next t ∧ setEnabled t lp k = true ∧ setBase t lp k = setBase s1 lp k) ∧
        (setRefused s1 lp k = true →
          ∃ t, exec (.interleaveSetEnable lp k v w) s = .next t ∧ setEnabled t lp k = false ∧ hubF t 0x7C0 48 1 = 1) ∧
        ∃ t, exec (.interleaveSetDisable lp k v w) s = .next t ∧ setEnabled t lp k = false ∧ setBase t lp k = setBase s1 lp k)) ∧
    (setRefused s lp k = false → SetStands s lp k) ∧
    ((∀ j, j < 16 → setEnabled s lp j = true → ∃ c, c ∈ setChannels s lp j) → SetStands s lp k → setRefused s lp k = false) ∧
    (∀ a b, setBase s lp k ≤ a → a < setBase s lp k + setLen s lp k → setBase s lp k ≤ b → b < setBase s lp k + setLen s lp k →
      setKey s lp k a = setKey s lp k b → a = b)

/-! ### Sites -/

/-- R20, R21, R26 to R30, R35: each event takes a site from the state it needs to the state that follows, and a site in any other state
stays as it is; a refused table, image or offer of features sets its error bit; an accepted table is kept; the lines that a lost site owned
are poisoned, and it answers no request; a reset chiplet keeps no context and no cached line, and a frozen FEATACC word is not
written. That a boot which has stopped refuses every site's ENUM, where a late site's block of identifiers stands, and which dirty lines
a drain that times out had written, is log 43 (DESIGN CHOICE). The poisoning is stated where no slice holds a line dirty in all its bytes,
since such a line, written home, clears a poison. -/
def Obligations.SitesMoveAsTheirEventsSay : Prop :=
  (∀ n s, n < 8 →
    (siteState s n = 6 → ∃ t, exec (.chipletResetComplete n) s = .next t ∧ siteState t n = 1) ∧
    (siteState s n = 3 ∨ siteState s n = 4 → ∃ t, exec (.siteLinkFailure n) s = .next t ∧ siteState t n = 5 ∧
      (∀ x ∈ t.mem.ncf, x.site ≠ n) ∧ (∀ x ∈ t.mem.dir, x.agent ≠ n + 1) ∧ (ringReady s 16 = false → t.mem.bytes = s.mem.bytes) ∧
      ((∀ x ∈ s.mem.ncf, x.dirty ≠ BitVec.allOnes 64) → PoisonedOf s t n)) ∧
    (siteState s n = 4 →
      (∃ t, exec (.siteDrainComplete n) s = .next t ∧ siteState t n = 5 ∧ (∀ x ∈ t.mem.ncf, x.site ≠ n) ∧ ∀ x ∈ t.mem.dir, x.agent ≠ n + 1) ∧
      ∃ t, exec (.siteDrainTimeout n) s = .next t ∧ siteState t n = 5 ∧ hubF t (siteCtl n) 11 1 = 1 ∧ (∀ x ∈ t.mem.ncf, x.site ≠ n) ∧
        (∀ x ∈ t.mem.dir, x.agent ≠ n + 1) ∧
        ∀ c s1, (s.site n).drainStart = some c →
          s1 = partOwned (partDrain { s with cycles := max s.cycles (c + 2000000) } (dirtyNcf s n)) (dirtyOwned s n) →
          (∀ x ∈ s1.mem.ncf, x.dirty ≠ BitVec.allOnes 64) → PoisonedOf s1 t n) ∧
    (siteState s n = 1 ∨ siteState s n = 2 → ∃ t, exec (.siteIso n) s = .next t ∧ siteState t n = 5) ∧
    (∀ s1, siteState s n = 3 → s1 = moveSite (s.setSite n { s.site n with drainStart := some s.cycles }) n 4 →
      (∀ p, p < 16 → residentOn s1 p n = false ∧ rehangOn s1 p n = false) →
      ∃ t, exec (.siteIso n) s = .next t ∧ siteState t n = 4 ∧ (t.site n).drainStart = some s.cycles) ∧
    (siteState s n = 5 → ∃ t, exec (.siteRst n) s = .next t ∧ siteState t n = 6 ∧ NothingHeld t n ∧ ∀ u, siteOfCore (coreOf u) = n → coreOf u < 384 →
      (t.ctx u).live = false) ∧
    (siteState s n = 2 → bootStopped s = false →
      ∃ t, exec (.siteEnum n) s = .next t ∧ siteState t n = 3 ∧ (t.site n).granted = true ∧
        ((s.site n).granted = false → hubF s (siteCtl n) 3 2 ≤ 2 → classAccepted n (hubF s (siteCtl n) 3 2) = true →
          bitAt (s.site n).table (96 + hubF s (siteCtl n) 3 2) = true → cohClass t n = hubF s (siteCtl n) 3 2)) ∧
    (∀ table sigOk digest loaderOk, siteState s n = 1 →
      (tableOk n table = false → ∃ t, exec (.linkTrained n table sigOk digest loaderOk) s = .next t ∧ siteState t n = 5 ∧
        hubF t (siteCtl n) 8 1 = 1) ∧
      (tableOk n table = true → sigOk = false ∨ digest ≠ tableMeas table →
        ∃ t, exec (.linkTrained n table sigOk digest loaderOk) s = .next t ∧ siteState t n = 5 ∧ hubF t (siteCtl n) 9 1 = 1) ∧
      (tableOk n table = true → sigOk = true → digest = tableMeas table →
        (featFrozen s (classOfSite n) = true → (∃ j, j < 8 ∧ s.hubR (0x200 + 64 * classOfSite n + 8 * j) &&& ~~~ (tableFeat table j) ≠ 0) →
          ∃ t, exec (.linkTrained n table sigOk digest loaderOk) s = .next t ∧ siteState t n = 5 ∧ hubF t (siteCtl n) 10 1 = 1) ∧
        (featFrozen s (classOfSite n) = false ∨ (∀ j, j < 8 → s.hubR (0x200 + 64 * classOfSite n + 8 * j) &&& ~~~ (tableFeat table j) = 0) →
          ∃ t, exec (.linkTrained n table sigOk digest loaderOk) s = .next t ∧ siteState t n = 2 ∧ (t.site n).table = table))) ∧
    (siteState s n ≠ 3 → siteState s n ≠ 4 → exec (.siteLinkFailure n) s = .next s) ∧
    (siteState s n ≠ 4 → exec (.siteDrainComplete n) s = .next s ∧ exec (.siteDrainTimeout n) s = .next s) ∧
    (siteState s n ≠ 1 → siteState s n ≠ 2 → siteState s n ≠ 3 → exec (.siteIso n) s = .next s) ∧
    (siteState s n ≠ 2 ∨ bootStopped s = true → exec (.siteEnum n) s = .next s) ∧
    (siteState s n ≠ 1 → ∀ table sigOk digest loaderOk, exec (.linkTrained n table sigOk digest loaderOk) s = .next s) ∧
    (siteState s n ≠ 6 → exec (.chipletResetComplete n) s = .next s) ∧
    (siteState s n ≠ 5 → exec (.siteRst n) s = .next s) ∧
    (siteState s n ≠ 3 → ∀ a k, a < 2 ^ 40 → devRead s (slotBase + n * 2 ^ 40 + a) k = .error cFABRIC)) ∧
  (∀ fwMeas policy s, siteState s 0 = 0 → bootStopped s = false →
    ∃ t, exec (.packageResetRelease true fwMeas policy) s = .next t ∧ t.fwMeas = fwMeas ∧ ∀ n, n < 8 → siteState t n = 1) ∧
  (∀ cls j (v : Word) s, cls < 4 → j < 8 →
    (featFrozen s cls = true → exec (.featAccWrite cls j v) s = .next s) ∧
    (featFrozen s cls = false → ∃ t, exec (.featAccWrite cls j v) s = .next t ∧ t.hubR (0x200 + 64 * cls + 8 * j) = v ∧
      { t with hub := s.hub } = s))

/-! ### Home, the slices, the pool and the peers -/

/-- R76, R79, R84, R94, R104, R109, R150, R152, R161, R164, R166, R167: what reaches home: a read records its holder or its peer and stores
nothing, one of a lost line is counted and held nowhere; a write stores its bytes, but one to a versioned or lost line leaves no holder; a
write-back leaves no dirty byte, an eviction no copy; a peer's reduction combines its value in a range of its partition, and is told to the
other sharers; a client host's does so at the address its partition's tables give; an uncorrectable line is poisoned, and a scrub that the
memory-side cache answers changes nothing; the counters halve; a bucket gains RATE up to BURST. A peer is agent 256 + d and a client host
agent 8 (log 13, DESIGN CHOICE); which mode a client's permissions are judged in is a free choice (log 41); what an uncorrectable line
poisons and counts, and for which access a page is renewed, is log 41 (DEDUCED). -/
def Obligations.EventsReachHome : Prop :=
  (∀ agent slice pa s, PlainHome s pa →
    ∃ t, exec (.homeReadMiss agent slice pa .clean) s = .next t ∧ t.mem.bytes = s.mem.bytes ∧ t.mem.desc = s.mem.desc ∧
      t.mem.poison = s.mem.poison ∧
      (isHolder agent slice = true → cohClass s (agent - 1) ≠ 2 →
        ∃ h ∈ t.mem.dir, h.agent = agent ∧ h.slice = slice ∧ h.line = lineOf pa) ∧
      (∀ d, d < 64 → agent = 256 + d → (sharersOf t pa).getLsbD d = true)) ∧
  (∀ agent slice pa ecc s, poolLost s pa = true → (homeKey s pa).isSome → isRemote pa = false →
    ∃ t, exec (.homeReadMiss agent slice pa ecc) s = .next t ∧ hubF t 0x790 32 32 = min (hubF s 0x790 32 32 + 1) 0xFFFFFFFF ∧
      t.mem.dir = s.mem.dir ∧ t.mem.msc = s.mem.msc ∧ t.mem.sharers = s.mem.sharers) ∧
  (∀ agent slice pa data ecc s, versionedAt s pa = true ∨ poolLost s pa = true → (homeKey s pa).isSome → liveRange s pa = none →
    ∃ t, exec (.homeWrite agent slice pa data ecc) s = .next t ∧ (∀ h ∈ t.mem.dir, h ∈ s.mem.dir) ∧ t.mem.msc = s.mem.msc ∧
      t.mem.bytes = s.mem.bytes) ∧
  (∀ agent slice pa data s, PlainHome s pa → 1 ≤ data.length → pa % 64 + data.length ≤ 64 →
    (∀ k, homeKey s pa = some k → memPoison s.mem k = false) →
    ∃ t, exec (.homeWrite agent slice pa data .clean) s = .next t ∧ (∀ i, i < data.length → physByte t (pa + i) = data.getD i 0) ∧
      (isHolder agent slice = true → cohClass s (agent - 1) = 0 →
        ∃ h ∈ t.mem.dir, h.agent = agent ∧ h.slice = slice ∧ h.line = lineOf pa ∧ h.st = .m)) ∧
  (∀ site pa s, ∃ t, exec (.ncfWriteBack site pa) s = .next t ∧
    ∀ x ∈ t.mem.ncf, x.site = site → x.line = lineOf pa → x.dirty = 0 ∧ x.descDirty = false) ∧
  (∀ agent slice pa s, 1 ≤ agent → agent ≤ 8 → ∃ t, exec (.sliceEviction agent slice pa) s = .next t ∧
    (cohClass s (agent - 1) = 2 → ∀ x ∈ t.mem.ncf, ¬ (x.site + 1 = agent ∧ x.slice = slice ∧ x.line = lineOf pa)) ∧
    (∀ x ∈ t.mem.rem, ¬ (x.site + 1 = agent ∧ x.slice = slice ∧ x.line = lineOf pa)) ∧
    (∀ x ∈ t.mem.dir, ¬ (x.agent = agent ∧ x.slice = slice ∧ x.line = lineOf pa)) ∧
    ∀ x ∈ t.mem.partials, ¬ (x.agent = agent ∧ x.slice = slice ∧ x.line = lineOf pa)) ∧
  (∀ dev part pa nb (v : Word) s,
    (64 ≤ dev ∨ rangeOf s part pa = none → exec (.remoteReduction (.peer dev part pa) nb v) s = .next s) ∧
    (∀ r, dev < 64 → rangeOf s part pa = some r →
      (∀ t, nb = rfmtBytes r.fmt → pa % nb = 0 → sharersOf s pa ≠ BitVec.ofNat 64 (2 ^ dev) → CombinedAtHome s t r pa nb v →
        exec (.remoteReduction (.peer dev part pa) nb v) s = .next t) ∧
      (∀ t, nb = rfmtBytes r.fmt → pa % nb = 0 → sharersOf s pa = BitVec.ofNat 64 (2 ^ dev) → CombinedAtHome (setSharers s pa 0) t r pa nb v →
        exec (.remoteReduction (.peer dev part pa) nb v) s = .next (setSharers t pa (sharersOf s pa))) ∧
      (∀ a t, nb = 4 → rfmtBytes r.fmt = 2 → pa % 4 = 0 → sharersOf s pa ≠ BitVec.ofNat 64 (2 ^ dev) → CombinedAtHome s a r pa 2 v →
        CombinedAtHome a t r (pa + 2) 2 (v >>> 16) → exec (.remoteReduction (.peer dev part pa) nb v) s = .next t) ∧
      (pa % nb ≠ 0 ∨ (nb ≠ rfmtBytes r.fmt ∧ ¬ (nb = 4 ∧ rfmtBytes r.fmt = 2)) →
        exec (.remoteReduction (.peer dev part pa) nb v) s = .next s))) ∧
  (∀ part va nb (v : Word) s s1, part < 16 →
    (∀ c, translate s.takeFree (clientTrans s part) .atomic false va = (s1, .error c) →
      exec (.remoteReduction (.client part va) nb v) s = .next s1) ∧
    (∀ tr, translate s.takeFree (clientTrans s part) .atomic false va = (s1, .ok tr) →
      let g := countAccess s1 8 tr.pa
      (homeRefuses g (some part) tr.pa = true → exec (.remoteReduction (.client part va) nb v) s = .next g) ∧
      (homeRefuses g (some part) tr.pa = false →
        (rangeOf g (some part) tr.pa = none → exec (.remoteReduction (.client part va) nb v) s = .next g) ∧
        ∀ r t, rangeOf g (some part) tr.pa = some r → nb = rfmtBytes r.fmt → tr.pa % nb = 0 → CombinedAtHome g t r tr.pa nb v →
          exec (.remoteReduction (.client part va) nb v) s = .next t))) ∧
  (∀ pa s k, PlainHome s pa → homeKey s (64 * lineOf pa) = some k →
    exec (.scrubPatrol pa .clean) s = .next s ∧
    (memPoison s.mem k = false → lineOf pa ∉ s.mem.msc → (∀ h ∈ s.mem.dir, h.line = lineOf pa → h.st = .e ∨ h.st = .s) →
      ∃ t, exec (.scrubPatrol pa .uncorrectable) s = .next t ∧ memPoison t.mem k = true ∧
        hubF t 0x7C0 32 16 = min (hubF s 0x7C0 32 16 + 1) 0xFFFF ∧ t.mem.bytes = s.mem.bytes)) ∧
  (∀ pa ecc s, liveRange s pa = none → mscLine s pa ∈ s.mem.msc → exec (.scrubPatrol pa ecc) s = .next s) ∧
  (∀ s k base, hubF s 0x700 0 1 = 1 → counterStore s = some (k, base) → Sparse.wf byte0 s.mem.bytes = true →
    ∃ t, exec .counterEpoch s = .next t ∧ ∀ key, Sparse.get byte0 t.mem.bytes key =
      if keyInSet s false k key = true ∧ base ≤ setAddr s false k key ∧ setAddr s false k key < base + 2 ^ 28 then
        BitVec.ofNat 8 ((Sparse.get byte0 s.mem.bytes key).toNat / 2)
      else Sparse.get byte0 s.mem.bytes key) ∧
  (∀ part va data s s1 tr s2, part < 16 → data ≠ [] → va.toNat % 64 + data.length ≤ 64 →
    translate s.takeFree (clientTrans s part) .write false va = (s1, .ok tr) →
    let g := countAccess s1 8 tr.pa
    (isDevice tr.pa = true ∨ homeRefuses g (some part) tr.pa = true → exec (.clientHostRequest part (.write va data)) s = .next g) ∧
    (isDevice tr.pa = false → homeRefuses g (some part) tr.pa = false → homeWrite (dirDrop g (lineOf tr.pa)) tr.pa data none = (s2, none) →
      ∃ t, exec (.clientHostRequest part (.write va data)) s = .next t ∧ t.mem.bytes = s2.mem.bytes)) ∧
  (∀ core s h x, Config.simtBase ≤ core → s.mem.tlb.filter (renewable s core) = [h] →
    (s.ctxs.find? fun x =>
      x.2.live && coreOf x.1 == core && x.2.vmid == h.vmid && (h.glob || x.2.ctxid == h.ctxid) && h.stage2 != ttbEn x.2.ttb1) = some x →
    ∃ k, exec (.streamTlbRenewal core) s = .next (renewEntry s.takeFree (unitTrans s.takeFree x.1 x.2.mode) k h)) ∧
  (∀ core s, core < Config.simtBase → exec (.streamTlbRenewal core) s = .next s) ∧
  (∀ site slice s, 1 ≤ site → slice < slicesOf site → (Sparse.get (fun _ => ({} : Port)) (s.die site).ports slice).waiting = [] →
    ∃ t, exec (.l2BucketPeriod site slice) s = .next t ∧
      ∀ p, p < 16 → s.winR site (0x100000 + 8 * p) ≠ 0 →
        Sparse.get (fun _ => 0) (Sparse.get (fun _ => ({} : Port)) (t.die site).ports slice).bucket p =
          min (Sparse.get (fun _ => 0) (Sparse.get (fun _ => ({} : Port)) (s.die site).ports slice).bucket p +
            fieldNat (s.winR site (0x100100 + 8 * p)) 0 16) (fieldNat (s.winR site (0x100100 + 8 * p)) 16 16))

/-- R74, R89 to R95, R163 to R165: the pool's load level reaches the register and the Retriever and lapses; its bucket is refilled; lost
lines lose every copy and read as lost until they are restored; a lost pool is disabled and its lines are cached nowhere; a published
region's version rises. A peer is admitted, lost with its copies and its outstanding invalidations, and an acknowledgement ends one
invalidation. That a pool whose metadata is lost is untrained and that a lost line leaves the L1s too is log 41 (DEDUCED); that a timed
event brings the cycle count to its moment is log 42 (DEDUCED); what outside agents leave in memory is free (log 13, DESIGN CHOICE). -/
def Obligations.PoolAndPeersAreKept : Prop :=
  (∀ core (level : BitVec 4) s, ∃ t, exec (.poolLoadLevel core level) s = .next t ∧ hubF t 0x780 16 4 = level.toNat ∧
    (t.core core).poolLevel = level.toNat ∧ (t.core core).poolLevelAt = s.cycles ∧
    (level = 15 → (t.core core).poolHold = s.cycles + hubF s 0x788 8 16) ∧ t.mem = s.mem ∧ t.ctxs = s.ctxs) ∧
  (∀ core s, (∃ t, exec (.poolLevelTimeout core) s = .next t ∧ (t.core core).poolLevel = 0 ∧ t.mem = s.mem) ∧
    ∃ t, exec (.poolHoldEnd core) s = .next t ∧ (t.core core).poolHold = 0 ∧ t.cycles = max s.cycles (s.core core).poolHold ∧ t.mem = s.mem) ∧
  (∀ s, s.mem.pool.waiting = 0 →
    ∃ t, exec .poolTokenBucketRefill s = .next t ∧
      t.mem.pool.bucket = min (s.mem.pool.bucket + (s.cycles - s.mem.pool.refilled) / 2 * hubF s 0x788 32 16) (hubF s 0x788 48 16 * 1024)) ∧
  (∀ base len s,
    (∃ t, exec (.poolLineLoss base len) s = .next t ∧ NoCopies t (lineIn (poolBase + base) len) ∧
      ∀ a, base ≤ a → a < base + len → poolBase + a < 2 * poolBase → poolLost t (poolBase + a) = true) ∧
    ∃ t, exec (.poolRangeRestore base len) s = .next t ∧
      (∀ a, base ≤ a → a < base + len → poolLost t (poolBase + a) = false) ∧
      ∀ a, ¬ (base ≤ a ∧ a < base + len) → poolLost t (poolBase + a) = poolLost s (poolBase + a)) ∧
  (∀ s, ∃ t, exec .poolMetadataLoss s = .next t ∧ hubF t 0x780 0 1 = 0 ∧ hubF t 0x780 2 1 = 1 ∧ t.mem.pool.trained = false ∧
    NoCopies t fun l => isPool (64 * l)) ∧
  (∀ n s, ∃ t, exec (.poolPortTrained n) s = .next t ∧ t.mem.pool.trained = true ∧ hubF t 0x780 8 8 = min n 48 ∧ t.ctxs = s.ctxs) ∧
  (∀ region s, ∃ t, exec (.backInvalidation region) s = .next t ∧
    (∀ v, (region, v) ∈ s.mem.pool.versioned → (region, v + 1) ∈ t.mem.pool.versioned) ∧
    (∀ x ∈ t.mem.ncf, lineIn (poolBase + region * 0x200000) 0x200000 x.line = false) ∧
    (∀ l ∈ t.mem.msc, lineIn (poolBase + region * 0x200000) 0x200000 l = false) ∧
    ∀ x ∈ t.mem.dir, lineIn (poolBase + region * 0x200000) 0x200000 x.line = false) ∧
  (∀ dev s,
    (dev < 64 → dev ≠ hubF s 8 0 6 → ∃ t, exec (.peerAdmit dev) s = .next t ∧ dev ∈ t.mem.peers ∧ ∀ d ∈ s.mem.peers, d ∈ t.mem.peers) ∧
    (dev = hubF s 8 0 6 → exec (.peerAdmit dev) s = .next s) ∧
    (NoReleases s → dev < 64 →
      (∃ t, exec (.peerLinkFailure dev) s = .next t ∧ dev ∉ t.mem.peers ∧ (∀ x ∈ t.mem.invals, x.1 ≠ dev) ∧ NoCopies t (lineOfPeer dev)) ∧
      (∀ x, (s.mem.invals.find? fun x => x.1 == dev) = some x →
        ∃ t, exec (.regionInvalidationTimeout dev) s = .next t ∧ dev ∉ t.mem.peers ∧ t.cycles = max s.cycles (x.2.2 + 2000000) ∧
          ∀ y ∈ t.mem.invals, y.1 ≠ dev)) ∧
    (∀ region, dev < 64 → region < 2 ^ 30 →
      ∃ t, exec (.regionInvalidation dev region) s = .next t ∧ NoCopies t (lineIn (remoteBase + dev * 2 ^ 44 + region * 2048) 2048)) ∧
    (∀ region x, NoReleases s → (s.mem.invals.find? fun x => x.1 == dev && x.2.1 == region) = some x →
      ∃ t, exec (.regionInvalidationAck dev region) s = .next t ∧ t.mem.invals = s.mem.invals.erase x ∧ { t with mem := s.mem } = s))

/-! ### Tokens, selection and operating points -/

/-- R323 to R325, R329 to R331, R355: the hub stop of a die's ring returns what the arriving flit holds of the current period and loads it
afresh; a core stop moves tokens between its flit and its core and creates none; a period's grants stay within the allowance or the floors
of hungry dies; a boost window ends; a core whose WANT stands unmet becomes hungry. That a boost window may open at a refill and is computed
first, and that COREHUNGRY brings the cycle count to its moment, is log 42 (DEDUCED). -/
def Claims.TokensAreGranted : Prop :=
  (∀ site s, 1 ≤ site → site ≤ 6 →
    let d := s.die site
    let last := (flitsOf s site).getLast?.getD (0, 0)
    let r := d.reserve + (if last.2 = d.period then last.1 else 0)
    ∃ t rest, exec (.ringHubCycle site) s = .next t ∧ (t.die site).flits = (min 2047 r, d.period) :: rest ∧
      (t.die site).reserve = r - min 2047 r ∧ (t.die site).period = d.period ∧ ∀ n, n ≠ site → t.die n = s.die n) ∧
  (∀ s n c flit, let x := coreStop s n c flit
    (x.1.core c).tokens + x.2.1.1 = (s.core c).tokens + flit.1 ∧ x.2.1.2 = flit.2 ∧ ∀ k, k ≠ c → x.1.core k = s.core k) ∧
  (∀ s, ∃ t, exec .refillPeriod s = .next t ∧
    (∀ n, 1 ≤ n → n ≤ 6 → (t.die n).used = 0 ∧ (t.die n).period = (s.die n).period + 1 ∧ (t.die n).flits = (s.die n).flits ∧
      hubF t (0xA40 + 8 * n) 32 32 = (t.die n).reserve % 2 ^ 32) ∧
    (ringDies.map fun n => (t.die n).reserve).sum ≤
      max (((if t.boostOpen.isSome then hubF s 0xA00 32 16 else hubF s 0xA00 0 16) - hubF s 0xA00 16 16) * 1000000 / 256)
        ((ringDies.map fun n => if dieHungry s n then 1536 * (coresOfSite n).2 else 0).sum) ∧
    t.cores = s.cores ∧ t.ctxs = s.ctxs ∧ t.mem = s.mem) ∧
  (∀ s, (s.boostOpen = none → exec .boostWindowEnd s = .next s) ∧
    (s.boostOpen ≠ none → exec .boostWindowEnd s = .next { s with boostOpen := none, boostLast := some s.cycles })) ∧
  (∀ core since s, 64 ≤ core → (s.core core).wantSince = some since → (s.core core).hungry = false → (s.core core).served = false →
    (s.core core).want ≠ 0 →
    exec (.coreHungry core) s =
      .next { s.setCore core { s.core core with hungry := true } with cycles := max s.cycles (since + 2 * stopsOf (siteOfCore core)) })

/-- R327, R334, R335, R337, R339: a quarter names no pack but an eligible one, as the next turn of the script (log 3 and log 42), and in its
turn among the quarters the oldest eligible pack of the first tenant in credit after the one it chose last; when that pack's instruction
issues, its quarter is occupied and its tenant charged, and a pack that its quarter has not chosen takes no turn that issues; a word that no
lane executes, or that could not be fetched, issues nothing and charges nothing; a pack short of tokens reserves its core or queues by
its request; the throttle's limit halves, doubles or stays by its score. What of this R334 and R335 leave to reading is log 42 (DEDUCED). -/
def Claims.QuartersChoosePacks : Prop :=
  (∀ core quarter s, ∃ t, exec (.issueSelection core quarter) s = .next t ∧ t.ctxs = s.ctxs ∧ t.mem = s.mem ∧
    (t.script = s.script ∨ ∃ u n e, (u, n) ∈ eligiblePacks s core quarter e ∧ t.script = .run u :: s.script)) ∧
  (∀ core quarter e u n s, 64 ≤ core → core < 256 → quarter < 4 → e < 8 → quarterTurn s core quarter = true →
    (u, n) ∈ eligiblePacks s core quarter e → 0 < deficitOf (s.core core) quarter e →
    (∀ y ∈ eligiblePacks s core quarter e, (s.ctx u).age < (s.ctx y.1).age ∨ ((s.ctx u).age = (s.ctx y.1).age ∧ u ≤ y.1)) →
    (let after (f : Nat) : Nat := (f + 7 * Sparse.get (fun _ => 7) (s.core core).lastTenant quarter + 7) % 8
     ∀ f, f < 8 → after f < after e → eligiblePacks s core quarter f = [] ∨ deficitOf (s.core core) quarter f ≤ 0) →
    ∃ t, exec (.issueSelection core quarter) s = .next t ∧ t.script = .run u :: s.script ∧
      deficitOf (t.core core) quarter e = deficitOf (s.core core) quarter e) ∧
  (∀ u s s1 x t, mayIssue s u = true → yieldsNow s u = false → kindOf u = .pack → selected s u = true → pickFor s u = (s1, x) →
    turn (beginTurn s1 u) = .next t →
    (issues (beginTurn s1 u) t = false → runTurn s (.run u) = .next t) ∧
    (issues (beginTurn s1 u) t = true → x = none → runTurn s (.run u) = .fault .noSuchTurn) ∧
    (∀ y, issues (beginTurn s1 u) t = true → x = some y → ∃ t1, runTurn s (.run u) = .next t1 ∧ t1.mem = t.mem ∧ t1.script = t.script ∧
      (∀ v, v ≠ u → t1.ctx v = t.ctx v) ∧
      let q := (s.ctx u).quarter
      deficitOf (t1.core (coreOf u)) q y.tenant = deficitOf (t.core (coreOf u)) q y.tenant - y.cycles ∧
        Sparse.get (fun _ => 0) (t1.core (coreOf u)).quarterFree q = nextCycle (s.core (coreOf u)) q + y.cycles ∧
        (t1.core (coreOf u)).issueAt = (nextCycle (s.core (coreOf u)) q, q))) ∧
  (∀ b t, (∀ w, wordHere b = some w → field w 62 2 = 1 ∧ b.activeMask (lHead w).sm = 0) → issues b t = false) ∧
  (∀ u price since s, (s.ctx u).live = true → (s.ctx u).needs = some (price, since) → (s.core (coreOf u)).tokens < price →
    (s.core (coreOf u)).reserve ≠ some u → u ∉ (s.core (coreOf u)).reserveq →
    let k := s.core (coreOf u)
    ((s.core (coreOf u)).reserve = none →
      ∃ t, exec (.reservationRequest u) s = .next t ∧ (t.core (coreOf u)).reserve = some u ∧ (t.core (coreOf u)).want = price ∧
        t.ctxs = s.ctxs ∧ t.mem = s.mem) ∧
    (∀ v, k.reserve = some v →
      let first := s.cycles ≤ since + frontEnd s (coreOf u) 64 ∧ shortSince s v = since ∧ u < v
      (first → ∃ t, exec (.reservationRequest u) s = .next t ∧ (t.core (coreOf u)).reserve = some u ∧
        (t.core (coreOf u)).reserveq = v :: k.reserveq ∧ (t.core (coreOf u)).want = price) ∧
      (¬ first → ∃ t, exec (.reservationRequest u) s = .next t ∧ (t.core (coreOf u)).reserve = some v ∧ (t.core (coreOf u)).want = k.want ∧
        (t.core (coreOf u)).reserveq =
          k.reserveq.filter (fun w => asksBefore s w u) ++ u :: k.reserveq.filter fun w => !asksBefore s w u))) ∧
  (∀ core s, 64 ≤ core → core < 256 →
    let site := siteOfCore core
    let off := 0x100200 + 8 * (core - (coresOfSite site).1)
    let w := s.winR site off
    ∃ t, exec (.localityEpoch core) s = .next t ∧ fieldNat (t.winR site off) 0 16 = fieldNat w 0 16 / 2 ∧ t.mem = s.mem ∧ t.ctxs = s.ctxs ∧
      fieldNat (t.winR site off) 24 6 = (fieldNat w 24 6 + fieldNat w 16 7) % 64 ∧
      (bitAt w 48 = false → fieldNat (t.winR site off) 16 7 = 64) ∧
      (bitAt w 48 = true → fieldNat w 32 8 < fieldNat w 0 16 → fieldNat (t.winR site off) 16 7 = max (fieldNat w 16 7 / 2) 2) ∧
      (bitAt w 48 = true → fieldNat w 0 16 ≤ fieldNat w 32 8 → fieldNat w 0 16 < fieldNat w 40 8 →
        fieldNat (t.winR site off) 16 7 = min (2 * fieldNat w 16 7) 64) ∧
      (bitAt w 48 = true → fieldNat w 40 8 ≤ fieldNat w 0 16 → fieldNat w 0 16 ≤ fieldNat w 32 8 →
        fieldNat (t.winR site off) 16 7 = fieldNat w 16 7))

/-- R350 to R355: a legal request is kept and is in force or pending; the voltage moves by 5 mV, and the pending point takes effect when it
has settled; a sample shows the hottest sensor, and the die's throttle begins at the threshold and ends after it has stayed cool; wear rises
to its maximum and lowers the ceiling. The voltage table, the wear limit and the regulator's voltage are the model's opaque constants (log
15, DESIGN CHOICE); the host row of CEIL and what a transition of the throttle clears are log 42 (DEDUCED). -/
def Obligations.PointsAndTemperatureFollow : Prop :=
  (∀ core freq ratio s,
    (384 ≤ core → exec (.operatingPointRequest core freq ratio) s = .next s) ∧
    (64 ≤ core → core < 384 → 20 ≤ freq → freq ≤ 80 → ratio ≤ 2 →
      ∃ t, exec (.operatingPointRequest core freq ratio) s = .next t ∧ hubF t (corectl core) 8 8 = freq ∧ hubF t (corectl core) 0 2 = ratio ∧
        ((t.core core).pending = none ∨ hubF t (corectl core) 40 1 = 1) ∧ ∀ o, o ≠ corectl core → t.hubR o = s.hubR o) ∧
    (core < 64 → 40 ≤ freq → freq ≤ 120 →
      ∃ t, exec (.operatingPointRequest core freq ratio) s = .next t ∧ hubF t (corectl core) 8 8 = freq ∧
        ∀ o, o ≠ corectl core → t.hubR o = s.hubR o)) ∧
  (∀ core f r s, core < 384 → (s.core core).pending = some (f, r) →
    let target := pointVolt core f r
    let v := voltNow s core
    ∃ t, exec (.voltageStep core) s = .next t ∧ voltNow t core = (if v < target then min target (v + 5) else max target (v - 5)) ∧
      (voltNow t core = target → (t.core core).pending = none ∧ (t.core core).ratio = r ∧ hubF t (corectl core) 32 8 = f % 256 ∧
        hubF t (corectl core) 40 1 = 0) ∧
      (voltNow t core ≠ target → (t.core core).pending = some (f, r) ∧ t.hub = s.hub)) ∧
  (∀ site temp sensors s, 1 ≤ site → site ≤ 6 →
    let x := min 255 (sensors.foldl max temp)
    let off := 0xA80 + 8 * site
    ∃ t, exec (.thermalSample site temp sensors) s = .next t ∧ hubF t off 8 8 = x ∧ hubF t off 0 8 = hubF s off 0 8 ∧
      (hubF s off 16 1 = 0 → hubF s off 0 8 ≤ x → (s.die site).lastTransition = none →
        hubF t off 16 1 = 1 ∧ ∀ c ∈ coresAt site, hubF t (corectl c) 41 1 = 1) ∧
      (hubF s off 16 1 = 0 → x < hubF s off 0 8 → hubF t off 16 1 = 0 ∧ hubF t (0xA40 + 8 * site) 16 1 = 0) ∧
      (∀ since last, hubF s off 16 1 = 1 → x + 3 ≤ hubF s off 0 8 → (s.die site).coolSince = some since →
        since + msCycles 2 ≤ s.cycles → (s.die site).lastTransition = some last → last + msCycles 4 ≤ s.cycles →
        hubF t off 16 1 = 0 ∧ ∀ c ∈ coresAt site, hubF t (corectl c) 41 1 = 0)) ∧
  (∀ domain mv temp s, domain < 384 →
    ∃ t, exec (.wearUpdate domain mv temp) s = .next t ∧
      t.hubR (0x2000 + 8 * domain) =
        BitVec.ofNat 64 (min ((s.hubR (0x2000 + 8 * domain)).toNat + wearStep (voltNow s domain) temp) Config.wearMax.toNat) ∧
      hubF t (corectl domain) 48 8 = ceilOf t domain) ∧
  (∀ mv temp, 1 ≤ wearStep mv temp)

/-! ### Partitions -/

/-- R381, R383, R396, R397: only hypervisor mode and firmware write ownership and a partition's state; an ownership register keeps every
field of an enabled partition; EN is cleared only while the partition is idle; PAUSE asks every unit to leave, PAUSED stands when all have
left, and clearing PAUSE settles guest time. That RESUME clears requests for pre-emption still pending is log 29 (DEDUCED). -/
def Claims.PartitionsAreKept : Prop :=
  (∀ off (v : Word) w s, (0x2C10 ≤ off ∧ off < 0x2C70) ∨ (0x3000 ≤ off ∧ off < 0x4000) → off % 8 = 0 →
    let new := v &&& ownershipMask off
    (writerHyper w = false → exec (.ownershipWrite off v w) s = .next s) ∧
    (∀ f ∈ ownerFields off, fieldNat (s.hubR off) f.1 f.2 ≠ fieldNat new f.1 f.2 →
      (namesEnabled s (fieldNat (s.hubR off) f.1 f.2) = true ∨ namesEnabled s (fieldNat new f.1 f.2) = true) →
      exec (.ownershipWrite off v w) s = .next s) ∧
    (writerHyper w = true → ownershipRefused s off new = false →
      ∃ t, exec (.ownershipWrite off v w) s = .next t ∧ t.hubR off = new ∧ (∀ o, o ≠ off → t.hubR o = s.hubR o) ∧ { t with hub := s.hub } = s)) ∧
  (∀ p (v : Word) w s, p < 16 →
    (writerHyper w = false → exec (.pstateEnWrite p v w) s = .next s ∧ exec (.pstateGuestWrite p v w) s = .next s) ∧
    (writerHyper w = true →
      (bitAt v 0 = false → pEnabled s p = true → (partQueued s p = true ∨ partBusy s p = true ∨ pPhase s p ≠ 0) →
        exec (.pstateEnWrite p v w) s = .next s) ∧
      ((bitAt v 0 = true ∨ pEnabled s p = false ∨ (partQueued s p = false ∧ partBusy s p = false ∧ pPhase s p = 0)) →
        ∃ t, exec (.pstateEnWrite p v w) s = .next t ∧ MergedInto s t (pBase p) v 1) ∧
      (bitAt v 1 = false ∨ ttbEn (s.hubR (pBase p + 0x18)) = true →
        ∃ t, exec (.pstateGuestWrite p v w) s = .next t ∧ MergedInto s t (pBase p) v 2) ∧
      (bitAt v 1 = true → ttbEn (s.hubR (pBase p + 0x18)) = false →
        ∃ t, exec (.pstateGuestWrite p v w) s = .next t ∧ MergedInto s t (pBase p) v 0))) ∧
  (∀ p s, p < 16 →
    (pPause s p = false → ∃ t, exec (.pause p) s = .next t ∧ pPause t p = true ∧ t.mem = s.mem ∧
      (pPhase s p = 0 → ∀ x ∈ s.ctxs, workOf p x.2 = true → kindOf x.1 ≠ .shadow → (t.ctx x.1).preempt ≠ none)) ∧
    (pPause s p = true → pPaused s p = false → pPhase s p = 0 → (∀ x ∈ s.ctxs, workOf p x.2 = false) →
      ∃ t, exec (.pauseComplete p) s = .next t ∧ pPaused t p = true ∧ { t with hub := s.hub } = s ∧
        t.hubR (fBase p + 0x30) = BitVec.ofNat 64 s.hubTime + s.hubR (fBase p + 0x28) ∧ t.hubR (fBase p + 0x38) = BitVec.allOnes 64) ∧
    ((∃ x ∈ s.ctxs, workOf p x.2 = true) → exec (.pauseComplete p) s = .next s) ∧
    (pPause s p = true → ∃ t, exec (.resume p) s = .next t ∧ pPause t p = false ∧ pPaused t p = false ∧ t.mem = s.mem ∧
      (∀ x ∈ t.ctxs, workOf p x.2 = true → x.2.preempt = none) ∧
      t.hubR (fBase p + 0x28) =
        if pPaused s p = true ∧ s.hubR (fBase p + 0x38) ≠ BitVec.allOnes 64 then
          s.hubR (fBase p + 0x30) + s.hubR (fBase p + 0x38) - BitVec.ofNat 64 s.hubTime
        else s.hubR (fBase p + 0x28)))

/-- R385 to R391: a PROPOSE that fails a check completes at once and starts nothing; one that passes them enters DRAIN with its plan; then
MIGRATE asks the units that must leave, REHASH takes the planned slices and walks the former ones, and COMMIT ends the command. -/
def Claims.RehangRunsItsPhases : Prop :=
  (∀ entry s, s.rehang = none → ringHeadAt s 0x840 32 entry = true →
    let g := gatherSpan (opened s 32 entry) (entryWord (opened s 32 entry) entry 1).toNat 4
    (∀ st, proposeCheck g entry = .error st → Completes (.rehang entry) s g 0x840 entry st fun t => t.rehang = none) ∧
    (∀ plan, proposeCheck g entry = .ok plan → ∃ t r, exec (.rehang entry) s = .next t ∧ t.rehang = some r ∧ r.plan = plan ∧
      r.part = fieldNat (entryWord g entry 0) 8 4 ∧ r.walked = false ∧ pPhase t r.part = 2)) ∧
  (∀ r s, s.rehang = some r → r.part < 16 →
    (pPhase s r.part = 2 → (s.lastTick ≠ r.ticks ∨ migrating s r = []) →
      ∃ t, exec .migrate s = .next t ∧ pPhase t r.part = 3 ∧ t.rehang = some { r with asked := t.hubTime } ∧
        ∀ u ∈ migrating s r, (t.ctx u).preempt ≠ none) ∧
    (pPhase s r.part = 3 → stillAsked s r = false →
      ∃ t, exec .rehash s = .next t ∧ pPhase t r.part = 4 ∧ t.rehang = some r ∧
        ∀ site, 1 ≤ site → site ≤ 6 → t.winR site (0x100000 + 8 * r.part) = planSlices r.plan site) ∧
    (pPhase s r.part = 3 → stillAsked s r = true → exec .rehash s = .next s) ∧
    (pPhase s r.part = 4 → r.walked = false →
      ∃ t, exec .rehash s = .next t ∧ t.rehang = some { r with walked := true } ∧
        ∀ site, 1 ≤ site → site ≤ 6 → t.winR site (0x100080 + 8 * r.part) = 0) ∧
    (pPhase s r.part = 4 → r.walked = true →
      ∃ t, exec .commit s = .next t ∧ t.rehang = none ∧ pPhase t r.part = 0 ∧ Taken s t 0x840) ∧
    (pPhase s r.part ≠ 4 → exec .commit s = .next s))
/-! ### Words that are no instruction, fetches and late faults -/

/-- R55, R56, R362, R363: a word that encodes nothing raises ILLEGAL, with subcause 4 where this kind of context executes nothing of its
class or opcode and 0 elsewhere (which of two failing checks is reported is log 33, DEDUCED); a word of the lane class records the active
lanes, in a pack and elsewhere, and under a mask of no lanes a pack issues nothing and goes on. -/
def Claims.WordsThatEncodeNothing : Prop :=
  ∀ (w : Word) s,
    let c : Cause := (cILLEGAL, if wordKindOk (kindOf s.cur) w then 0 else 4)
    let sm := (lHead w).sm
    (field w 62 2 ≠ 1 → Faults (.unassignedOpcode w) s c 0) ∧
    (field w 62 2 = 1 →
      (kindOf s.cur = .pack → s.activeMask sm = 0 → GoesTo (.unassignedOpcode w) s (s.me.pc + 8)) ∧
      (kindOf s.cur ≠ .pack ∨ s.activeMask sm ≠ 0 →
        let ls := (s.activeLanes sm).map fun l => (⟨l, c, 0⟩ : LaneFault)
        let f : Trap :=
          { cause := c, kind := 0, lanes := s.activeMask sm, perLane := ls, maskreg := sm.toNat, frm := s.me.mode, word := s.word }
        entryGoes s s.cur (enteredMode s.me.mode c) f = true →
          ∃ t, exec (.unassignedOpcode w) s = .next t ∧ Entered s t (enteredMode s.me.mode c) c 0 false 0 (s.activeMask sm) s.me.pc))

/-- R40, R217, R222, R362: a fetch that fails raises its cause at the word's address, with no word in the record, late where POISON or
FABRIC answers it (log 35, DEDUCED); an error that answers a scalar access after its checks is late: EPC is the instruction for a load and
the next one for a store; where no access stands at the PC, or one of another kind or address (log 35), or for another cause, nothing
is answered. -/
def Claims.FetchesAndAccessesFault : Prop :=
  (∀ (cause sub : BitVec 8) (addr : Word) s,
    let late : Bool := cause == cFABRIC || cause == cPOISON
    entryGoes { s with word := 0 } s.cur (enteredMode s.me.mode (cause, sub)) { faultOf { s with word := 0 } (cause, sub) addr with late := late }
        = true →
      ∃ t, exec (.instructionFetchFault cause sub addr) s = .next t ∧
        Entered { s with word := 0 } t (enteredMode s.me.mode (cause, sub)) (cause, sub) addr late 0 (lanesOf s) s.me.pc) ∧
  (∀ (cause : BitVec 8) (addr lanes : Word) (isWrite : Bool) s,
    (cause ≠ cPOISON → cause ≠ cFABRIC → exec (.lateFault cause addr lanes isWrite) s = .next s) ∧
    (accessHere s = none → exec (.lateFault cause addr lanes isWrite) s = .next s) ∧
    (∀ r i, accessHere s = some (r, i) →
      (accessOf r i = none ∨ lanes = 0 ∨
        (∃ x, accessOf r i = some x ∧ (x.1 ≠ isWrite ∨ ∃ l < 64, bitAt lanes l = true ∧ (∀ k < l, bitAt lanes k = false) ∧ x.2 l ≠ addr))) →
      exec (.lateFault cause addr lanes isWrite) s = .next s) ∧
    (cause = cPOISON ∨ cause = cFABRIC → bitAt lanes 0 = true → ∀ r (sz : Sz) (sx : Bool) (sd sa sb : SReg) (k : BitVec 2) (imm : BitVec 32) s1 tr,
      let fault (a : Word) : Trap := { faultOf s1 (cause, 0) a with late := true }
      let mode := enteredMode s1.me.mode (cause, 0)
      (∀ f ∈ loadForms r sz sx sd sa sb k imm, accessHere s = some (r, f.1) → f.2.toNat % sz.bytes = 0 →
        checkVa r .read true f.2 = (s1, .ok tr) → entryGoes s1 s1.cur mode (fault f.2) = true →
        ∃ t, exec (.lateFault cause f.2 lanes false) s = .next t ∧ Entered s1 t mode (cause, 0) f.2 true 0 (lanesOf s1) s1.me.pc) ∧
      (∀ f ∈ storeForms r sz sd sa sb k imm, accessHere s = some (r, f.1) → f.2.toNat % sz.bytes = 0 →
        checkVa r .write true f.2 = (s1, .ok tr) → entryGoes s1 s1.cur mode { fault f.2 with after := true } = true →
        ∃ t, exec (.lateFault cause f.2 lanes true) s = .next t ∧ Entered s1 t mode (cause, 0) f.2 true 0 (lanesOf s1) (s1.me.pc + 8))))

/-! ### Encodings -/

/-- R243: NOP is the word 0 and changes nothing but the PC; opcode 0x00 with any other bit set is no instruction; and the five worked
encodings stand for the instructions they are printed beside. -/
def Obligations.NopAndTheWorkedEncodings : Prop :=
  decodeWord 0 none = .ok .nop ∧
  (∀ s, GoesTo .nop s (s.me.pc + 8)) ∧
  (∀ w : Word, w ≠ 0 → field w 54 10 = 0 →
    (∀ v i, decodeWord w v ≠ .ok i) ∧ ∀ s, Faults (.unassignedOpcode w) s (cILLEGAL, 0) 0) ∧
  decodeWord 0x0091461C00000000 none = .ok (.sub true 5 6 7) ∧
  decodeWord 0x04A2090000000003 none = .ok (.sarImm false 8 9 3) ∧
  decodeWord 0x09E28B0000000308 none = .ok (.bfxuImm 10 11 8 12) ∧
  decodeWord 0x0800C41460000000 none = .ok (.madd false 3 4 5 6) ∧
  decodeWord 0x0AE1C001FFFF8000 none = .ok (.moviN32 7 0xFFFF8000)

/-- R39, R42 to R54: the words of every well-formed instruction that has words of its own decode to that instruction: no operand bit is
dropped. -/
def Obligations.EncodedInstructionsDecode : Prop :=
  ∀ i : Instr, i.wf = true →
    (∀ w, encode i = [w] → isLongFirst w = false ∧ ∀ v, decodeWord w v = .ok i) ∧
    (∀ w v, encode i = [w, v] → isLongFirst w = true ∧ decodeWord w (some v) = .ok i) ∧
    (∀ r, encodeRec i = some r → decodeRec r = .ok i ∧ encode i = recWords r)

/-- R39, R55: a word or record that decodes stands for one well-formed instruction whose encoding is that word: every reserved bit and
code is refused. -/
def Obligations.DecodedWordsEncode : Prop :=
  (∀ w v i, isLongFirst w = false → decodeWord w v = .ok i → i.wf = true ∧ encode i = [w]) ∧
  (∀ w v i, isLongFirst w = true → decodeWord w (some v) = .ok i → i.wf = true ∧ encode i = [w, v]) ∧
  (∀ r i, decodeRec r = .ok i → i.wf = true ∧ encodeRec i = some r)

/-- R42 to R51: words written out from the rulers of the encoding chapter decode to what they stand for: one of each class and form. -/
def Obligations.WordsDecodeAsTheirRulersSay : Prop :=
  decodeWord (0#2 ++ 0x01#8 ++ 0#1 ++ 1#1 ++ 3#6 ++ 1#6 ++ 2#6 ++ 0#34) none = .ok (.add true 3 1 2) ∧
  decodeWord (0#2 ++ 0x01#8 ++ 1#1 ++ 0#1 ++ 3#6 ++ 1#6 ++ (0xFFFFFFFFFF#40)) none = .ok (.addImm false 3 1 0xFFFFFFFFFF) ∧
  decodeWord (1#2 ++ 0x20#8 ++ 0#1 ++ 4#9 ++ 6#9 ++ 8#9 ++ 0#9 ++ 5#6 ++ 4#4 ++ 1#3 ++ 0#4) none = .ok (.fadd .f32 .rtz 5 4 6 8) ∧
  decodeWord (1#2 ++ 0x00#8 ++ 1#1 ++ 4#9 ++ 6#9 ++ 7#18 ++ 0#6 ++ 0#4 ++ 0#3 ++ 0#4) none = .ok (.iaddImm .i32 false 0 4 6 7) ∧
  decodeWord (2#2 ++ 0x00#8 ++ 2#4 ++ 9#6 ++ 0#6 ++ 0#33 ++ 5#5) none = .ok (.pushr .mq 5 9) ∧
  decodeWord (3#2 ++ 0#2 ++ 0#8 ++ 7#6 ++ 0#46) (some 0x123456789ABCDEF0) = .ok (.movi64 7 0x123456789ABCDEF0)

/-! ### Steps -/

namespace Sys2Proof.Machine

/-- What becomes of the outcome of a turn that began in `b`: a next state ends the turn (R321, R334), any other outcome stands. -/
def ended (b : State) (x : Option Pick) (o : Host.Outcome State Fault Refusal) : Host.Outcome State Fault Refusal :=
  match o with
  | .next t => (match endTurn b x t with
      | some t => .next t
      | none => .fault .noSuchTurn)
  | o => o

end Sys2Proof.Machine

/-- R39, R41, R314, R334: a unit that may issue and waits for nothing takes its turn: the word at its PC is fetched, with the word 8 bytes
on where it begins a long instruction, and `step` is `exec` of the instruction it decodes to (or of "no instruction", or of the fetch's
fault), in the state the fetch left, with `word` the first word; a user-mode unit of a launch at the end address ends (log 37, DEDUCED).
Around it stand, for a pack, the choice its quarter makes of it before, and after it its age and charge; for a context of a control core,
the end of a yield before it; for a host core nothing. An engine queue's turn is its head record's, a Shepherd queue's its candidate's.
Which unit takes a turn is the script's (log 3, DESIGN CHOICE). -/
def Obligations.StepsRunTheDecodedInstruction : Prop :=
  ∀ s : State,
    (s.script = [] → step s = runTurn s (.run s.cur)) ∧
    (∀ t r, s.script = t :: r → step s = runTurn { s with script := r } t) ∧
    (∀ i, runTurn s (.happen i) = exec i s) ∧
    (∀ n, runTurn s (.elapse n) = .next { s with cycles := s.cycles + n }) ∧
    (∀ u, mayIssue s u = true → yieldsNow s u = false → (s.ctx u).wait = .none →
      let x := (pickFor s u).2
      let b := beginTurn (pickFor s u).1 u
      b.cur = u ∧ b.cycles = s.cycles + 1 ∧ b.ctxs = s.ctxs ∧ b.mem = s.mem ∧
      (kindOf u ≠ .pack → (pickFor s u).1 = s ∧ ∀ t, ∃ t1, endTurn b x t = some t1 ∧ t1.ctxs = t.ctxs) ∧
      (kindOf u = .host → ∀ t, endTurn b x t = some t) ∧
      (∀ t t1, endTurn b x t = some t1 →
        { t1 with ctxs := t.ctxs, cores := t.cores } = t ∧ (∀ v, v ≠ u → t1.ctx v = t.ctx v) ∧ { t1.ctx u with age := (t.ctx u).age } = t.ctx u) ∧
      (standsAtEnd b = true → runTurn s (.run u) = ended b x (.next (atEnd b))) ∧
      (standsAtEnd b = false →
        (∀ s1 w, fetchWord b u b.me.mode b.me.pc = (s1, .ok w) →
          (isLongFirst w = false →
            (∀ i, decodeWord w none = .ok i → runTurn s (.run u) = ended b x (exec i { s1 with word := w })) ∧
            (∀ e, decodeWord w none = .error e → runTurn s (.run u) = ended b x (exec (.unassignedOpcode w) { s1 with word := w }))) ∧
          (isLongFirst w = true →
            (∀ s2 c, fetchWord { s1 with word := w } s1.cur s1.me.mode (s1.me.pc + 8) = (s2, .error c) →
              runTurn s (.run u) = ended b x (exec (.instructionFetchFault c.1 c.2 (s2.me.pc + 8)) s2)) ∧
            ∀ s2 v, fetchWord { s1 with word := w } s1.cur s1.me.mode (s1.me.pc + 8) = (s2, .ok v) →
              (∀ i, decodeWord w (some v) = .ok i → runTurn s (.run u) = ended b x (exec i s2)) ∧
              ∀ e, decodeWord w (some v) = .error e → runTurn s (.run u) = ended b x (exec (.unassignedOpcode w) s2))) ∧
        (∀ s1 c, fetchWord b u b.me.mode b.me.pc = (s1, .error c) →
          runTurn s (.run u) = ended b x (exec (.instructionFetchFault c.1 c.2 s1.me.pc) s1)))) ∧
    (∀ (e : EngineRef) h i, headRecord (s.ctx (unitId e.core e.ctx)) e.queue = some h → decodeRec h.bits = .ok i →
      runTurn s (.record e) = exec i { s with cur := unitId e.core e.ctx }) ∧
    (∀ q w i, candidate s q = some w → decodePacket q w.packet = .ok i → runTurn s (.packet q) = exec i s)

/-! ### Reset and memory -/

/-- R21, R24, R25, R81, R85, R89, R107, R166, R332, R340, R345, R347, R350, R352, R361, R383: what reset leaves: every site ABSENT, no unit
live (log 5, DESIGN CHOICE), nothing queued, and the registers at the values their rules give. -/
def Claims.ResetLeavesTheStatedValues : Prop :=
  State.reset.hubTime = 0 ∧ State.reset.ctxs = [] ∧ State.reset.queues = [] ∧ State.reset.launches = [] ∧ State.reset.seq = 1 ∧
  (∀ n, n < 8 → siteState State.reset n = 0) ∧
  (∀ u, (State.reset.ctx u).live = false) ∧
  (∀ lp k, k < 16 → setEnabled State.reset lp k = false) ∧
  State.reset.hubR 0 = 0x47460600 ∧ hubF State.reset 8 0 6 = 0 ∧
  (∀ cls j, cls < 4 → j < 8 → State.reset.hubR (0x200 + 64 * cls + 8 * j) = BitVec.ofInt 64 (-1)) ∧
  (hubF State.reset 0x700 0 2 = 0 ∧ hubF State.reset 0x700 8 8 = 0x40 ∧ hubF State.reset 0x700 16 4 = 0 ∧ hubF State.reset 0x700 24 8 = 64 ∧
    hubF State.reset 0x700 32 16 = 0) ∧
  (hubF State.reset 0x780 0 1 = 0 ∧ hubF State.reset 0x780 1 1 = 1 ∧ hubF State.reset 0x780 2 1 = 0 ∧ hubF State.reset 0x780 8 12 = 0) ∧
  (hubF State.reset 0x788 0 8 = 1 ∧ hubF State.reset 0x788 8 16 = 2048 ∧ hubF State.reset 0x788 32 16 = 0 ∧ hubF State.reset 0x788 48 16 = 64) ∧
  (∀ site c, 1 ≤ site → site ≤ 2 → c < 96 →
    let w := State.reset.winR site (0x100200 + 8 * c)
    fieldNat w 0 16 = 0 ∧ fieldNat w 16 7 = 64 ∧ fieldNat w 24 6 = 0 ∧ fieldNat w 32 8 = 64 ∧ fieldNat w 40 8 = 16 ∧ bitAt w 48 = true) ∧
  (∀ p, p < 16 → hubF State.reset (0xB00 + 8 * p) 0 3 = 0) ∧
  hubF State.reset 0x800 0 32 = 20000 ∧
  (hubF State.reset 0xA00 0 16 = 3200 ∧ hubF State.reset 0xA00 16 16 = 590 ∧ hubF State.reset 0xA00 32 16 = 3200 ∧
    hubF State.reset 0xA00 48 8 = 10) ∧
  (∀ n, 1 ≤ n → n ≤ 6 → hubF State.reset (0xA40 + 8 * n) 0 16 = (if n ≤ 2 then 330 else 520) ∧ hubF State.reset (0xA80 + 8 * n) 0 8 = 95 ∧
    hubF State.reset (0xA80 + 8 * n) 32 8 = 48) ∧
  (hubF State.reset 0xB80 0 16 = 2000 ∧ hubF State.reset 0xB80 16 16 = 100) ∧
  (∀ c, c < 384 → hubF State.reset (corectl c) 8 8 = (if c < 64 then 120 else 72) ∧
    hubF State.reset (corectl c) 32 8 = (if c < 64 then 120 else 72) ∧ hubF State.reset (corectl c) 48 8 = (if c < 64 then 120 else 80)) ∧
  (∀ p, p < 16 → hubF State.reset (fBase p + 0x20) 16 16 = 100 ∧ pEnabled State.reset p = (p == 0) ∧
    hubF State.reset (pBase p + 0x10) 16 16 = p) ∧
  (∀ site p, 1 ≤ site → site ≤ 6 → p < 16 → State.reset.winR site (0x100000 + 8 * p) = 0 ∧
    fieldNat (State.reset.winR site (0x100100 + 8 * p)) 0 16 = 1024 ∧ fieldNat (State.reset.winR site (0x100100 + 8 * p)) 16 16 = 4096)

/-- Home memory stands in its canonical form at reset, where nothing is listed: a byte that nothing has written reads as the model's
choice of 0 (log 1), a DESIGN CHOICE and no rule of the manual. -/
def Claims.ResetMemoryIsCanonical : Prop :=
  State.reset.mem.wf = true ∧ State.reset.mem.bytes = [] ∧ State.reset.mem.desc = [] ∧ State.reset.mem.poison = [] ∧
  (∀ k, Sparse.get byte0 State.reset.mem.bytes k = 0) ∧ ∀ k, memPoison State.reset.mem k = false

/-- The canonical form of home memory is kept by every step of the package: whatever unit, engine, queue, ring or event takes its turn, the
stores of bytes, descriptors and poison stay lists of rising keys with no entry at its background value. -/
def Obligations.MemoryStaysCanonical : Prop :=
  ∀ s t : State, s.mem.wf = true → step s = .next t → t.mem.wf = true

/-! ### Statements of several claims -/

/-- Scalar sums, products, logic, compares, extremes and moves write their results and nothing else: `Claims.SumsProductsAndLogic`,
`Claims.ComparesAndExtremes`, `Claims.MovesAndThreeOperands`. -/
def Obligations.ScalarArithmetic : Prop :=
  Claims.SumsProductsAndLogic ∧ Claims.ComparesAndExtremes ∧ Claims.MovesAndThreeOperands

/-- Shifts, rotations, bit counts, bit fields and mask edits: `Claims.ShiftsAndBitCounts`, `Claims.BitFieldsAndMasks`. -/
def Obligations.ShiftsAndBitFields : Prop :=
  Claims.ShiftsAndBitCounts ∧ Claims.BitFieldsAndMasks

/-- CALL, CALLR and JR: link, target, misaligned targets, reserved fields: `Claims.CallsLinkAndJumpsGo`, `Claims.MisalignedJumpsFault`. -/
def Obligations.CallsAndJumps : Prop :=
  Claims.CallsLinkAndJumpsGo ∧ Claims.MisalignedJumpsFault

/-- MTC writes, what each write leaves, and the faults of numbers and modes: `Claims.ControlRegisterWrites`,
`Claims.TranslationRegisterWrites`, `Claims.AccsaveWrites`, `Claims.ScopeEntryWrites`, `Claims.ControlRegisterFaults`. -/
def Obligations.ControlRegistersAreWritten : Prop :=
  Claims.ControlRegisterWrites ∧ Claims.TranslationRegisterWrites ∧ Claims.AccsaveWrites ∧ Claims.ScopeEntryWrites ∧ Claims.ControlRegisterFaults

/-- TRAP saves what an entry saves, ERET returns, and an entry that cannot complete is fatal: `Claims.TrapEntersPrivilegedCode`,
`Claims.EretReturns`, `Claims.FailedEntryIsFatal`. -/
def Obligations.TrapsReturnsAndFailedEntries : Prop :=
  Claims.TrapEntersPrivilegedCode ∧ Claims.EretReturns ∧ Claims.FailedEntryIsFatal

/-- PPOINT records the PC; NAP, its end and YIELD: `Claims.PointsRecordThePc`, `Claims.PausesEnd`. -/
def Obligations.PointsAndPauses : Prop :=
  Claims.PointsRecordThePc ∧ Claims.PausesEnd

/-- Scalar loads read the bytes of memory, and change sd, the PC and what caches hold: `Claims.UntranslatedLoadsRead`,
`Claims.TranslatedLoadsRead`. -/
def Obligations.LoadsReadMemory : Prop :=
  Claims.UntranslatedLoadsRead ∧ Claims.TranslatedLoadsRead

/-- Scalar stores write their bytes and no other byte: `Claims.UntranslatedStoresWrite`, `Claims.TranslatedStoresWrite`. -/
def Obligations.StoresWriteMemory : Prop :=
  Claims.UntranslatedStoresWrite ∧ Claims.TranslatedStoresWrite

/-- ATOM and CAS write the old value to sd and the new one to memory: `Claims.UntranslatedAtomicsModify`,
`Claims.TranslatedAtomicsModify`. -/
def Obligations.AtomicsReadModifyWrite : Prop :=
  Claims.UntranslatedAtomicsModify ∧ Claims.TranslatedAtomicsModify

/-- FENCE and range maintenance complete, and what they leave in the L1: `Claims.FencesComplete`, `Claims.MaintenanceCompletes`. -/
def Obligations.FencesAndMaintenance : Prop :=
  Claims.FencesComplete ∧ Claims.MaintenanceCompletes

/-- RRDEF, RRDROP and REDS: `Claims.ReductionRangesComeAndGo`, `Claims.RedsCombinesIntoAPartial`, `Claims.RemoteRedsIsJudgedAtHome`. -/
def Obligations.ReductionRanges : Prop :=
  Claims.ReductionRangesComeAndGo ∧ Claims.RedsCombinesIntoAPartial ∧ Claims.RemoteRedsIsJudgedAtHome

/-- BAR and COHBAR and their split forms wait for every unit and release it: `Claims.BlockBarriers`, `Claims.CohortBarriers`. -/
def Obligations.BarriersOfBlocksAndCohorts : Prop :=
  Claims.BlockBarriers ∧ Claims.CohortBarriers

/-- ATTACH grows a block and DETACH ends a pack: `Claims.AttachGrowsABlock`, `Claims.DetachEndsAPack`. -/
def Obligations.BlocksGrowAndShrink : Prop :=
  Claims.AttachGrowsABlock ∧ Claims.DetachEndsAPack

/-- Transaction barriers and the copies of a pack: `Claims.TransactionBarriers`, `Claims.PackCopies`. -/
def Obligations.TransactionsOfPacks : Prop :=
  Claims.TransactionBarriers ∧ Claims.PackCopies

/-- Lane instructions: empty masks, contexts without lanes, the token price, faults of single lanes; and the record an entry writes:
`Claims.EmptyMasksIssueNothing`, `Claims.LaneInstructionsNeedAPack`, `Claims.IssueTakesTokens`, `Claims.LaneFaultsNameTheirLanes`,
`Claims.FaultRecordsAreWritten`. -/
def Obligations.LaneInstructionsIssue : Prop :=
  Claims.EmptyMasksIssueNothing ∧ Claims.LaneInstructionsNeedAPack ∧ Claims.IssueTakesTokens ∧ Claims.LaneFaultsNameTheirLanes ∧ Claims.FaultRecordsAreWritten

/-- Lane floating-point arithmetic and conversions: `Claims.LaneFloatArithmetic`, `Claims.LaneConversions`. -/
def Obligations.LaneFloats : Prop :=
  Claims.LaneFloatArithmetic ∧ Claims.LaneConversions

/-- Loads, stores and atomics of shared memory: `Claims.SharedLoadsAndStores`, `Claims.SharedAtomics`. -/
def Obligations.SharedAccesses : Prop :=
  Claims.SharedLoadsAndStores ∧ Claims.SharedAtomics

/-- Lane loads, stores, atomics and reductions of global memory: `Claims.GlobalLaneAccessesComplete`, `Claims.GlobalLaneAtomicsComplete`. -/
def Obligations.GlobalLaneAccesses : Prop :=
  Claims.GlobalLaneAccessesComplete ∧ Claims.GlobalLaneAtomicsComplete

/-- PUSHR and PUSHM append records, POPQ takes elements: `Claims.RecordsArePushed`, `Claims.ElementsArePopped`. -/
def Obligations.QueuesArePushedAndPopped : Prop :=
  Claims.RecordsArePushed ∧ Claims.ElementsArePopped

/-- Copy records start, and their elements move: `Claims.CopyRecordsStart`, `Claims.CopyElementsMove`. -/
def Obligations.CopyRecords : Prop :=
  Claims.CopyRecordsStart ∧ Claims.CopyElementsMove

/-- Packets start and complete, members are placed: `Claims.PacketsStartAndComplete`, `Claims.MembersArePlaced`. -/
def Obligations.PacketsAndMembers : Prop :=
  Claims.PacketsStartAndComplete ∧ Claims.MembersArePlaced

/-- Pre-empted units are saved and saved units return: `Claims.PreemptedUnitsAreSaved`, `Claims.SavedUnitsReturn`. -/
def Obligations.UnitsAreSavedAndRestored : Prop :=
  Claims.PreemptedUnitsAreSaved ∧ Claims.SavedUnitsReturn

/-- The Palette ring, grants, hunger, reservations, issue selection and the locality throttle: `Claims.TokensAreGranted`,
`Claims.QuartersChoosePacks`. -/
def Obligations.TokensAndSelection : Prop :=
  Claims.TokensAreGranted ∧ Claims.QuartersChoosePacks

/-- Ownership, partition state, pause, and the phases of Rehang: `Claims.PartitionsAreKept`, `Claims.RehangRunsItsPhases`. -/
def Obligations.PartitionsAndRehang : Prop :=
  Claims.PartitionsAreKept ∧ Claims.RehangRunsItsPhases

/-- Words that encode nothing, failed fetches and late errors enter privileged code: `Claims.WordsThatEncodeNothing`,
`Claims.FetchesAndAccessesFault`. -/
def Obligations.FaultsOfWordsAndFetches : Prop :=
  Claims.WordsThatEncodeNothing ∧ Claims.FetchesAndAccessesFault

/-- What reset leaves; memory canonical at reset, its unlisted bytes 0 by the model's choice (log 1): `Claims.ResetLeavesTheStatedValues`,
`Claims.ResetMemoryIsCanonical`. -/
def Obligations.ResetState : Prop :=
  Claims.ResetLeavesTheStatedValues ∧ Claims.ResetMemoryIsCanonical
end

