-- ==== Sys2Proof/Laws/Caches.lean ====
section
/-! SUPPORT. What the operations that make room in a cache can do: the state as it was, with a free choice made, or with one line gone;
where a restored unit's lines go; the mode that a fault of several lanes enters. -/

namespace Sys2Proof.Machine

/-- R144: at an access an L1 keeps its lines, or evicts one. -/
theorem l1Age_cases (s : State) (r : Req) : l1Age s r = s ∨ l1Age s r = s.takeFree ∨ ∃ n, l1Age s r = l1Evict s.takeFree r n := by
  unfold l1Age
  dsimp only
  split
  · exact .inl rfl
  · split
    · exact .inr (.inl rfl)
    · exact .inr (.inr ⟨_, rfl⟩)

/-- R144: a slice has room for a line, or evicts one. -/
theorem sliceRoom_cases (s : State) (site slice line : Nat) :
    sliceRoom s site slice line = s ∨ ∃ l, sliceRoom s site slice line = sliceEvict s.takeFree site slice l := by
  unfold sliceRoom
  dsimp only
  split
  · exact .inl rfl
  · exact .inr ⟨_, rfl⟩

/-- R144: a core's instruction L1 has room for a line, or drops the words of one. -/
theorem codeRoom_cases (s : State) (core line : Nat) :
    codeRoom s core line = s ∨
      ∃ l, codeRoom s core line =
        s.takeFree.setMem { s.mem with code := s.mem.code.filter fun x => !(x.core == core && lineOf x.pa == l) } := by
  unfold codeRoom
  dsimp only
  split
  · exact .inl rfl
  · exact .inr ⟨_, rfl⟩

/-- R79: the memory-side cache keeps its lines, or drops one. -/
theorem mscRoom_cases (s : State) :
    mscRoom s = s ∨ mscRoom s = s.takeFree ∨ ∃ n, mscRoom s = s.takeFree.setMem { s.mem with msc := s.mem.msc.eraseIdx n } := by
  unfold mscRoom
  dsimp only
  split
  · exact .inl rfl
  · split
    · exact .inr (.inl rfl)
    · exact .inr (.inr ⟨_, rfl⟩)

/-- R149: the snoop filter keeps its entries, or recalls the line of one. -/
theorem filterRecall_cases (s : State) :
    filterRecall s = s ∨ filterRecall s = s.takeFree ∨ ∃ h ∈ s.mem.dir, filterRecall s = dirDrop s.takeFree h.line := by
  unfold filterRecall
  dsimp only
  split
  · exact .inl rfl
  · split
    · exact .inr (.inl rfl)
    · split
      · rename_i h e
        exact .inr (.inr ⟨h, List.mem_of_getElem? e, rfl⟩)
      · exact .inr (.inl rfl)

/-- R164: the region table keeps its entries, or tells one entry's sharers to invalidate its region. -/
theorem regionRecall_cases (s : State) :
    regionRecall s = s ∨ regionRecall s = s.takeFree ∨
      ∃ x ∈ s.mem.sharers, regionRecall s = invalidateRegions s.takeFree fun r => r == x.1 := by
  unfold regionRecall
  dsimp only
  split
  · exact .inl rfl
  · split
    · exact .inr (.inl rfl)
    · split
      · rename_i x e
        exact .inr (.inr ⟨x, List.mem_of_getElem? e, rfl⟩)
      · exact .inr (.inl rfl)

/-- R146: what a smaller carve-out leaves of a core's L1 fits, and was there. -/
theorem l1Trim_cases (s : State) (c : Nat) :
    l1Trim s c = s ∨ ∃ l, l1Trim s c = s.takeFree.setMem { s.mem with l1 := l } ∧ ∀ x ∈ l, x ∈ s.mem.l1 := by
  unfold l1Trim
  split
  · exact .inl rfl
  · refine .inr ⟨_, rfl, fun x hx => ?_⟩
    rcases List.mem_append.mp hx with h | h
    · rcases List.mem_append.mp (List.mem_of_mem_take h) with h | h
      · exact (List.mem_filter.mp (List.mem_of_mem_drop h)).1
      · exact (List.mem_filter.mp (List.mem_of_mem_take h)).1
    · exact (List.mem_filter.mp h).1

/-- R201: on a die that it does not leave, a restored unit finds every line where it was. -/
@[simp] theorem bringHome_same (s : State) (p here : Nat) : bringHome s p here here = s := by simp [bringHome]

/-- R358: lanes that all failed in stage 1, or with no translation at all, enter the mode that the summary's cause enters. -/
theorem enteredLanes_stage1 (mode : BitVec 2) (l : List LaneFault) (c : Cause)
    (h : ∀ e ∈ l, e.cause ≠ (cNOTPRESENT, 2) ∧ e.cause ≠ (cPERM, 5)) : enteredLanes mode l c = enteredMode mode c := by
  rw [enteredLanes, if_neg]
  simpa using h

/-- R102: with one lane failed in stage 2 the fault enters hypervisor mode, whatever the summary's cause. -/
theorem enteredLanes_stage2 (mode : BitVec 2) {l : List LaneFault} (c : Cause) {e : LaneFault} (he : e ∈ l)
    (h : e.cause = (cNOTPRESENT, 2) ∨ e.cause = (cPERM, 5)) : enteredLanes mode l c = 2 :=
  if_pos (List.any_eq_true.2 ⟨e, he, by simpa using h⟩)

end Sys2Proof.Machine
end

