-- ==== Sys2Proof/Laws/Sparse.lean ====
section
/-! SUPPORT. The sparse map: a read after a write gives what was written there and leaves every other key alone, and every write keeps the
canonical form. -/

namespace Sys2Proof.Sparse
variable {α : Type}

@[simp] theorem get_nil (d : Nat → α) (k : Nat) : get d [] k = d k := rfl

theorem get_erase (d : Nat → α) (m : Sparse α) (k j : Nat) : get d (erase m k) j = if j = k then d k else get d m j := by
  induction m with
  | nil => by_cases h : j = k <;> simp [erase, get, h]
  | cons p r ih =>
    obtain ⟨a, v⟩ := p
    by_cases hak : a = k
    · subst hak
      by_cases h : j = a
      · subst h; simp [erase, ih]
      · have : ¬ a = j := fun e => h e.symm
        simp [erase, get, ih, h, this]
    · by_cases haj : a = j
      · subst haj; simp [erase, get, hak]
      · simp [erase, get, hak, haj, ih]

theorem get_ins (d : Nat → α) (m : Sparse α) (k j : Nat) (v : α) (hk : ∀ p ∈ m, p.1 ≠ k) :
    get d (ins m k v) j = if j = k then v else get d m j := by
  induction m with
  | nil => by_cases e : j = k
           · simp [ins, get, e]
           · have : ¬ k = j := fun x => e x.symm
             simp [ins, get, e, this]
  | cons p r ih =>
    obtain ⟨a, w⟩ := p
    have hak : a ≠ k := hk (a, w) (by simp)
    have hr : ∀ p ∈ r, p.1 ≠ k := fun p hp => hk p (by simp [hp])
    by_cases hlt : k < a
    · by_cases e : j = k
      · simp [ins, get, hlt, e]
      · have : ¬ k = j := fun x => e x.symm
        simp [ins, get, hlt, e, this]
    · by_cases haj : a = j
      · subst haj; simp [ins, get, hlt, hak]
      · simp [ins, get, hlt, haj, ih hr]

theorem erase_ne (m : Sparse α) (k : Nat) : ∀ p ∈ erase m k, p.1 ≠ k := by
  induction m with
  | nil => simp [erase]
  | cons p r ih =>
    obtain ⟨a, v⟩ := p
    by_cases h : a = k
    · simpa [erase, h] using ih
    · simpa [erase, h] using ih

/-- A read after a write: what was written at the key, and every other key as before. -/
theorem get_set (d : Nat → α) (m : Sparse α) (k j : Nat) (v : α) : get d (set m k v) j = if j = k then v else get d m j := by
  unfold set
  rw [get_ins d _ k j v (erase_ne m k), get_erase]
  by_cases h : j = k <;> simp [h]

/-- The same for a write that keeps the background out of the list. -/
theorem get_put [DecidableEq α] (d : Nat → α) (m : Sparse α) (k j : Nat) (v : α) :
    get d (put d m k v) j = if j = k then v else get d m j := by
  unfold put
  by_cases hv : v = d k
  · rw [if_pos hv, get_erase]
    by_cases h : j = k <;> simp [h, hv]
  · rw [if_neg hv]; exact get_set d m k j v

@[simp] theorem get_set_self (d : Nat → α) (m : Sparse α) (k : Nat) (v : α) : get d (set m k v) k = v := by simp [get_set]

@[simp] theorem get_put_self [DecidableEq α] (d : Nat → α) (m : Sparse α) (k : Nat) (v : α) : get d (put d m k v) k = v := by
  simp [get_put]

theorem get_set_ne (d : Nat → α) (m : Sparse α) {k j : Nat} (v : α) (h : j ≠ k) : get d (set m k v) j = get d m j := by
  simp [get_set, h]

theorem get_put_ne [DecidableEq α] (d : Nat → α) (m : Sparse α) {k j : Nat} (v : α) (h : j ≠ k) :
    get d (put d m k v) j = get d m j := by simp [get_put, h]

theorem erase_of_ne (m : Sparse α) (k : Nat) (h : ∀ p ∈ m, p.1 ≠ k) : erase m k = m := by
  induction m with
  | nil => rfl
  | cons p r ih =>
    obtain ⟨a, v⟩ := p
    have ha : a ≠ k := h (a, v) (by simp)
    simp [erase, ha, ih fun p hp => h p (by simp [hp])]

theorem erase_ins (m : Sparse α) (k : Nat) (v : α) (h : ∀ p ∈ m, p.1 ≠ k) : erase (ins m k v) k = m := by
  induction m with
  | nil => simp [ins, erase]
  | cons p r ih =>
    obtain ⟨a, w⟩ := p
    have ha : a ≠ k := h (a, w) (by simp)
    have hr : ∀ p ∈ r, p.1 ≠ k := fun p hp => h p (by simp [hp])
    by_cases hlt : k < a
    · simp [ins, hlt, erase, ha, erase_of_ne r k hr]
    · simp [ins, hlt, erase, ha, ih hr]

/-- The second of two writes of one key stands. -/
theorem set_set (m : Sparse α) (k : Nat) (v w : α) : set (set m k v) k w = set m k w := by
  simp only [set, erase_ins _ _ _ (erase_ne m k)]

/-! ### The canonical form -/

theorem rising_mono {m : Sparse α} {lo lo' : Nat} (h : lo ≤ lo') (hm : rising lo' m = true) : rising lo m = true := by
  cases m with
  | nil => rfl
  | cons p r => simp only [rising, Bool.and_eq_true, decide_eq_true_eq] at hm ⊢; exact ⟨Nat.le_trans h hm.1, hm.2⟩

theorem rising_filter (f : Nat × α → Bool) (m : Sparse α) : ∀ lo, rising lo m = true → rising lo (m.filter f) = true := by
  induction m with
  | nil => simp
  | cons p r ih =>
    intro lo h
    simp only [rising, Bool.and_eq_true, decide_eq_true_eq] at h
    by_cases hf : f p
    · simp [hf, rising, h.1, ih _ h.2]
    · simp only [List.filter_cons, hf]
      exact rising_mono (Nat.le_succ_of_le h.1) (ih _ h.2)

theorem erase_eq_filter (m : Sparse α) (k : Nat) : erase m k = m.filter fun p => p.1 != k := by
  induction m with
  | nil => rfl
  | cons p r ih => obtain ⟨a, v⟩ := p; by_cases h : a = k <;> simp [erase, h, ih]

theorem rising_ins (m : Sparse α) (k : Nat) (v : α) :
    ∀ lo, rising lo m = true → lo ≤ k → (∀ p ∈ m, p.1 ≠ k) → rising lo (ins m k v) = true := by
  induction m with
  | nil => intro lo _ h _; simp [ins, rising, h]
  | cons p r ih =>
    obtain ⟨a, w⟩ := p
    intro lo h hk hn
    simp only [rising, Bool.and_eq_true, decide_eq_true_eq] at h
    have hak : a ≠ k := hn (a, w) (by simp)
    by_cases hlt : k < a
    · simp only [ins, hlt, ite_true, rising, Bool.and_eq_true, decide_eq_true_eq]
      exact ⟨hk, hlt, h.2⟩
    · simp only [ins, hlt, ite_false, rising, Bool.and_eq_true, decide_eq_true_eq]
      exact ⟨h.1, ih _ h.2 (by omega) (fun p hp => hn p (by simp [hp]))⟩

theorem mem_ins (m : Sparse α) (k : Nat) (v : α) (p : Nat × α) : p ∈ ins m k v → p = (k, v) ∨ p ∈ m := by
  induction m with
  | nil => simp [ins]
  | cons q r ih =>
    obtain ⟨a, w⟩ := q
    by_cases h : k < a
    · simp [ins, h]
    · simp only [ins, h, ite_false, List.mem_cons]
      rintro (rfl | hp)
      · exact .inr (.inl rfl)
      · rcases ih hp with h1 | h1
        · exact .inl h1
        · exact .inr (.inr h1)

/-- A write keeps the canonical form. -/
theorem wf_put [DecidableEq α] (d : Nat → α) (m : Sparse α) (k : Nat) (v : α) (h : wf d m = true) : wf d (put d m k v) = true := by
  simp only [wf, Bool.and_eq_true, List.all_eq_true, decide_eq_true_eq] at h ⊢
  unfold put
  by_cases hv : v = d k
  · rw [if_pos hv, erase_eq_filter]
    exact ⟨rising_filter _ _ _ h.1, fun p hp => h.2 p (List.mem_filter.mp hp).1⟩
  · rw [if_neg hv]
    refine ⟨rising_ins _ _ _ _ (by rw [erase_eq_filter]; exact rising_filter _ _ _ h.1) (Nat.zero_le _) (erase_ne m k), ?_⟩
    intro p hp
    rcases mem_ins _ _ _ _ hp with rfl | hp
    · exact hv
    · rw [erase_eq_filter] at hp; exact h.2 p (List.mem_filter.mp hp).1

/-- Dropping entries keeps the canonical form. -/
theorem wf_filter [DecidableEq α] (d : Nat → α) (m : Sparse α) (f : Nat × α → Bool) (h : wf d m = true) : wf d (m.filter f) = true := by
  simp only [wf, Bool.and_eq_true, List.all_eq_true, decide_eq_true_eq] at h ⊢
  exact ⟨rising_filter _ _ _ h.1, fun p hp => h.2 p (List.mem_filter.mp hp).1⟩

/-- Dropping entries leaves what the kept keys read as, and gives the background at the others. -/
theorem get_filter (d : Nat → α) (f : Nat → Bool) (m : Sparse α) (k : Nat) :
    get d (m.filter fun p => f p.1) k = if f k then get d m k else d k := by
  induction m with
  | nil => simp
  | cons p r ih =>
    obtain ⟨a, v⟩ := p
    by_cases hf : f a
    · by_cases hak : a = k
      · subst hak; simp [hf, get]
      · simp [hf, get, hak, ih]
    · by_cases hak : a = k
      · subst hak; simp [hf, ih]
      · simp [hf, get, hak, ih]

@[simp] theorem wf_nil [DecidableEq α] (d : Nat → α) : wf d ([] : Sparse α) = true := rfl

end Sys2Proof.Sparse
end

