-- ==== Sys2Proof/Laws/State.lean ====
section
/-! SUPPORT. What each update of the state leaves alone, field by field, and what reads after updates give. -/

namespace Sys2Proof.Machine

/-! ### `setCtx` -/

@[simp] theorem State.setCtx_cycles (s : State) (u : Nat) (x : Ctx) : (s.setCtx u x).cycles = s.cycles := rfl
@[simp] theorem State.setCtx_cur (s : State) (u : Nat) (x : Ctx) : (s.setCtx u x).cur = s.cur := rfl
@[simp] theorem State.setCtx_script (s : State) (u : Nat) (x : Ctx) : (s.setCtx u x).script = s.script := rfl
@[simp] theorem State.setCtx_free (s : State) (u : Nat) (x : Ctx) : (s.setCtx u x).free = s.free := rfl
@[simp] theorem State.setCtx_nextId (s : State) (u : Nat) (x : Ctx) : (s.setCtx u x).nextId = s.nextId := rfl
@[simp] theorem State.setCtx_word (s : State) (u : Nat) (x : Ctx) : (s.setCtx u x).word = s.word := rfl
@[simp] theorem State.setCtx_former (s : State) (u : Nat) (x : Ctx) : (s.setCtx u x).former = s.former := rfl
@[simp] theorem State.setCtx_scopes (s : State) (u : Nat) (x : Ctx) : (s.setCtx u x).scopes = s.scopes := rfl
@[simp] theorem State.setCtx_blocks (s : State) (u : Nat) (x : Ctx) : (s.setCtx u x).blocks = s.blocks := rfl
@[simp] theorem State.setCtx_cohorts (s : State) (u : Nat) (x : Ctx) : (s.setCtx u x).cohorts = s.cohorts := rfl
@[simp] theorem State.setCtx_launches (s : State) (u : Nat) (x : Ctx) : (s.setCtx u x).launches = s.launches := rfl
@[simp] theorem State.setCtx_queues (s : State) (u : Nat) (x : Ctx) : (s.setCtx u x).queues = s.queues := rfl
@[simp] theorem State.setCtx_depWait (s : State) (u : Nat) (x : Ctx) : (s.setCtx u x).depWait = s.depWait := rfl
@[simp] theorem State.setCtx_saved (s : State) (u : Nat) (x : Ctx) : (s.setCtx u x).saved = s.saved := rfl
@[simp] theorem State.setCtx_cores (s : State) (u : Nat) (x : Ctx) : (s.setCtx u x).cores = s.cores := rfl
@[simp] theorem State.setCtx_dies (s : State) (u : Nat) (x : Ctx) : (s.setCtx u x).dies = s.dies := rfl
@[simp] theorem State.setCtx_sites (s : State) (u : Nat) (x : Ctx) : (s.setCtx u x).sites = s.sites := rfl
@[simp] theorem State.setCtx_mem (s : State) (u : Nat) (x : Ctx) : (s.setCtx u x).mem = s.mem := rfl
@[simp] theorem State.setCtx_hub (s : State) (u : Nat) (x : Ctx) : (s.setCtx u x).hub = s.hub := rfl
@[simp] theorem State.setCtx_win (s : State) (u : Nat) (x : Ctx) : (s.setCtx u x).win = s.win := rfl
@[simp] theorem State.setCtx_parts (s : State) (u : Nat) (x : Ctx) : (s.setCtx u x).parts = s.parts := rfl
@[simp] theorem State.setCtx_rrPtr (s : State) (u : Nat) (x : Ctx) : (s.setCtx u x).rrPtr = s.rrPtr := rfl
@[simp] theorem State.setCtx_seq (s : State) (u : Nat) (x : Ctx) : (s.setCtx u x).seq = s.seq := rfl
@[simp] theorem State.setCtx_evbuf (s : State) (u : Nat) (x : Ctx) : (s.setCtx u x).evbuf = s.evbuf := rfl
@[simp] theorem State.setCtx_fwMeas (s : State) (u : Nat) (x : Ctx) : (s.setCtx u x).fwMeas = s.fwMeas := rfl
@[simp] theorem State.setCtx_lastEvent (s : State) (u : Nat) (x : Ctx) : (s.setCtx u x).lastEvent = s.lastEvent := rfl
@[simp] theorem State.setCtx_attMeas (s : State) (u : Nat) (x : Ctx) : (s.setCtx u x).attMeas = s.attMeas := rfl
@[simp] theorem State.setCtx_boostOpen (s : State) (u : Nat) (x : Ctx) : (s.setCtx u x).boostOpen = s.boostOpen := rfl
@[simp] theorem State.setCtx_boostLast (s : State) (u : Nat) (x : Ctx) : (s.setCtx u x).boostLast = s.boostLast := rfl
@[simp] theorem State.setCtx_rehang (s : State) (u : Nat) (x : Ctx) : (s.setCtx u x).rehang = s.rehang := rfl
@[simp] theorem State.setCtx_lastTick (s : State) (u : Nat) (x : Ctx) : (s.setCtx u x).lastTick = s.lastTick := rfl

/-! ### `setMe` -/

@[simp] theorem State.setMe_cycles (s : State) (x : Ctx) : (s.setMe x).cycles = s.cycles := rfl
@[simp] theorem State.setMe_cur (s : State) (x : Ctx) : (s.setMe x).cur = s.cur := rfl
@[simp] theorem State.setMe_script (s : State) (x : Ctx) : (s.setMe x).script = s.script := rfl
@[simp] theorem State.setMe_free (s : State) (x : Ctx) : (s.setMe x).free = s.free := rfl
@[simp] theorem State.setMe_nextId (s : State) (x : Ctx) : (s.setMe x).nextId = s.nextId := rfl
@[simp] theorem State.setMe_word (s : State) (x : Ctx) : (s.setMe x).word = s.word := rfl
@[simp] theorem State.setMe_former (s : State) (x : Ctx) : (s.setMe x).former = s.former := rfl
@[simp] theorem State.setMe_scopes (s : State) (x : Ctx) : (s.setMe x).scopes = s.scopes := rfl
@[simp] theorem State.setMe_blocks (s : State) (x : Ctx) : (s.setMe x).blocks = s.blocks := rfl
@[simp] theorem State.setMe_cohorts (s : State) (x : Ctx) : (s.setMe x).cohorts = s.cohorts := rfl
@[simp] theorem State.setMe_launches (s : State) (x : Ctx) : (s.setMe x).launches = s.launches := rfl
@[simp] theorem State.setMe_queues (s : State) (x : Ctx) : (s.setMe x).queues = s.queues := rfl
@[simp] theorem State.setMe_depWait (s : State) (x : Ctx) : (s.setMe x).depWait = s.depWait := rfl
@[simp] theorem State.setMe_saved (s : State) (x : Ctx) : (s.setMe x).saved = s.saved := rfl
@[simp] theorem State.setMe_cores (s : State) (x : Ctx) : (s.setMe x).cores = s.cores := rfl
@[simp] theorem State.setMe_dies (s : State) (x : Ctx) : (s.setMe x).dies = s.dies := rfl
@[simp] theorem State.setMe_sites (s : State) (x : Ctx) : (s.setMe x).sites = s.sites := rfl
@[simp] theorem State.setMe_mem (s : State) (x : Ctx) : (s.setMe x).mem = s.mem := rfl
@[simp] theorem State.setMe_hub (s : State) (x : Ctx) : (s.setMe x).hub = s.hub := rfl
@[simp] theorem State.setMe_win (s : State) (x : Ctx) : (s.setMe x).win = s.win := rfl
@[simp] theorem State.setMe_parts (s : State) (x : Ctx) : (s.setMe x).parts = s.parts := rfl
@[simp] theorem State.setMe_rrPtr (s : State) (x : Ctx) : (s.setMe x).rrPtr = s.rrPtr := rfl
@[simp] theorem State.setMe_seq (s : State) (x : Ctx) : (s.setMe x).seq = s.seq := rfl
@[simp] theorem State.setMe_evbuf (s : State) (x : Ctx) : (s.setMe x).evbuf = s.evbuf := rfl
@[simp] theorem State.setMe_fwMeas (s : State) (x : Ctx) : (s.setMe x).fwMeas = s.fwMeas := rfl
@[simp] theorem State.setMe_lastEvent (s : State) (x : Ctx) : (s.setMe x).lastEvent = s.lastEvent := rfl
@[simp] theorem State.setMe_attMeas (s : State) (x : Ctx) : (s.setMe x).attMeas = s.attMeas := rfl
@[simp] theorem State.setMe_boostOpen (s : State) (x : Ctx) : (s.setMe x).boostOpen = s.boostOpen := rfl
@[simp] theorem State.setMe_boostLast (s : State) (x : Ctx) : (s.setMe x).boostLast = s.boostLast := rfl
@[simp] theorem State.setMe_rehang (s : State) (x : Ctx) : (s.setMe x).rehang = s.rehang := rfl
@[simp] theorem State.setMe_lastTick (s : State) (x : Ctx) : (s.setMe x).lastTick = s.lastTick := rfl

/-! ### `setCore` -/

@[simp] theorem State.setCore_cycles (s : State) (c : Nat) (x : Core) : (s.setCore c x).cycles = s.cycles := rfl
@[simp] theorem State.setCore_cur (s : State) (c : Nat) (x : Core) : (s.setCore c x).cur = s.cur := rfl
@[simp] theorem State.setCore_script (s : State) (c : Nat) (x : Core) : (s.setCore c x).script = s.script := rfl
@[simp] theorem State.setCore_free (s : State) (c : Nat) (x : Core) : (s.setCore c x).free = s.free := rfl
@[simp] theorem State.setCore_nextId (s : State) (c : Nat) (x : Core) : (s.setCore c x).nextId = s.nextId := rfl
@[simp] theorem State.setCore_word (s : State) (c : Nat) (x : Core) : (s.setCore c x).word = s.word := rfl
@[simp] theorem State.setCore_ctxs (s : State) (c : Nat) (x : Core) : (s.setCore c x).ctxs = s.ctxs := rfl
@[simp] theorem State.setCore_former (s : State) (c : Nat) (x : Core) : (s.setCore c x).former = s.former := rfl
@[simp] theorem State.setCore_scopes (s : State) (c : Nat) (x : Core) : (s.setCore c x).scopes = s.scopes := rfl
@[simp] theorem State.setCore_blocks (s : State) (c : Nat) (x : Core) : (s.setCore c x).blocks = s.blocks := rfl
@[simp] theorem State.setCore_cohorts (s : State) (c : Nat) (x : Core) : (s.setCore c x).cohorts = s.cohorts := rfl
@[simp] theorem State.setCore_launches (s : State) (c : Nat) (x : Core) : (s.setCore c x).launches = s.launches := rfl
@[simp] theorem State.setCore_queues (s : State) (c : Nat) (x : Core) : (s.setCore c x).queues = s.queues := rfl
@[simp] theorem State.setCore_depWait (s : State) (c : Nat) (x : Core) : (s.setCore c x).depWait = s.depWait := rfl
@[simp] theorem State.setCore_saved (s : State) (c : Nat) (x : Core) : (s.setCore c x).saved = s.saved := rfl
@[simp] theorem State.setCore_dies (s : State) (c : Nat) (x : Core) : (s.setCore c x).dies = s.dies := rfl
@[simp] theorem State.setCore_sites (s : State) (c : Nat) (x : Core) : (s.setCore c x).sites = s.sites := rfl
@[simp] theorem State.setCore_mem (s : State) (c : Nat) (x : Core) : (s.setCore c x).mem = s.mem := rfl
@[simp] theorem State.setCore_hub (s : State) (c : Nat) (x : Core) : (s.setCore c x).hub = s.hub := rfl
@[simp] theorem State.setCore_win (s : State) (c : Nat) (x : Core) : (s.setCore c x).win = s.win := rfl
@[simp] theorem State.setCore_parts (s : State) (c : Nat) (x : Core) : (s.setCore c x).parts = s.parts := rfl
@[simp] theorem State.setCore_rrPtr (s : State) (c : Nat) (x : Core) : (s.setCore c x).rrPtr = s.rrPtr := rfl
@[simp] theorem State.setCore_seq (s : State) (c : Nat) (x : Core) : (s.setCore c x).seq = s.seq := rfl
@[simp] theorem State.setCore_evbuf (s : State) (c : Nat) (x : Core) : (s.setCore c x).evbuf = s.evbuf := rfl
@[simp] theorem State.setCore_fwMeas (s : State) (c : Nat) (x : Core) : (s.setCore c x).fwMeas = s.fwMeas := rfl
@[simp] theorem State.setCore_lastEvent (s : State) (c : Nat) (x : Core) : (s.setCore c x).lastEvent = s.lastEvent := rfl
@[simp] theorem State.setCore_attMeas (s : State) (c : Nat) (x : Core) : (s.setCore c x).attMeas = s.attMeas := rfl
@[simp] theorem State.setCore_boostOpen (s : State) (c : Nat) (x : Core) : (s.setCore c x).boostOpen = s.boostOpen := rfl
@[simp] theorem State.setCore_boostLast (s : State) (c : Nat) (x : Core) : (s.setCore c x).boostLast = s.boostLast := rfl
@[simp] theorem State.setCore_rehang (s : State) (c : Nat) (x : Core) : (s.setCore c x).rehang = s.rehang := rfl
@[simp] theorem State.setCore_lastTick (s : State) (c : Nat) (x : Core) : (s.setCore c x).lastTick = s.lastTick := rfl

/-! ### `setSite` -/

@[simp] theorem State.setSite_cycles (s : State) (n : Nat) (x : Site) : (s.setSite n x).cycles = s.cycles := rfl
@[simp] theorem State.setSite_cur (s : State) (n : Nat) (x : Site) : (s.setSite n x).cur = s.cur := rfl
@[simp] theorem State.setSite_script (s : State) (n : Nat) (x : Site) : (s.setSite n x).script = s.script := rfl
@[simp] theorem State.setSite_free (s : State) (n : Nat) (x : Site) : (s.setSite n x).free = s.free := rfl
@[simp] theorem State.setSite_nextId (s : State) (n : Nat) (x : Site) : (s.setSite n x).nextId = s.nextId := rfl
@[simp] theorem State.setSite_word (s : State) (n : Nat) (x : Site) : (s.setSite n x).word = s.word := rfl
@[simp] theorem State.setSite_ctxs (s : State) (n : Nat) (x : Site) : (s.setSite n x).ctxs = s.ctxs := rfl
@[simp] theorem State.setSite_former (s : State) (n : Nat) (x : Site) : (s.setSite n x).former = s.former := rfl
@[simp] theorem State.setSite_scopes (s : State) (n : Nat) (x : Site) : (s.setSite n x).scopes = s.scopes := rfl
@[simp] theorem State.setSite_blocks (s : State) (n : Nat) (x : Site) : (s.setSite n x).blocks = s.blocks := rfl
@[simp] theorem State.setSite_cohorts (s : State) (n : Nat) (x : Site) : (s.setSite n x).cohorts = s.cohorts := rfl
@[simp] theorem State.setSite_launches (s : State) (n : Nat) (x : Site) : (s.setSite n x).launches = s.launches := rfl
@[simp] theorem State.setSite_queues (s : State) (n : Nat) (x : Site) : (s.setSite n x).queues = s.queues := rfl
@[simp] theorem State.setSite_depWait (s : State) (n : Nat) (x : Site) : (s.setSite n x).depWait = s.depWait := rfl
@[simp] theorem State.setSite_saved (s : State) (n : Nat) (x : Site) : (s.setSite n x).saved = s.saved := rfl
@[simp] theorem State.setSite_cores (s : State) (n : Nat) (x : Site) : (s.setSite n x).cores = s.cores := rfl
@[simp] theorem State.setSite_dies (s : State) (n : Nat) (x : Site) : (s.setSite n x).dies = s.dies := rfl
@[simp] theorem State.setSite_mem (s : State) (n : Nat) (x : Site) : (s.setSite n x).mem = s.mem := rfl
@[simp] theorem State.setSite_hub (s : State) (n : Nat) (x : Site) : (s.setSite n x).hub = s.hub := rfl
@[simp] theorem State.setSite_win (s : State) (n : Nat) (x : Site) : (s.setSite n x).win = s.win := rfl
@[simp] theorem State.setSite_parts (s : State) (n : Nat) (x : Site) : (s.setSite n x).parts = s.parts := rfl
@[simp] theorem State.setSite_rrPtr (s : State) (n : Nat) (x : Site) : (s.setSite n x).rrPtr = s.rrPtr := rfl
@[simp] theorem State.setSite_seq (s : State) (n : Nat) (x : Site) : (s.setSite n x).seq = s.seq := rfl
@[simp] theorem State.setSite_evbuf (s : State) (n : Nat) (x : Site) : (s.setSite n x).evbuf = s.evbuf := rfl
@[simp] theorem State.setSite_fwMeas (s : State) (n : Nat) (x : Site) : (s.setSite n x).fwMeas = s.fwMeas := rfl
@[simp] theorem State.setSite_lastEvent (s : State) (n : Nat) (x : Site) : (s.setSite n x).lastEvent = s.lastEvent := rfl
@[simp] theorem State.setSite_attMeas (s : State) (n : Nat) (x : Site) : (s.setSite n x).attMeas = s.attMeas := rfl
@[simp] theorem State.setSite_boostOpen (s : State) (n : Nat) (x : Site) : (s.setSite n x).boostOpen = s.boostOpen := rfl
@[simp] theorem State.setSite_boostLast (s : State) (n : Nat) (x : Site) : (s.setSite n x).boostLast = s.boostLast := rfl
@[simp] theorem State.setSite_rehang (s : State) (n : Nat) (x : Site) : (s.setSite n x).rehang = s.rehang := rfl
@[simp] theorem State.setSite_lastTick (s : State) (n : Nat) (x : Site) : (s.setSite n x).lastTick = s.lastTick := rfl

/-! ### `setDie` -/

@[simp] theorem State.setDie_cycles (s : State) (n : Nat) (x : Die) : (s.setDie n x).cycles = s.cycles := rfl
@[simp] theorem State.setDie_cur (s : State) (n : Nat) (x : Die) : (s.setDie n x).cur = s.cur := rfl
@[simp] theorem State.setDie_script (s : State) (n : Nat) (x : Die) : (s.setDie n x).script = s.script := rfl
@[simp] theorem State.setDie_free (s : State) (n : Nat) (x : Die) : (s.setDie n x).free = s.free := rfl
@[simp] theorem State.setDie_nextId (s : State) (n : Nat) (x : Die) : (s.setDie n x).nextId = s.nextId := rfl
@[simp] theorem State.setDie_word (s : State) (n : Nat) (x : Die) : (s.setDie n x).word = s.word := rfl
@[simp] theorem State.setDie_ctxs (s : State) (n : Nat) (x : Die) : (s.setDie n x).ctxs = s.ctxs := rfl
@[simp] theorem State.setDie_former (s : State) (n : Nat) (x : Die) : (s.setDie n x).former = s.former := rfl
@[simp] theorem State.setDie_scopes (s : State) (n : Nat) (x : Die) : (s.setDie n x).scopes = s.scopes := rfl
@[simp] theorem State.setDie_blocks (s : State) (n : Nat) (x : Die) : (s.setDie n x).blocks = s.blocks := rfl
@[simp] theorem State.setDie_cohorts (s : State) (n : Nat) (x : Die) : (s.setDie n x).cohorts = s.cohorts := rfl
@[simp] theorem State.setDie_launches (s : State) (n : Nat) (x : Die) : (s.setDie n x).launches = s.launches := rfl
@[simp] theorem State.setDie_queues (s : State) (n : Nat) (x : Die) : (s.setDie n x).queues = s.queues := rfl
@[simp] theorem State.setDie_depWait (s : State) (n : Nat) (x : Die) : (s.setDie n x).depWait = s.depWait := rfl
@[simp] theorem State.setDie_saved (s : State) (n : Nat) (x : Die) : (s.setDie n x).saved = s.saved := rfl
@[simp] theorem State.setDie_cores (s : State) (n : Nat) (x : Die) : (s.setDie n x).cores = s.cores := rfl
@[simp] theorem State.setDie_sites (s : State) (n : Nat) (x : Die) : (s.setDie n x).sites = s.sites := rfl
@[simp] theorem State.setDie_mem (s : State) (n : Nat) (x : Die) : (s.setDie n x).mem = s.mem := rfl
@[simp] theorem State.setDie_hub (s : State) (n : Nat) (x : Die) : (s.setDie n x).hub = s.hub := rfl
@[simp] theorem State.setDie_win (s : State) (n : Nat) (x : Die) : (s.setDie n x).win = s.win := rfl
@[simp] theorem State.setDie_parts (s : State) (n : Nat) (x : Die) : (s.setDie n x).parts = s.parts := rfl
@[simp] theorem State.setDie_rrPtr (s : State) (n : Nat) (x : Die) : (s.setDie n x).rrPtr = s.rrPtr := rfl
@[simp] theorem State.setDie_seq (s : State) (n : Nat) (x : Die) : (s.setDie n x).seq = s.seq := rfl
@[simp] theorem State.setDie_evbuf (s : State) (n : Nat) (x : Die) : (s.setDie n x).evbuf = s.evbuf := rfl
@[simp] theorem State.setDie_fwMeas (s : State) (n : Nat) (x : Die) : (s.setDie n x).fwMeas = s.fwMeas := rfl
@[simp] theorem State.setDie_lastEvent (s : State) (n : Nat) (x : Die) : (s.setDie n x).lastEvent = s.lastEvent := rfl
@[simp] theorem State.setDie_attMeas (s : State) (n : Nat) (x : Die) : (s.setDie n x).attMeas = s.attMeas := rfl
@[simp] theorem State.setDie_boostOpen (s : State) (n : Nat) (x : Die) : (s.setDie n x).boostOpen = s.boostOpen := rfl
@[simp] theorem State.setDie_boostLast (s : State) (n : Nat) (x : Die) : (s.setDie n x).boostLast = s.boostLast := rfl
@[simp] theorem State.setDie_rehang (s : State) (n : Nat) (x : Die) : (s.setDie n x).rehang = s.rehang := rfl
@[simp] theorem State.setDie_lastTick (s : State) (n : Nat) (x : Die) : (s.setDie n x).lastTick = s.lastTick := rfl

/-! ### `setPart` -/

@[simp] theorem State.setPart_cycles (s : State) (p : Nat) (x : PartSt) : (s.setPart p x).cycles = s.cycles := rfl
@[simp] theorem State.setPart_cur (s : State) (p : Nat) (x : PartSt) : (s.setPart p x).cur = s.cur := rfl
@[simp] theorem State.setPart_script (s : State) (p : Nat) (x : PartSt) : (s.setPart p x).script = s.script := rfl
@[simp] theorem State.setPart_free (s : State) (p : Nat) (x : PartSt) : (s.setPart p x).free = s.free := rfl
@[simp] theorem State.setPart_nextId (s : State) (p : Nat) (x : PartSt) : (s.setPart p x).nextId = s.nextId := rfl
@[simp] theorem State.setPart_word (s : State) (p : Nat) (x : PartSt) : (s.setPart p x).word = s.word := rfl
@[simp] theorem State.setPart_ctxs (s : State) (p : Nat) (x : PartSt) : (s.setPart p x).ctxs = s.ctxs := rfl
@[simp] theorem State.setPart_former (s : State) (p : Nat) (x : PartSt) : (s.setPart p x).former = s.former := rfl
@[simp] theorem State.setPart_scopes (s : State) (p : Nat) (x : PartSt) : (s.setPart p x).scopes = s.scopes := rfl
@[simp] theorem State.setPart_blocks (s : State) (p : Nat) (x : PartSt) : (s.setPart p x).blocks = s.blocks := rfl
@[simp] theorem State.setPart_cohorts (s : State) (p : Nat) (x : PartSt) : (s.setPart p x).cohorts = s.cohorts := rfl
@[simp] theorem State.setPart_launches (s : State) (p : Nat) (x : PartSt) : (s.setPart p x).launches = s.launches := rfl
@[simp] theorem State.setPart_queues (s : State) (p : Nat) (x : PartSt) : (s.setPart p x).queues = s.queues := rfl
@[simp] theorem State.setPart_depWait (s : State) (p : Nat) (x : PartSt) : (s.setPart p x).depWait = s.depWait := rfl
@[simp] theorem State.setPart_saved (s : State) (p : Nat) (x : PartSt) : (s.setPart p x).saved = s.saved := rfl
@[simp] theorem State.setPart_cores (s : State) (p : Nat) (x : PartSt) : (s.setPart p x).cores = s.cores := rfl
@[simp] theorem State.setPart_dies (s : State) (p : Nat) (x : PartSt) : (s.setPart p x).dies = s.dies := rfl
@[simp] theorem State.setPart_sites (s : State) (p : Nat) (x : PartSt) : (s.setPart p x).sites = s.sites := rfl
@[simp] theorem State.setPart_mem (s : State) (p : Nat) (x : PartSt) : (s.setPart p x).mem = s.mem := rfl
@[simp] theorem State.setPart_hub (s : State) (p : Nat) (x : PartSt) : (s.setPart p x).hub = s.hub := rfl
@[simp] theorem State.setPart_win (s : State) (p : Nat) (x : PartSt) : (s.setPart p x).win = s.win := rfl
@[simp] theorem State.setPart_rrPtr (s : State) (p : Nat) (x : PartSt) : (s.setPart p x).rrPtr = s.rrPtr := rfl
@[simp] theorem State.setPart_seq (s : State) (p : Nat) (x : PartSt) : (s.setPart p x).seq = s.seq := rfl
@[simp] theorem State.setPart_evbuf (s : State) (p : Nat) (x : PartSt) : (s.setPart p x).evbuf = s.evbuf := rfl
@[simp] theorem State.setPart_fwMeas (s : State) (p : Nat) (x : PartSt) : (s.setPart p x).fwMeas = s.fwMeas := rfl
@[simp] theorem State.setPart_lastEvent (s : State) (p : Nat) (x : PartSt) : (s.setPart p x).lastEvent = s.lastEvent := rfl
@[simp] theorem State.setPart_attMeas (s : State) (p : Nat) (x : PartSt) : (s.setPart p x).attMeas = s.attMeas := rfl
@[simp] theorem State.setPart_boostOpen (s : State) (p : Nat) (x : PartSt) : (s.setPart p x).boostOpen = s.boostOpen := rfl
@[simp] theorem State.setPart_boostLast (s : State) (p : Nat) (x : PartSt) : (s.setPart p x).boostLast = s.boostLast := rfl
@[simp] theorem State.setPart_rehang (s : State) (p : Nat) (x : PartSt) : (s.setPart p x).rehang = s.rehang := rfl
@[simp] theorem State.setPart_lastTick (s : State) (p : Nat) (x : PartSt) : (s.setPart p x).lastTick = s.lastTick := rfl

/-! ### `setBlock` -/

@[simp] theorem State.setBlock_cycles (s : State) (b : Nat) (x : Option Block) : (s.setBlock b x).cycles = s.cycles := rfl
@[simp] theorem State.setBlock_cur (s : State) (b : Nat) (x : Option Block) : (s.setBlock b x).cur = s.cur := rfl
@[simp] theorem State.setBlock_script (s : State) (b : Nat) (x : Option Block) : (s.setBlock b x).script = s.script := rfl
@[simp] theorem State.setBlock_free (s : State) (b : Nat) (x : Option Block) : (s.setBlock b x).free = s.free := rfl
@[simp] theorem State.setBlock_nextId (s : State) (b : Nat) (x : Option Block) : (s.setBlock b x).nextId = s.nextId := rfl
@[simp] theorem State.setBlock_word (s : State) (b : Nat) (x : Option Block) : (s.setBlock b x).word = s.word := rfl
@[simp] theorem State.setBlock_ctxs (s : State) (b : Nat) (x : Option Block) : (s.setBlock b x).ctxs = s.ctxs := rfl
@[simp] theorem State.setBlock_former (s : State) (b : Nat) (x : Option Block) : (s.setBlock b x).former = s.former := rfl
@[simp] theorem State.setBlock_scopes (s : State) (b : Nat) (x : Option Block) : (s.setBlock b x).scopes = s.scopes := rfl
@[simp] theorem State.setBlock_cohorts (s : State) (b : Nat) (x : Option Block) : (s.setBlock b x).cohorts = s.cohorts := rfl
@[simp] theorem State.setBlock_launches (s : State) (b : Nat) (x : Option Block) : (s.setBlock b x).launches = s.launches := rfl
@[simp] theorem State.setBlock_queues (s : State) (b : Nat) (x : Option Block) : (s.setBlock b x).queues = s.queues := rfl
@[simp] theorem State.setBlock_depWait (s : State) (b : Nat) (x : Option Block) : (s.setBlock b x).depWait = s.depWait := rfl
@[simp] theorem State.setBlock_saved (s : State) (b : Nat) (x : Option Block) : (s.setBlock b x).saved = s.saved := rfl
@[simp] theorem State.setBlock_cores (s : State) (b : Nat) (x : Option Block) : (s.setBlock b x).cores = s.cores := rfl
@[simp] theorem State.setBlock_dies (s : State) (b : Nat) (x : Option Block) : (s.setBlock b x).dies = s.dies := rfl
@[simp] theorem State.setBlock_sites (s : State) (b : Nat) (x : Option Block) : (s.setBlock b x).sites = s.sites := rfl
@[simp] theorem State.setBlock_mem (s : State) (b : Nat) (x : Option Block) : (s.setBlock b x).mem = s.mem := rfl
@[simp] theorem State.setBlock_hub (s : State) (b : Nat) (x : Option Block) : (s.setBlock b x).hub = s.hub := rfl
@[simp] theorem State.setBlock_win (s : State) (b : Nat) (x : Option Block) : (s.setBlock b x).win = s.win := rfl
@[simp] theorem State.setBlock_parts (s : State) (b : Nat) (x : Option Block) : (s.setBlock b x).parts = s.parts := rfl
@[simp] theorem State.setBlock_rrPtr (s : State) (b : Nat) (x : Option Block) : (s.setBlock b x).rrPtr = s.rrPtr := rfl
@[simp] theorem State.setBlock_seq (s : State) (b : Nat) (x : Option Block) : (s.setBlock b x).seq = s.seq := rfl
@[simp] theorem State.setBlock_evbuf (s : State) (b : Nat) (x : Option Block) : (s.setBlock b x).evbuf = s.evbuf := rfl
@[simp] theorem State.setBlock_fwMeas (s : State) (b : Nat) (x : Option Block) : (s.setBlock b x).fwMeas = s.fwMeas := rfl
@[simp] theorem State.setBlock_lastEvent (s : State) (b : Nat) (x : Option Block) : (s.setBlock b x).lastEvent = s.lastEvent := rfl
@[simp] theorem State.setBlock_attMeas (s : State) (b : Nat) (x : Option Block) : (s.setBlock b x).attMeas = s.attMeas := rfl
@[simp] theorem State.setBlock_boostOpen (s : State) (b : Nat) (x : Option Block) : (s.setBlock b x).boostOpen = s.boostOpen := rfl
@[simp] theorem State.setBlock_boostLast (s : State) (b : Nat) (x : Option Block) : (s.setBlock b x).boostLast = s.boostLast := rfl
@[simp] theorem State.setBlock_rehang (s : State) (b : Nat) (x : Option Block) : (s.setBlock b x).rehang = s.rehang := rfl
@[simp] theorem State.setBlock_lastTick (s : State) (b : Nat) (x : Option Block) : (s.setBlock b x).lastTick = s.lastTick := rfl

/-! ### `setCohort` -/

@[simp] theorem State.setCohort_cycles (s : State) (b : Nat) (x : Option Cohort) : (s.setCohort b x).cycles = s.cycles := rfl
@[simp] theorem State.setCohort_cur (s : State) (b : Nat) (x : Option Cohort) : (s.setCohort b x).cur = s.cur := rfl
@[simp] theorem State.setCohort_script (s : State) (b : Nat) (x : Option Cohort) : (s.setCohort b x).script = s.script := rfl
@[simp] theorem State.setCohort_free (s : State) (b : Nat) (x : Option Cohort) : (s.setCohort b x).free = s.free := rfl
@[simp] theorem State.setCohort_nextId (s : State) (b : Nat) (x : Option Cohort) : (s.setCohort b x).nextId = s.nextId := rfl
@[simp] theorem State.setCohort_word (s : State) (b : Nat) (x : Option Cohort) : (s.setCohort b x).word = s.word := rfl
@[simp] theorem State.setCohort_ctxs (s : State) (b : Nat) (x : Option Cohort) : (s.setCohort b x).ctxs = s.ctxs := rfl
@[simp] theorem State.setCohort_former (s : State) (b : Nat) (x : Option Cohort) : (s.setCohort b x).former = s.former := rfl
@[simp] theorem State.setCohort_scopes (s : State) (b : Nat) (x : Option Cohort) : (s.setCohort b x).scopes = s.scopes := rfl
@[simp] theorem State.setCohort_blocks (s : State) (b : Nat) (x : Option Cohort) : (s.setCohort b x).blocks = s.blocks := rfl
@[simp] theorem State.setCohort_launches (s : State) (b : Nat) (x : Option Cohort) : (s.setCohort b x).launches = s.launches := rfl
@[simp] theorem State.setCohort_queues (s : State) (b : Nat) (x : Option Cohort) : (s.setCohort b x).queues = s.queues := rfl
@[simp] theorem State.setCohort_depWait (s : State) (b : Nat) (x : Option Cohort) : (s.setCohort b x).depWait = s.depWait := rfl
@[simp] theorem State.setCohort_saved (s : State) (b : Nat) (x : Option Cohort) : (s.setCohort b x).saved = s.saved := rfl
@[simp] theorem State.setCohort_cores (s : State) (b : Nat) (x : Option Cohort) : (s.setCohort b x).cores = s.cores := rfl
@[simp] theorem State.setCohort_dies (s : State) (b : Nat) (x : Option Cohort) : (s.setCohort b x).dies = s.dies := rfl
@[simp] theorem State.setCohort_sites (s : State) (b : Nat) (x : Option Cohort) : (s.setCohort b x).sites = s.sites := rfl
@[simp] theorem State.setCohort_mem (s : State) (b : Nat) (x : Option Cohort) : (s.setCohort b x).mem = s.mem := rfl
@[simp] theorem State.setCohort_hub (s : State) (b : Nat) (x : Option Cohort) : (s.setCohort b x).hub = s.hub := rfl
@[simp] theorem State.setCohort_win (s : State) (b : Nat) (x : Option Cohort) : (s.setCohort b x).win = s.win := rfl
@[simp] theorem State.setCohort_parts (s : State) (b : Nat) (x : Option Cohort) : (s.setCohort b x).parts = s.parts := rfl
@[simp] theorem State.setCohort_rrPtr (s : State) (b : Nat) (x : Option Cohort) : (s.setCohort b x).rrPtr = s.rrPtr := rfl
@[simp] theorem State.setCohort_seq (s : State) (b : Nat) (x : Option Cohort) : (s.setCohort b x).seq = s.seq := rfl
@[simp] theorem State.setCohort_evbuf (s : State) (b : Nat) (x : Option Cohort) : (s.setCohort b x).evbuf = s.evbuf := rfl
@[simp] theorem State.setCohort_fwMeas (s : State) (b : Nat) (x : Option Cohort) : (s.setCohort b x).fwMeas = s.fwMeas := rfl
@[simp] theorem State.setCohort_lastEvent (s : State) (b : Nat) (x : Option Cohort) : (s.setCohort b x).lastEvent = s.lastEvent := rfl
@[simp] theorem State.setCohort_attMeas (s : State) (b : Nat) (x : Option Cohort) : (s.setCohort b x).attMeas = s.attMeas := rfl
@[simp] theorem State.setCohort_boostOpen (s : State) (b : Nat) (x : Option Cohort) : (s.setCohort b x).boostOpen = s.boostOpen := rfl
@[simp] theorem State.setCohort_boostLast (s : State) (b : Nat) (x : Option Cohort) : (s.setCohort b x).boostLast = s.boostLast := rfl
@[simp] theorem State.setCohort_rehang (s : State) (b : Nat) (x : Option Cohort) : (s.setCohort b x).rehang = s.rehang := rfl
@[simp] theorem State.setCohort_lastTick (s : State) (b : Nat) (x : Option Cohort) : (s.setCohort b x).lastTick = s.lastTick := rfl

/-! ### `setLaunch` -/

@[simp] theorem State.setLaunch_cycles (s : State) (l : Nat) (x : Option Launch) : (s.setLaunch l x).cycles = s.cycles := rfl
@[simp] theorem State.setLaunch_cur (s : State) (l : Nat) (x : Option Launch) : (s.setLaunch l x).cur = s.cur := rfl
@[simp] theorem State.setLaunch_script (s : State) (l : Nat) (x : Option Launch) : (s.setLaunch l x).script = s.script := rfl
@[simp] theorem State.setLaunch_free (s : State) (l : Nat) (x : Option Launch) : (s.setLaunch l x).free = s.free := rfl
@[simp] theorem State.setLaunch_nextId (s : State) (l : Nat) (x : Option Launch) : (s.setLaunch l x).nextId = s.nextId := rfl
@[simp] theorem State.setLaunch_word (s : State) (l : Nat) (x : Option Launch) : (s.setLaunch l x).word = s.word := rfl
@[simp] theorem State.setLaunch_ctxs (s : State) (l : Nat) (x : Option Launch) : (s.setLaunch l x).ctxs = s.ctxs := rfl
@[simp] theorem State.setLaunch_former (s : State) (l : Nat) (x : Option Launch) : (s.setLaunch l x).former = s.former := rfl
@[simp] theorem State.setLaunch_scopes (s : State) (l : Nat) (x : Option Launch) : (s.setLaunch l x).scopes = s.scopes := rfl
@[simp] theorem State.setLaunch_blocks (s : State) (l : Nat) (x : Option Launch) : (s.setLaunch l x).blocks = s.blocks := rfl
@[simp] theorem State.setLaunch_cohorts (s : State) (l : Nat) (x : Option Launch) : (s.setLaunch l x).cohorts = s.cohorts := rfl
@[simp] theorem State.setLaunch_queues (s : State) (l : Nat) (x : Option Launch) : (s.setLaunch l x).queues = s.queues := rfl
@[simp] theorem State.setLaunch_depWait (s : State) (l : Nat) (x : Option Launch) : (s.setLaunch l x).depWait = s.depWait := rfl
@[simp] theorem State.setLaunch_saved (s : State) (l : Nat) (x : Option Launch) : (s.setLaunch l x).saved = s.saved := rfl
@[simp] theorem State.setLaunch_cores (s : State) (l : Nat) (x : Option Launch) : (s.setLaunch l x).cores = s.cores := rfl
@[simp] theorem State.setLaunch_dies (s : State) (l : Nat) (x : Option Launch) : (s.setLaunch l x).dies = s.dies := rfl
@[simp] theorem State.setLaunch_sites (s : State) (l : Nat) (x : Option Launch) : (s.setLaunch l x).sites = s.sites := rfl
@[simp] theorem State.setLaunch_mem (s : State) (l : Nat) (x : Option Launch) : (s.setLaunch l x).mem = s.mem := rfl
@[simp] theorem State.setLaunch_hub (s : State) (l : Nat) (x : Option Launch) : (s.setLaunch l x).hub = s.hub := rfl
@[simp] theorem State.setLaunch_win (s : State) (l : Nat) (x : Option Launch) : (s.setLaunch l x).win = s.win := rfl
@[simp] theorem State.setLaunch_parts (s : State) (l : Nat) (x : Option Launch) : (s.setLaunch l x).parts = s.parts := rfl
@[simp] theorem State.setLaunch_rrPtr (s : State) (l : Nat) (x : Option Launch) : (s.setLaunch l x).rrPtr = s.rrPtr := rfl
@[simp] theorem State.setLaunch_seq (s : State) (l : Nat) (x : Option Launch) : (s.setLaunch l x).seq = s.seq := rfl
@[simp] theorem State.setLaunch_evbuf (s : State) (l : Nat) (x : Option Launch) : (s.setLaunch l x).evbuf = s.evbuf := rfl
@[simp] theorem State.setLaunch_fwMeas (s : State) (l : Nat) (x : Option Launch) : (s.setLaunch l x).fwMeas = s.fwMeas := rfl
@[simp] theorem State.setLaunch_lastEvent (s : State) (l : Nat) (x : Option Launch) : (s.setLaunch l x).lastEvent = s.lastEvent := rfl
@[simp] theorem State.setLaunch_attMeas (s : State) (l : Nat) (x : Option Launch) : (s.setLaunch l x).attMeas = s.attMeas := rfl
@[simp] theorem State.setLaunch_boostOpen (s : State) (l : Nat) (x : Option Launch) : (s.setLaunch l x).boostOpen = s.boostOpen := rfl
@[simp] theorem State.setLaunch_boostLast (s : State) (l : Nat) (x : Option Launch) : (s.setLaunch l x).boostLast = s.boostLast := rfl
@[simp] theorem State.setLaunch_rehang (s : State) (l : Nat) (x : Option Launch) : (s.setLaunch l x).rehang = s.rehang := rfl
@[simp] theorem State.setLaunch_lastTick (s : State) (l : Nat) (x : Option Launch) : (s.setLaunch l x).lastTick = s.lastTick := rfl

/-! ### `setQueue` -/

@[simp] theorem State.setQueue_cycles (s : State) (q : Nat) (x : List Waiting) : (s.setQueue q x).cycles = s.cycles := rfl
@[simp] theorem State.setQueue_cur (s : State) (q : Nat) (x : List Waiting) : (s.setQueue q x).cur = s.cur := rfl
@[simp] theorem State.setQueue_script (s : State) (q : Nat) (x : List Waiting) : (s.setQueue q x).script = s.script := rfl
@[simp] theorem State.setQueue_free (s : State) (q : Nat) (x : List Waiting) : (s.setQueue q x).free = s.free := rfl
@[simp] theorem State.setQueue_nextId (s : State) (q : Nat) (x : List Waiting) : (s.setQueue q x).nextId = s.nextId := rfl
@[simp] theorem State.setQueue_word (s : State) (q : Nat) (x : List Waiting) : (s.setQueue q x).word = s.word := rfl
@[simp] theorem State.setQueue_ctxs (s : State) (q : Nat) (x : List Waiting) : (s.setQueue q x).ctxs = s.ctxs := rfl
@[simp] theorem State.setQueue_former (s : State) (q : Nat) (x : List Waiting) : (s.setQueue q x).former = s.former := rfl
@[simp] theorem State.setQueue_scopes (s : State) (q : Nat) (x : List Waiting) : (s.setQueue q x).scopes = s.scopes := rfl
@[simp] theorem State.setQueue_blocks (s : State) (q : Nat) (x : List Waiting) : (s.setQueue q x).blocks = s.blocks := rfl
@[simp] theorem State.setQueue_cohorts (s : State) (q : Nat) (x : List Waiting) : (s.setQueue q x).cohorts = s.cohorts := rfl
@[simp] theorem State.setQueue_launches (s : State) (q : Nat) (x : List Waiting) : (s.setQueue q x).launches = s.launches := rfl
@[simp] theorem State.setQueue_depWait (s : State) (q : Nat) (x : List Waiting) : (s.setQueue q x).depWait = s.depWait := rfl
@[simp] theorem State.setQueue_saved (s : State) (q : Nat) (x : List Waiting) : (s.setQueue q x).saved = s.saved := rfl
@[simp] theorem State.setQueue_cores (s : State) (q : Nat) (x : List Waiting) : (s.setQueue q x).cores = s.cores := rfl
@[simp] theorem State.setQueue_dies (s : State) (q : Nat) (x : List Waiting) : (s.setQueue q x).dies = s.dies := rfl
@[simp] theorem State.setQueue_sites (s : State) (q : Nat) (x : List Waiting) : (s.setQueue q x).sites = s.sites := rfl
@[simp] theorem State.setQueue_mem (s : State) (q : Nat) (x : List Waiting) : (s.setQueue q x).mem = s.mem := rfl
@[simp] theorem State.setQueue_hub (s : State) (q : Nat) (x : List Waiting) : (s.setQueue q x).hub = s.hub := rfl
@[simp] theorem State.setQueue_win (s : State) (q : Nat) (x : List Waiting) : (s.setQueue q x).win = s.win := rfl
@[simp] theorem State.setQueue_parts (s : State) (q : Nat) (x : List Waiting) : (s.setQueue q x).parts = s.parts := rfl
@[simp] theorem State.setQueue_rrPtr (s : State) (q : Nat) (x : List Waiting) : (s.setQueue q x).rrPtr = s.rrPtr := rfl
@[simp] theorem State.setQueue_seq (s : State) (q : Nat) (x : List Waiting) : (s.setQueue q x).seq = s.seq := rfl
@[simp] theorem State.setQueue_evbuf (s : State) (q : Nat) (x : List Waiting) : (s.setQueue q x).evbuf = s.evbuf := rfl
@[simp] theorem State.setQueue_fwMeas (s : State) (q : Nat) (x : List Waiting) : (s.setQueue q x).fwMeas = s.fwMeas := rfl
@[simp] theorem State.setQueue_lastEvent (s : State) (q : Nat) (x : List Waiting) : (s.setQueue q x).lastEvent = s.lastEvent := rfl
@[simp] theorem State.setQueue_attMeas (s : State) (q : Nat) (x : List Waiting) : (s.setQueue q x).attMeas = s.attMeas := rfl
@[simp] theorem State.setQueue_boostOpen (s : State) (q : Nat) (x : List Waiting) : (s.setQueue q x).boostOpen = s.boostOpen := rfl
@[simp] theorem State.setQueue_boostLast (s : State) (q : Nat) (x : List Waiting) : (s.setQueue q x).boostLast = s.boostLast := rfl
@[simp] theorem State.setQueue_rehang (s : State) (q : Nat) (x : List Waiting) : (s.setQueue q x).rehang = s.rehang := rfl
@[simp] theorem State.setQueue_lastTick (s : State) (q : Nat) (x : List Waiting) : (s.setQueue q x).lastTick = s.lastTick := rfl

/-! ### `setHub` -/

theorem State.with_hub_cycles (s : State) (h : Sparse Word) : (State.cycles { s with hub := h }) = s.cycles := rfl
theorem State.with_hub_cur (s : State) (h : Sparse Word) : (State.cur { s with hub := h }) = s.cur := rfl
theorem State.with_hub_script (s : State) (h : Sparse Word) : (State.script { s with hub := h }) = s.script := rfl
theorem State.with_hub_free (s : State) (h : Sparse Word) : (State.free { s with hub := h }) = s.free := rfl
theorem State.with_hub_nextId (s : State) (h : Sparse Word) : (State.nextId { s with hub := h }) = s.nextId := rfl
theorem State.with_hub_word (s : State) (h : Sparse Word) : (State.word { s with hub := h }) = s.word := rfl
theorem State.with_hub_ctxs (s : State) (h : Sparse Word) : (State.ctxs { s with hub := h }) = s.ctxs := rfl
theorem State.with_hub_former (s : State) (h : Sparse Word) : (State.former { s with hub := h }) = s.former := rfl
theorem State.with_hub_scopes (s : State) (h : Sparse Word) : (State.scopes { s with hub := h }) = s.scopes := rfl
theorem State.with_hub_blocks (s : State) (h : Sparse Word) : (State.blocks { s with hub := h }) = s.blocks := rfl
theorem State.with_hub_cohorts (s : State) (h : Sparse Word) : (State.cohorts { s with hub := h }) = s.cohorts := rfl
theorem State.with_hub_launches (s : State) (h : Sparse Word) : (State.launches { s with hub := h }) = s.launches := rfl
theorem State.with_hub_queues (s : State) (h : Sparse Word) : (State.queues { s with hub := h }) = s.queues := rfl
theorem State.with_hub_depWait (s : State) (h : Sparse Word) : (State.depWait { s with hub := h }) = s.depWait := rfl
theorem State.with_hub_saved (s : State) (h : Sparse Word) : (State.saved { s with hub := h }) = s.saved := rfl
theorem State.with_hub_cores (s : State) (h : Sparse Word) : (State.cores { s with hub := h }) = s.cores := rfl
theorem State.with_hub_dies (s : State) (h : Sparse Word) : (State.dies { s with hub := h }) = s.dies := rfl
theorem State.with_hub_sites (s : State) (h : Sparse Word) : (State.sites { s with hub := h }) = s.sites := rfl
theorem State.with_hub_mem (s : State) (h : Sparse Word) : (State.mem { s with hub := h }) = s.mem := rfl
theorem State.with_hub_win (s : State) (h : Sparse Word) : (State.win { s with hub := h }) = s.win := rfl
theorem State.with_hub_parts (s : State) (h : Sparse Word) : (State.parts { s with hub := h }) = s.parts := rfl
theorem State.with_hub_rrPtr (s : State) (h : Sparse Word) : (State.rrPtr { s with hub := h }) = s.rrPtr := rfl
theorem State.with_hub_seq (s : State) (h : Sparse Word) : (State.seq { s with hub := h }) = s.seq := rfl
theorem State.with_hub_evbuf (s : State) (h : Sparse Word) : (State.evbuf { s with hub := h }) = s.evbuf := rfl
theorem State.with_hub_fwMeas (s : State) (h : Sparse Word) : (State.fwMeas { s with hub := h }) = s.fwMeas := rfl
theorem State.with_hub_lastEvent (s : State) (h : Sparse Word) : (State.lastEvent { s with hub := h }) = s.lastEvent := rfl
theorem State.with_hub_attMeas (s : State) (h : Sparse Word) : (State.attMeas { s with hub := h }) = s.attMeas := rfl
theorem State.with_hub_boostOpen (s : State) (h : Sparse Word) : (State.boostOpen { s with hub := h }) = s.boostOpen := rfl
theorem State.with_hub_boostLast (s : State) (h : Sparse Word) : (State.boostLast { s with hub := h }) = s.boostLast := rfl
theorem State.with_hub_rehang (s : State) (h : Sparse Word) : (State.rehang { s with hub := h }) = s.rehang := rfl
theorem State.with_hub_lastTick (s : State) (h : Sparse Word) : (State.lastTick { s with hub := h }) = s.lastTick := rfl

@[simp] theorem State.setHub_cycles (s : State) (off : Nat) (v : Word) : (s.setHub off v).cycles = s.cycles := s.with_hub_cycles _
@[simp] theorem State.setHub_cur (s : State) (off : Nat) (v : Word) : (s.setHub off v).cur = s.cur := s.with_hub_cur _
@[simp] theorem State.setHub_script (s : State) (off : Nat) (v : Word) : (s.setHub off v).script = s.script := s.with_hub_script _
@[simp] theorem State.setHub_free (s : State) (off : Nat) (v : Word) : (s.setHub off v).free = s.free := s.with_hub_free _
@[simp] theorem State.setHub_nextId (s : State) (off : Nat) (v : Word) : (s.setHub off v).nextId = s.nextId := s.with_hub_nextId _
@[simp] theorem State.setHub_word (s : State) (off : Nat) (v : Word) : (s.setHub off v).word = s.word := s.with_hub_word _
@[simp] theorem State.setHub_ctxs (s : State) (off : Nat) (v : Word) : (s.setHub off v).ctxs = s.ctxs := s.with_hub_ctxs _
@[simp] theorem State.setHub_former (s : State) (off : Nat) (v : Word) : (s.setHub off v).former = s.former := s.with_hub_former _
@[simp] theorem State.setHub_scopes (s : State) (off : Nat) (v : Word) : (s.setHub off v).scopes = s.scopes := s.with_hub_scopes _
@[simp] theorem State.setHub_blocks (s : State) (off : Nat) (v : Word) : (s.setHub off v).blocks = s.blocks := s.with_hub_blocks _
@[simp] theorem State.setHub_cohorts (s : State) (off : Nat) (v : Word) : (s.setHub off v).cohorts = s.cohorts := s.with_hub_cohorts _
@[simp] theorem State.setHub_launches (s : State) (off : Nat) (v : Word) : (s.setHub off v).launches = s.launches := s.with_hub_launches _
@[simp] theorem State.setHub_queues (s : State) (off : Nat) (v : Word) : (s.setHub off v).queues = s.queues := s.with_hub_queues _
@[simp] theorem State.setHub_depWait (s : State) (off : Nat) (v : Word) : (s.setHub off v).depWait = s.depWait := s.with_hub_depWait _
@[simp] theorem State.setHub_saved (s : State) (off : Nat) (v : Word) : (s.setHub off v).saved = s.saved := s.with_hub_saved _
@[simp] theorem State.setHub_cores (s : State) (off : Nat) (v : Word) : (s.setHub off v).cores = s.cores := s.with_hub_cores _
@[simp] theorem State.setHub_dies (s : State) (off : Nat) (v : Word) : (s.setHub off v).dies = s.dies := s.with_hub_dies _
@[simp] theorem State.setHub_sites (s : State) (off : Nat) (v : Word) : (s.setHub off v).sites = s.sites := s.with_hub_sites _
@[simp] theorem State.setHub_mem (s : State) (off : Nat) (v : Word) : (s.setHub off v).mem = s.mem := s.with_hub_mem _
@[simp] theorem State.setHub_win (s : State) (off : Nat) (v : Word) : (s.setHub off v).win = s.win := s.with_hub_win _
@[simp] theorem State.setHub_parts (s : State) (off : Nat) (v : Word) : (s.setHub off v).parts = s.parts := s.with_hub_parts _
@[simp] theorem State.setHub_rrPtr (s : State) (off : Nat) (v : Word) : (s.setHub off v).rrPtr = s.rrPtr := s.with_hub_rrPtr _
@[simp] theorem State.setHub_seq (s : State) (off : Nat) (v : Word) : (s.setHub off v).seq = s.seq := s.with_hub_seq _
@[simp] theorem State.setHub_evbuf (s : State) (off : Nat) (v : Word) : (s.setHub off v).evbuf = s.evbuf := s.with_hub_evbuf _
@[simp] theorem State.setHub_fwMeas (s : State) (off : Nat) (v : Word) : (s.setHub off v).fwMeas = s.fwMeas := s.with_hub_fwMeas _
@[simp] theorem State.setHub_lastEvent (s : State) (off : Nat) (v : Word) : (s.setHub off v).lastEvent = s.lastEvent := s.with_hub_lastEvent _
@[simp] theorem State.setHub_attMeas (s : State) (off : Nat) (v : Word) : (s.setHub off v).attMeas = s.attMeas := s.with_hub_attMeas _
@[simp] theorem State.setHub_boostOpen (s : State) (off : Nat) (v : Word) : (s.setHub off v).boostOpen = s.boostOpen := s.with_hub_boostOpen _
@[simp] theorem State.setHub_boostLast (s : State) (off : Nat) (v : Word) : (s.setHub off v).boostLast = s.boostLast := s.with_hub_boostLast _
@[simp] theorem State.setHub_rehang (s : State) (off : Nat) (v : Word) : (s.setHub off v).rehang = s.rehang := s.with_hub_rehang _
@[simp] theorem State.setHub_lastTick (s : State) (off : Nat) (v : Word) : (s.setHub off v).lastTick = s.lastTick := s.with_hub_lastTick _

/-! ### `setWin` -/

theorem State.with_win_cycles (s : State) (h : Sparse Word) : (State.cycles { s with win := h }) = s.cycles := rfl
theorem State.with_win_cur (s : State) (h : Sparse Word) : (State.cur { s with win := h }) = s.cur := rfl
theorem State.with_win_script (s : State) (h : Sparse Word) : (State.script { s with win := h }) = s.script := rfl
theorem State.with_win_free (s : State) (h : Sparse Word) : (State.free { s with win := h }) = s.free := rfl
theorem State.with_win_nextId (s : State) (h : Sparse Word) : (State.nextId { s with win := h }) = s.nextId := rfl
theorem State.with_win_word (s : State) (h : Sparse Word) : (State.word { s with win := h }) = s.word := rfl
theorem State.with_win_ctxs (s : State) (h : Sparse Word) : (State.ctxs { s with win := h }) = s.ctxs := rfl
theorem State.with_win_former (s : State) (h : Sparse Word) : (State.former { s with win := h }) = s.former := rfl
theorem State.with_win_scopes (s : State) (h : Sparse Word) : (State.scopes { s with win := h }) = s.scopes := rfl
theorem State.with_win_blocks (s : State) (h : Sparse Word) : (State.blocks { s with win := h }) = s.blocks := rfl
theorem State.with_win_cohorts (s : State) (h : Sparse Word) : (State.cohorts { s with win := h }) = s.cohorts := rfl
theorem State.with_win_launches (s : State) (h : Sparse Word) : (State.launches { s with win := h }) = s.launches := rfl
theorem State.with_win_queues (s : State) (h : Sparse Word) : (State.queues { s with win := h }) = s.queues := rfl
theorem State.with_win_depWait (s : State) (h : Sparse Word) : (State.depWait { s with win := h }) = s.depWait := rfl
theorem State.with_win_saved (s : State) (h : Sparse Word) : (State.saved { s with win := h }) = s.saved := rfl
theorem State.with_win_cores (s : State) (h : Sparse Word) : (State.cores { s with win := h }) = s.cores := rfl
theorem State.with_win_dies (s : State) (h : Sparse Word) : (State.dies { s with win := h }) = s.dies := rfl
theorem State.with_win_sites (s : State) (h : Sparse Word) : (State.sites { s with win := h }) = s.sites := rfl
theorem State.with_win_mem (s : State) (h : Sparse Word) : (State.mem { s with win := h }) = s.mem := rfl
theorem State.with_win_hub (s : State) (h : Sparse Word) : (State.hub { s with win := h }) = s.hub := rfl
theorem State.with_win_parts (s : State) (h : Sparse Word) : (State.parts { s with win := h }) = s.parts := rfl
theorem State.with_win_rrPtr (s : State) (h : Sparse Word) : (State.rrPtr { s with win := h }) = s.rrPtr := rfl
theorem State.with_win_seq (s : State) (h : Sparse Word) : (State.seq { s with win := h }) = s.seq := rfl
theorem State.with_win_evbuf (s : State) (h : Sparse Word) : (State.evbuf { s with win := h }) = s.evbuf := rfl
theorem State.with_win_fwMeas (s : State) (h : Sparse Word) : (State.fwMeas { s with win := h }) = s.fwMeas := rfl
theorem State.with_win_lastEvent (s : State) (h : Sparse Word) : (State.lastEvent { s with win := h }) = s.lastEvent := rfl
theorem State.with_win_attMeas (s : State) (h : Sparse Word) : (State.attMeas { s with win := h }) = s.attMeas := rfl
theorem State.with_win_boostOpen (s : State) (h : Sparse Word) : (State.boostOpen { s with win := h }) = s.boostOpen := rfl
theorem State.with_win_boostLast (s : State) (h : Sparse Word) : (State.boostLast { s with win := h }) = s.boostLast := rfl
theorem State.with_win_rehang (s : State) (h : Sparse Word) : (State.rehang { s with win := h }) = s.rehang := rfl
theorem State.with_win_lastTick (s : State) (h : Sparse Word) : (State.lastTick { s with win := h }) = s.lastTick := rfl

@[simp] theorem State.setWin_cycles (s : State) (site off : Nat) (v : Word) : (s.setWin site off v).cycles = s.cycles := s.with_win_cycles _
@[simp] theorem State.setWin_cur (s : State) (site off : Nat) (v : Word) : (s.setWin site off v).cur = s.cur := s.with_win_cur _
@[simp] theorem State.setWin_script (s : State) (site off : Nat) (v : Word) : (s.setWin site off v).script = s.script := s.with_win_script _
@[simp] theorem State.setWin_free (s : State) (site off : Nat) (v : Word) : (s.setWin site off v).free = s.free := s.with_win_free _
@[simp] theorem State.setWin_nextId (s : State) (site off : Nat) (v : Word) : (s.setWin site off v).nextId = s.nextId := s.with_win_nextId _
@[simp] theorem State.setWin_word (s : State) (site off : Nat) (v : Word) : (s.setWin site off v).word = s.word := s.with_win_word _
@[simp] theorem State.setWin_ctxs (s : State) (site off : Nat) (v : Word) : (s.setWin site off v).ctxs = s.ctxs := s.with_win_ctxs _
@[simp] theorem State.setWin_former (s : State) (site off : Nat) (v : Word) : (s.setWin site off v).former = s.former := s.with_win_former _
@[simp] theorem State.setWin_scopes (s : State) (site off : Nat) (v : Word) : (s.setWin site off v).scopes = s.scopes := s.with_win_scopes _
@[simp] theorem State.setWin_blocks (s : State) (site off : Nat) (v : Word) : (s.setWin site off v).blocks = s.blocks := s.with_win_blocks _
@[simp] theorem State.setWin_cohorts (s : State) (site off : Nat) (v : Word) : (s.setWin site off v).cohorts = s.cohorts := s.with_win_cohorts _
@[simp] theorem State.setWin_launches (s : State) (site off : Nat) (v : Word) : (s.setWin site off v).launches = s.launches := s.with_win_launches _
@[simp] theorem State.setWin_queues (s : State) (site off : Nat) (v : Word) : (s.setWin site off v).queues = s.queues := s.with_win_queues _
@[simp] theorem State.setWin_depWait (s : State) (site off : Nat) (v : Word) : (s.setWin site off v).depWait = s.depWait := s.with_win_depWait _
@[simp] theorem State.setWin_saved (s : State) (site off : Nat) (v : Word) : (s.setWin site off v).saved = s.saved := s.with_win_saved _
@[simp] theorem State.setWin_cores (s : State) (site off : Nat) (v : Word) : (s.setWin site off v).cores = s.cores := s.with_win_cores _
@[simp] theorem State.setWin_dies (s : State) (site off : Nat) (v : Word) : (s.setWin site off v).dies = s.dies := s.with_win_dies _
@[simp] theorem State.setWin_sites (s : State) (site off : Nat) (v : Word) : (s.setWin site off v).sites = s.sites := s.with_win_sites _
@[simp] theorem State.setWin_mem (s : State) (site off : Nat) (v : Word) : (s.setWin site off v).mem = s.mem := s.with_win_mem _
@[simp] theorem State.setWin_hub (s : State) (site off : Nat) (v : Word) : (s.setWin site off v).hub = s.hub := s.with_win_hub _
@[simp] theorem State.setWin_parts (s : State) (site off : Nat) (v : Word) : (s.setWin site off v).parts = s.parts := s.with_win_parts _
@[simp] theorem State.setWin_rrPtr (s : State) (site off : Nat) (v : Word) : (s.setWin site off v).rrPtr = s.rrPtr := s.with_win_rrPtr _
@[simp] theorem State.setWin_seq (s : State) (site off : Nat) (v : Word) : (s.setWin site off v).seq = s.seq := s.with_win_seq _
@[simp] theorem State.setWin_evbuf (s : State) (site off : Nat) (v : Word) : (s.setWin site off v).evbuf = s.evbuf := s.with_win_evbuf _
@[simp] theorem State.setWin_fwMeas (s : State) (site off : Nat) (v : Word) : (s.setWin site off v).fwMeas = s.fwMeas := s.with_win_fwMeas _
@[simp] theorem State.setWin_lastEvent (s : State) (site off : Nat) (v : Word) : (s.setWin site off v).lastEvent = s.lastEvent := s.with_win_lastEvent _
@[simp] theorem State.setWin_attMeas (s : State) (site off : Nat) (v : Word) : (s.setWin site off v).attMeas = s.attMeas := s.with_win_attMeas _
@[simp] theorem State.setWin_boostOpen (s : State) (site off : Nat) (v : Word) : (s.setWin site off v).boostOpen = s.boostOpen := s.with_win_boostOpen _
@[simp] theorem State.setWin_boostLast (s : State) (site off : Nat) (v : Word) : (s.setWin site off v).boostLast = s.boostLast := s.with_win_boostLast _
@[simp] theorem State.setWin_rehang (s : State) (site off : Nat) (v : Word) : (s.setWin site off v).rehang = s.rehang := s.with_win_rehang _
@[simp] theorem State.setWin_lastTick (s : State) (site off : Nat) (v : Word) : (s.setWin site off v).lastTick = s.lastTick := s.with_win_lastTick _

/-! ### `setMem` -/

@[simp] theorem State.setMem_cycles (s : State) (m : Mem) : (s.setMem m).cycles = s.cycles := rfl
@[simp] theorem State.setMem_cur (s : State) (m : Mem) : (s.setMem m).cur = s.cur := rfl
@[simp] theorem State.setMem_script (s : State) (m : Mem) : (s.setMem m).script = s.script := rfl
@[simp] theorem State.setMem_free (s : State) (m : Mem) : (s.setMem m).free = s.free := rfl
@[simp] theorem State.setMem_nextId (s : State) (m : Mem) : (s.setMem m).nextId = s.nextId := rfl
@[simp] theorem State.setMem_word (s : State) (m : Mem) : (s.setMem m).word = s.word := rfl
@[simp] theorem State.setMem_ctxs (s : State) (m : Mem) : (s.setMem m).ctxs = s.ctxs := rfl
@[simp] theorem State.setMem_former (s : State) (m : Mem) : (s.setMem m).former = s.former := rfl
@[simp] theorem State.setMem_scopes (s : State) (m : Mem) : (s.setMem m).scopes = s.scopes := rfl
@[simp] theorem State.setMem_blocks (s : State) (m : Mem) : (s.setMem m).blocks = s.blocks := rfl
@[simp] theorem State.setMem_cohorts (s : State) (m : Mem) : (s.setMem m).cohorts = s.cohorts := rfl
@[simp] theorem State.setMem_launches (s : State) (m : Mem) : (s.setMem m).launches = s.launches := rfl
@[simp] theorem State.setMem_queues (s : State) (m : Mem) : (s.setMem m).queues = s.queues := rfl
@[simp] theorem State.setMem_depWait (s : State) (m : Mem) : (s.setMem m).depWait = s.depWait := rfl
@[simp] theorem State.setMem_saved (s : State) (m : Mem) : (s.setMem m).saved = s.saved := rfl
@[simp] theorem State.setMem_cores (s : State) (m : Mem) : (s.setMem m).cores = s.cores := rfl
@[simp] theorem State.setMem_dies (s : State) (m : Mem) : (s.setMem m).dies = s.dies := rfl
@[simp] theorem State.setMem_sites (s : State) (m : Mem) : (s.setMem m).sites = s.sites := rfl
@[simp] theorem State.setMem_hub (s : State) (m : Mem) : (s.setMem m).hub = s.hub := rfl
@[simp] theorem State.setMem_win (s : State) (m : Mem) : (s.setMem m).win = s.win := rfl
@[simp] theorem State.setMem_parts (s : State) (m : Mem) : (s.setMem m).parts = s.parts := rfl
@[simp] theorem State.setMem_rrPtr (s : State) (m : Mem) : (s.setMem m).rrPtr = s.rrPtr := rfl
@[simp] theorem State.setMem_seq (s : State) (m : Mem) : (s.setMem m).seq = s.seq := rfl
@[simp] theorem State.setMem_evbuf (s : State) (m : Mem) : (s.setMem m).evbuf = s.evbuf := rfl
@[simp] theorem State.setMem_fwMeas (s : State) (m : Mem) : (s.setMem m).fwMeas = s.fwMeas := rfl
@[simp] theorem State.setMem_lastEvent (s : State) (m : Mem) : (s.setMem m).lastEvent = s.lastEvent := rfl
@[simp] theorem State.setMem_attMeas (s : State) (m : Mem) : (s.setMem m).attMeas = s.attMeas := rfl
@[simp] theorem State.setMem_boostOpen (s : State) (m : Mem) : (s.setMem m).boostOpen = s.boostOpen := rfl
@[simp] theorem State.setMem_boostLast (s : State) (m : Mem) : (s.setMem m).boostLast = s.boostLast := rfl
@[simp] theorem State.setMem_rehang (s : State) (m : Mem) : (s.setMem m).rehang = s.rehang := rfl
@[simp] theorem State.setMem_lastTick (s : State) (m : Mem) : (s.setMem m).lastTick = s.lastTick := rfl

/-! ### `takeFree` -/

@[simp] theorem State.takeFree_cycles (s : State) : (s.takeFree).cycles = s.cycles := rfl
@[simp] theorem State.takeFree_cur (s : State) : (s.takeFree).cur = s.cur := rfl
@[simp] theorem State.takeFree_script (s : State) : (s.takeFree).script = s.script := rfl
@[simp] theorem State.takeFree_nextId (s : State) : (s.takeFree).nextId = s.nextId := rfl
@[simp] theorem State.takeFree_word (s : State) : (s.takeFree).word = s.word := rfl
@[simp] theorem State.takeFree_ctxs (s : State) : (s.takeFree).ctxs = s.ctxs := rfl
@[simp] theorem State.takeFree_former (s : State) : (s.takeFree).former = s.former := rfl
@[simp] theorem State.takeFree_scopes (s : State) : (s.takeFree).scopes = s.scopes := rfl
@[simp] theorem State.takeFree_blocks (s : State) : (s.takeFree).blocks = s.blocks := rfl
@[simp] theorem State.takeFree_cohorts (s : State) : (s.takeFree).cohorts = s.cohorts := rfl
@[simp] theorem State.takeFree_launches (s : State) : (s.takeFree).launches = s.launches := rfl
@[simp] theorem State.takeFree_queues (s : State) : (s.takeFree).queues = s.queues := rfl
@[simp] theorem State.takeFree_depWait (s : State) : (s.takeFree).depWait = s.depWait := rfl
@[simp] theorem State.takeFree_saved (s : State) : (s.takeFree).saved = s.saved := rfl
@[simp] theorem State.takeFree_cores (s : State) : (s.takeFree).cores = s.cores := rfl
@[simp] theorem State.takeFree_dies (s : State) : (s.takeFree).dies = s.dies := rfl
@[simp] theorem State.takeFree_sites (s : State) : (s.takeFree).sites = s.sites := rfl
@[simp] theorem State.takeFree_mem (s : State) : (s.takeFree).mem = s.mem := rfl
@[simp] theorem State.takeFree_hub (s : State) : (s.takeFree).hub = s.hub := rfl
@[simp] theorem State.takeFree_win (s : State) : (s.takeFree).win = s.win := rfl
@[simp] theorem State.takeFree_parts (s : State) : (s.takeFree).parts = s.parts := rfl
@[simp] theorem State.takeFree_rrPtr (s : State) : (s.takeFree).rrPtr = s.rrPtr := rfl
@[simp] theorem State.takeFree_seq (s : State) : (s.takeFree).seq = s.seq := rfl
@[simp] theorem State.takeFree_evbuf (s : State) : (s.takeFree).evbuf = s.evbuf := rfl
@[simp] theorem State.takeFree_fwMeas (s : State) : (s.takeFree).fwMeas = s.fwMeas := rfl
@[simp] theorem State.takeFree_lastEvent (s : State) : (s.takeFree).lastEvent = s.lastEvent := rfl
@[simp] theorem State.takeFree_attMeas (s : State) : (s.takeFree).attMeas = s.attMeas := rfl
@[simp] theorem State.takeFree_boostOpen (s : State) : (s.takeFree).boostOpen = s.boostOpen := rfl
@[simp] theorem State.takeFree_boostLast (s : State) : (s.takeFree).boostLast = s.boostLast := rfl
@[simp] theorem State.takeFree_rehang (s : State) : (s.takeFree).rehang = s.rehang := rfl
@[simp] theorem State.takeFree_lastTick (s : State) : (s.takeFree).lastTick = s.lastTick := rfl
@[simp] theorem State.setMem_mem (s : State) (m : Mem) : (s.setMem m).mem = m := rfl
@[simp] theorem State.takeFree_free (s : State) : s.takeFree.free = s.free + 1 := rfl

end Sys2Proof.Machine
end

