-- ==== Sys2Proof/Laws/Memory.lean ====
section
/-! SUPPORT. Home memory: every operation that writes its bytes, descriptors or poison keeps the canonical form, and says which keys it
changes. -/

namespace Sys2Proof

/-! ### Moving entries -/

namespace Sparse
variable {α : Type}

/-- Insertions under keys that are all new keep keys rising. -/
theorem rising_foldl_ins (g : Nat × α → Nat) (l : List (Nat × α)) :
    ∀ m : Sparse α, rising 0 m = true → (∀ x ∈ l, ∀ p ∈ m, p.1 ≠ g x) → l.Pairwise (fun x y => g x ≠ g y) →
      rising 0 (l.foldl (fun m x => ins m (g x) x.2) m) = true := by
  induction l with
  | nil => intro m h _ _; exact h
  | cons x r ih =>
    intro m h hn hp
    rw [List.pairwise_cons] at hp
    refine ih _ (rising_ins _ _ _ _ h (Nat.zero_le _) (hn x (by simp))) ?_ hp.2
    intro y hy p hpm
    rcases mem_ins _ _ _ _ hpm with rfl | h1
    · exact hp.1 y hy
    · exact hn y (by simp [hy]) p h1

theorem mem_foldl_ins (g : Nat × α → Nat) (l : List (Nat × α)) :
    ∀ (m : Sparse α) p, p ∈ l.foldl (fun m x => ins m (g x) x.2) m → p ∈ m ∨ ∃ x ∈ l, p.2 = x.2 := by
  induction l with
  | nil => intro m p h; exact .inl h
  | cons x r ih =>
    intro m p h
    rcases ih _ p h with h1 | ⟨y, hy, e⟩
    · rcases mem_ins _ _ _ _ h1 with rfl | h2
      · exact .inr ⟨x, by simp, rfl⟩
      · exact .inl h2
    · exact .inr ⟨y, by simp [hy], e⟩

theorem rising_pairwise (m : Sparse α) : ∀ lo, rising lo m = true → (∀ p ∈ m, lo ≤ p.1) ∧ m.Pairwise (fun p q => p.1 < q.1) := by
  induction m with
  | nil => intro lo _; simp
  | cons p r ih =>
    intro lo h
    simp only [rising, Bool.and_eq_true, decide_eq_true_eq] at h
    have ⟨h1, h2⟩ := ih _ h.2
    refine ⟨?_, List.pairwise_cons.mpr ⟨fun q hq => h1 q hq, h2⟩⟩
    intro q hq
    rcases List.mem_cons.mp hq with rfl | hq
    · exact h.1
    · exact Nat.le_trans h.1 (Nat.le_of_succ_le (h1 q hq))

end Sparse

namespace Machine

/-- Exchanging two ranges of keys that are the same or apart keeps the canonical form, where the background is one value. -/
theorem wf_swapKeys {α : Type} [DecidableEq α] (v : α) (a b len : Nat) (m : Sparse α) (hab : a = b ∨ a + len ≤ b ∨ b + len ≤ a)
    (h : Sparse.wf (fun _ => v) m = true) : Sparse.wf (fun _ => v) (swapKeys a b len m) = true := by
  simp only [Sparse.wf, Bool.and_eq_true, List.all_eq_true, decide_eq_true_eq] at h ⊢
  obtain ⟨h1, h2⟩ := h
  have hp := (Sparse.rising_pairwise m 0 h1).2
  unfold swapKeys
  simp only []
  constructor
  · refine Sparse.rising_foldl_ins (fun x => if decide (a ≤ x.1) && decide (x.1 < a + len) then x.1 - a + b else x.1 - b + a) _ _
      (Sparse.rising_filter _ _ _ h1) ?_ ?_
    · intro x hx p hpm
      simp only [List.mem_filter, Bool.or_eq_true, Bool.and_eq_true, decide_eq_true_eq, Bool.not_eq_true', Bool.or_eq_false_iff,
        Bool.and_eq_false_iff, decide_eq_false_iff_not] at hx hpm
      simp only [Bool.and_eq_true, decide_eq_true_eq]
      split <;> omega
    · refine List.Pairwise.imp_of_mem ?_ (hp.filter _)
      intro x y hx hy hxy
      simp only [List.mem_filter, Bool.or_eq_true, Bool.and_eq_true, decide_eq_true_eq] at hx hy
      simp only [Bool.and_eq_true, decide_eq_true_eq]
      split <;> split <;> omega
  · intro p hp'
    rcases Sparse.mem_foldl_ins (fun x => if decide (a ≤ x.1) && decide (x.1 < a + len) then x.1 - a + b else x.1 - b + a) _ _ _ hp' with
      h3 | ⟨x, hx, e⟩
    · exact h2 p (List.mem_filter.mp h3).1
    · rw [e]; exact h2 x (List.mem_filter.mp hx).1

/-! ### The operations on home memory -/

/-- Only these three stores are part of the canonical form. -/
theorem Mem.wf_congr {m n : Mem} (hb : n.bytes = m.bytes) (hd : n.desc = m.desc) (hp : n.poison = m.poison) : n.wf = m.wf := by
  simp only [Mem.wf, hb, hd, hp]

theorem Mem.wf_iff (m : Mem) :
    m.wf = true ↔ Sparse.wf byte0 m.bytes = true ∧ Sparse.wf desc0 m.desc = true ∧ Sparse.wf poison0 m.poison = true := by
  simp [Mem.wf, and_assoc]

theorem putBytes_wf (l : List Byte) : ∀ (m : Mem) (k : Nat), m.wf = true → (putBytes m k l).wf = true := by
  induction l with
  | nil => intro m k h; exact h
  | cons b r ih =>
    intro m k h
    refine ih _ _ ?_
    rw [Mem.wf_iff] at h ⊢
    exact ⟨Sparse.wf_put _ _ _ _ h.1, h.2⟩

theorem putDesc_wf (m : Mem) (k : Nat) (d : BitVec 16) (h : m.wf = true) : (putDesc m k d).wf = true := by
  rw [Mem.wf_iff] at h ⊢; exact ⟨h.1, Sparse.wf_put _ _ _ _ h.2.1, h.2.2⟩

theorem putPoison_wf (m : Mem) (k : Nat) (b : Bool) (h : m.wf = true) : (putPoison m k b).wf = true := by
  rw [Mem.wf_iff] at h ⊢; exact ⟨h.1, h.2.1, Sparse.wf_put _ _ _ _ h.2.2⟩

theorem clearKeys_wf (m : Mem) (f : Nat → Bool) (h : m.wf = true) : (clearKeys m f).wf = true := by
  rw [Mem.wf_iff] at h ⊢
  exact ⟨Sparse.wf_filter _ _ _ h.1, Sparse.wf_filter _ _ _ h.2.1, Sparse.wf_filter _ _ _ h.2.2⟩

/-- The byte stored at a key after a run of bytes is written from `k`: those of the run there, the others as before. -/
theorem putBytes_get (l : List Byte) : ∀ (m : Mem) (k j : Nat),
    Sparse.get byte0 (putBytes m k l).bytes j = if k ≤ j ∧ j < k + l.length then l.getD (j - k) 0 else Sparse.get byte0 m.bytes j := by
  induction l with
  | nil => intro m k j; exact (if_neg (by show ¬(k ≤ j ∧ j < k + 0); omega)).symm
  | cons b r ih =>
    intro m k j
    show Sparse.get byte0 (putBytes _ (k + 1) r).bytes j = _
    rw [ih]
    by_cases h0 : j = k
    · subst h0
      rw [if_neg (by omega)]
      simp
    · by_cases h1 : k + 1 ≤ j ∧ j < k + 1 + r.length
      · have h2 : k ≤ j ∧ j < k + (b :: r).length := by simp; omega
        rw [if_pos h1, if_pos h2]
        obtain ⟨i, rfl⟩ : ∃ i, j = k + 1 + i := ⟨j - k - 1, by omega⟩
        have e1 : k + 1 + i - (k + 1) = i := by omega
        have e2 : k + 1 + i - k = i + 1 := by omega
        rw [e1, e2]; simp
      · have h2 : ¬ (k ≤ j ∧ j < k + (b :: r).length) := by simp; omega
        rw [if_neg h1, if_neg h2]
        exact Sparse.get_put_ne _ _ _ h0

@[simp] theorem putBytes_desc (l : List Byte) : ∀ (m : Mem) (k : Nat), (putBytes m k l).desc = m.desc := by
  induction l with
  | nil => intro m k; rfl
  | cons b r ih => intro m k; exact ih _ _

@[simp] theorem putBytes_poison (l : List Byte) : ∀ (m : Mem) (k : Nat), (putBytes m k l).poison = m.poison := by
  induction l with
  | nil => intro m k; rfl
  | cons b r ih => intro m k; exact ih _ _

@[simp] theorem putDesc_bytes (m : Mem) (k : Nat) (d : BitVec 16) : (putDesc m k d).bytes = m.bytes := rfl
@[simp] theorem putPoison_bytes (m : Mem) (k : Nat) (b : Bool) : (putPoison m k b).bytes = m.bytes := rfl

end Machine
end Sys2Proof
end

