-- ==== Sys2Proof/Laws/Units.lean ====
section
/-! SUPPORT. Contexts and their registers: what a read after an update of a unit, a core or a register gives. -/

namespace Sys2Proof.Machine

/-! ### Units, cores, sites -/

theorem State.ctx_setCtx (s : State) (u v : Nat) (c : Ctx) : (s.setCtx u c).ctx v = if v = u then c else s.ctx v :=
  Sparse.get_set _ _ _ _ _
@[simp] theorem State.ctx_setCtx_self (s : State) (u : Nat) (c : Ctx) : (s.setCtx u c).ctx u = c := by simp [State.ctx_setCtx]
theorem State.ctx_setCtx_ne (s : State) {u v : Nat} (c : Ctx) (h : v ≠ u) : (s.setCtx u c).ctx v = s.ctx v := by
  simp [State.ctx_setCtx, h]
@[simp] theorem State.me_setMe (s : State) (c : Ctx) : (s.setMe c).me = c := State.ctx_setCtx_self s s.cur c
theorem State.ctx_setMe_ne (s : State) {u : Nat} (c : Ctx) (h : u ≠ s.cur) : (s.setMe c).ctx u = s.ctx u := State.ctx_setCtx_ne s c h
theorem State.core_setCore (s : State) (c d : Nat) (x : Core) : (s.setCore c x).core d = if d = c then x else s.core d :=
  Sparse.get_set _ _ _ _ _
@[simp] theorem State.core_setCore_self (s : State) (c : Nat) (x : Core) : (s.setCore c x).core c = x := by simp [State.core_setCore]
theorem State.site_setSite (s : State) (n m : Nat) (x : Site) : (s.setSite n x).site m = if m = n then x else s.site m :=
  Sparse.get_set _ _ _ _ _
@[simp] theorem State.site_setSite_self (s : State) (n : Nat) (x : Site) : (s.setSite n x).site n = x := by simp [State.site_setSite]
theorem State.die_setDie (s : State) (n m : Nat) (x : Die) : (s.setDie n x).die m = if m = n then x else s.die m :=
  Sparse.get_set _ _ _ _ _
theorem State.block_setBlock (s : State) (n m : Nat) (x : Option Block) : (s.setBlock n x).block m = if m = n then x else s.block m :=
  Sparse.get_set _ _ _ _ _
theorem State.cohort_setCohort (s : State) (n m : Nat) (x : Option Cohort) : (s.setCohort n x).cohort m = if m = n then x else s.cohort m :=
  Sparse.get_set _ _ _ _ _
theorem State.launch_setLaunch (s : State) (n m : Nat) (x : Option Launch) : (s.setLaunch n x).launch m = if m = n then x else s.launch m :=
  Sparse.get_set _ _ _ _ _
theorem State.queue_setQueue (s : State) (n m : Nat) (x : List Waiting) : (s.setQueue n x).queue m = if m = n then x else s.queue m :=
  Sparse.get_set _ _ _ _ _
theorem State.part_setPart (s : State) (n m : Nat) (x : PartSt) : (s.setPart n x).part m = if m = n then x else s.part m :=
  Sparse.get_set _ _ _ _ _
theorem State.hubR_setHub (s : State) (a b : Nat) (v : Word) : (s.setHub a v).hubR b = if b = a then v else s.hubR b :=
  Sparse.get_put _ _ _ _ _

/-- What an update of one store leaves of the units. -/
@[simp] theorem State.me_setCore (s : State) (c : Nat) (x : Core) : (s.setCore c x).me = s.me := rfl
@[simp] theorem State.ctx_setCore (s : State) (c : Nat) (x : Core) (u : Nat) : (s.setCore c x).ctx u = s.ctx u := rfl
@[simp] theorem State.me_setMem (s : State) (m : Mem) : (s.setMem m).me = s.me := rfl
@[simp] theorem State.ctx_setMem (s : State) (m : Mem) (u : Nat) : (s.setMem m).ctx u = s.ctx u := rfl
@[simp] theorem State.me_takeFree (s : State) : s.takeFree.me = s.me := rfl
@[simp] theorem State.ctx_takeFree (s : State) (u : Nat) : s.takeFree.ctx u = s.ctx u := rfl

/-! ### Registers -/

/-- R59: `s0` reads zero. -/
@[simp] theorem Ctx.reg_zero (c : Ctx) : c.reg 0 = 0 := rfl

/-- R59: a write to `s0` is discarded. -/
@[simp] theorem Ctx.setReg_zero (c : Ctx) (v : Word) : c.setReg 0 v = c := rfl

/-- R247: what register `k` of mode `m` reads, from the three banks. -/
def bankReg (g p h : Sparse Word) (m : BitVec 2) (k : Nat) : Word :=
  if k = 0 then 0
  else if k < 56 ∨ m = 0 then Sparse.get (fun _ => 0) g k
  else if m = 1 then Sparse.get (fun _ => 0) p k
  else Sparse.get (fun _ => 0) h k

theorem Ctx.reg_mode (c : Ctx) (m : BitVec 2) (k : Nat) : Ctx.reg { c with mode := m } k = bankReg c.gpr c.supBank c.hypBank m k := rfl

theorem Ctx.reg_eq (c : Ctx) (k : Nat) : c.reg k = bankReg c.gpr c.supBank c.hypBank c.mode k := rfl

/-- The bank a write goes to, and the two it leaves. -/
theorem Ctx.setReg_cases (c : Ctx) (n : Nat) (v : Word) (hn : n ≠ 0) :
    c.setReg n v =
      if n < 56 ∨ c.mode = 0 then { c with gpr := Sparse.put (fun _ => 0) c.gpr n v }
      else if c.mode = 1 then { c with supBank := Sparse.put (fun _ => 0) c.supBank n v }
      else { c with hypBank := Sparse.put (fun _ => 0) c.hypBank n v } := by
  simp only [Ctx.setReg, hn, if_false]

theorem Ctx.setReg_gpr (c : Ctx) (n : Nat) (v : Word) :
    (c.setReg n v).gpr = if n ≠ 0 ∧ (n < 56 ∨ c.mode = 0) then Sparse.put (fun _ => 0) c.gpr n v else c.gpr := by
  by_cases hn : n = 0
  · simp [hn]
  · rw [Ctx.setReg_cases c n v hn]
    by_cases h : n < 56 ∨ c.mode = 0
    · rw [if_pos h, if_pos ⟨hn, h⟩]
    · have e : ¬ (n ≠ 0 ∧ (n < 56 ∨ c.mode = 0)) := fun x => h x.2
      rw [if_neg h, if_neg e]
      by_cases h1 : c.mode = 1
      · rw [if_pos h1]
      · rw [if_neg h1]

theorem Ctx.setReg_supBank (c : Ctx) (n : Nat) (v : Word) :
    (c.setReg n v).supBank = if ¬ (n < 56 ∨ c.mode = 0) ∧ c.mode = 1 then Sparse.put (fun _ => 0) c.supBank n v else c.supBank := by
  by_cases hn : n = 0
  · subst hn; rw [if_neg (by simp)]; rfl
  · rw [Ctx.setReg_cases c n v hn]
    by_cases h : n < 56 ∨ c.mode = 0
    · have e : ¬ (¬ (n < 56 ∨ c.mode = 0) ∧ c.mode = 1) := fun x => x.1 h
      rw [if_pos h, if_neg e]
    · rw [if_neg h]
      by_cases h1 : c.mode = 1
      · rw [if_pos h1, if_pos ⟨h, h1⟩]
      · have e : ¬ (¬ (n < 56 ∨ c.mode = 0) ∧ c.mode = 1) := fun x => h1 x.2
        rw [if_neg h1, if_neg e]

theorem Ctx.setReg_hypBank (c : Ctx) (n : Nat) (v : Word) :
    (c.setReg n v).hypBank = if ¬ (n < 56 ∨ c.mode = 0) ∧ c.mode ≠ 1 then Sparse.put (fun _ => 0) c.hypBank n v else c.hypBank := by
  by_cases hn : n = 0
  · subst hn; rw [if_neg (by simp)]; rfl
  · rw [Ctx.setReg_cases c n v hn]
    by_cases h : n < 56 ∨ c.mode = 0
    · have e : ¬ (¬ (n < 56 ∨ c.mode = 0) ∧ c.mode ≠ 1) := fun x => x.1 h
      rw [if_pos h, if_neg e]
    · rw [if_neg h]
      by_cases h1 : c.mode = 1
      · have e : ¬ (¬ (n < 56 ∨ c.mode = 0) ∧ c.mode ≠ 1) := fun x => x.2 h1
        rw [if_pos h1, if_neg e]
      · rw [if_neg h1, if_pos ⟨h, h1⟩]

/-- R247: register `k` of mode `m` after a write of register `n` of the context's own mode: the written value where the two name the
same register of the same bank. -/
theorem Ctx.reg_setReg (c : Ctx) (n : Nat) (v : Word) (m : BitVec 2) (k : Nat) :
    Ctx.reg { c.setReg n v with mode := m } k =
      if k = n ∧ k ≠ 0 ∧
          (if k < 56 ∨ m = 0 then 0 else if m = 1 then 1 else 2) = (if k < 56 ∨ c.mode = 0 then 0 else if c.mode = 1 then 1 else 2)
        then v else Ctx.reg { c with mode := m } k := by
  rw [Ctx.reg_mode, Ctx.reg_mode, Ctx.setReg_gpr, Ctx.setReg_supBank, Ctx.setReg_hypBank]
  simp only [bankReg]
  by_cases k0 : k = 0
  · simp [k0]
  by_cases kn : k = n
  · subst kn
    by_cases h56 : k < 56
    · simp [k0, h56]
    · by_cases c0 : c.mode = 0
      · by_cases m0 : m = 0
        · simp [k0, h56, c0, m0]
        · have m0' : (m = 0#2) = False := eq_false m0
          by_cases m1 : m = 1
          · simp [k0, h56, c0, m1]
          · have m1' : (m = 1#2) = False := eq_false m1
            simp [k0, h56, c0, m0', m1']
      · have c0' : (c.mode = 0#2) = False := eq_false c0
        by_cases c1 : c.mode = 1
        · by_cases m0 : m = 0
          · simp [k0, h56, c1, m0]
          · have m0' : (m = 0#2) = False := eq_false m0
            by_cases m1 : m = 1
            · simp [k0, h56, c1, m1]
            · have m1' : (m = 1#2) = False := eq_false m1
              simp [k0, h56, c1, m0', m1']
        · have c1' : (c.mode = 1#2) = False := eq_false c1
          by_cases m0 : m = 0
          · simp [k0, h56, c0', c1', m0]
          · have m0' : (m = 0#2) = False := eq_false m0
            by_cases m1 : m = 1
            · simp [k0, h56, c0', c1', m1]
            · have m1' : (m = 1#2) = False := eq_false m1
              simp [k0, h56, c0', c1', m0', m1']
  · simp only [k0, kn, if_false, false_and]
    split
    · split
      · exact Sparse.get_put_ne _ _ _ kn
      · rfl
    · split
      · split
        · exact Sparse.get_put_ne _ _ _ kn
        · rfl
      · split
        · exact Sparse.get_put_ne _ _ _ kn
        · rfl

/-- A write of a register changes nothing of a context but the bank it stands in. -/
theorem Ctx.setReg_frame (c : Ctx) (n : Nat) (v : Word) :
    { c.setReg n v with gpr := c.gpr, supBank := c.supBank, hypBank := c.hypBank } = c := by
  by_cases hn : n = 0
  · subst hn; rfl
  · rw [Ctx.setReg_cases c n v hn]
    split
    · rfl
    · split <;> rfl

@[simp] theorem Ctx.setReg_mode (c : Ctx) (n : Nat) (v : Word) : (c.setReg n v).mode = c.mode :=
  (congrArg Ctx.mode (c.setReg_frame n v) :)
@[simp] theorem Ctx.setReg_pc (c : Ctx) (n : Nat) (v : Word) : (c.setReg n v).pc = c.pc :=
  (congrArg Ctx.pc (c.setReg_frame n v) :)
@[simp] theorem Ctx.setReg_narrow (c : Ctx) (n : Nat) (v : Word) : (c.setReg n v).narrow = c.narrow :=
  (congrArg Ctx.narrow (c.setReg_frame n v) :)
@[simp] theorem Ctx.setReg_wait (c : Ctx) (n : Nat) (v : Word) : (c.setReg n v).wait = c.wait :=
  (congrArg Ctx.wait (c.setReg_frame n v) :)
@[simp] theorem Ctx.setReg_pmode (c : Ctx) (n : Nat) (v : Word) : (c.setReg n v).pmode = c.pmode :=
  (congrArg Ctx.pmode (c.setReg_frame n v) :)
@[simp] theorem Ctx.setReg_evt (c : Ctx) (n : Nat) (v : Word) : (c.setReg n v).evt = c.evt :=
  (congrArg Ctx.evt (c.setReg_frame n v) :)
@[simp] theorem Ctx.setReg_vregs (c : Ctx) (n : Nat) (v : Word) : (c.setReg n v).vregs = c.vregs :=
  (congrArg Ctx.vregs (c.setReg_frame n v) :)
@[simp] theorem Ctx.setReg_launch (c : Ctx) (n : Nat) (v : Word) : (c.setReg n v).launch = c.launch :=
  (congrArg Ctx.launch (c.setReg_frame n v) :)
@[simp] theorem Ctx.setReg_block (c : Ctx) (n : Nat) (v : Word) : (c.setReg n v).block = c.block :=
  (congrArg Ctx.block (c.setReg_frame n v) :)
@[simp] theorem Ctx.setReg_index (c : Ctx) (n : Nat) (v : Word) : (c.setReg n v).index = c.index :=
  (congrArg Ctx.index (c.setReg_frame n v) :)
@[simp] theorem Ctx.setReg_sup (c : Ctx) (n : Nat) (v : Word) : (c.setReg n v).sup = c.sup :=
  (congrArg Ctx.sup (c.setReg_frame n v) :)
@[simp] theorem Ctx.setReg_hyp (c : Ctx) (n : Nat) (v : Word) : (c.setReg n v).hyp = c.hyp :=
  (congrArg Ctx.hyp (c.setReg_frame n v) :)
@[simp] theorem Ctx.setReg_ttb1 (c : Ctx) (n : Nat) (v : Word) : (c.setReg n v).ttb1 = c.ttb1 :=
  (congrArg Ctx.ttb1 (c.setReg_frame n v) :)
@[simp] theorem Ctx.setReg_ttb2 (c : Ctx) (n : Nat) (v : Word) : (c.setReg n v).ttb2 = c.ttb2 :=
  (congrArg Ctx.ttb2 (c.setReg_frame n v) :)
@[simp] theorem Ctx.setReg_ctxid (c : Ctx) (n : Nat) (v : Word) : (c.setReg n v).ctxid = c.ctxid :=
  (congrArg Ctx.ctxid (c.setReg_frame n v) :)
@[simp] theorem Ctx.setReg_vmid (c : Ctx) (n : Nat) (v : Word) : (c.setReg n v).vmid = c.vmid :=
  (congrArg Ctx.vmid (c.setReg_frame n v) :)
@[simp] theorem Ctx.setReg_part (c : Ctx) (n : Nat) (v : Word) : (c.setReg n v).part = c.part :=
  (congrArg Ctx.part (c.setReg_frame n v) :)
@[simp] theorem Ctx.setReg_vreg (c : Ctx) (n : Nat) (v : Word) : (c.setReg n v).vreg = c.vreg :=
  (congrArg Ctx.vreg (c.setReg_frame n v) :)
@[simp] theorem Ctx.setReg_live (c : Ctx) (n : Nat) (v : Word) : (c.setReg n v).live = c.live :=
  (congrArg Ctx.live (c.setReg_frame n v) :)

/-! ### Instructions that write one register -/

/-- A register write of the acting unit, then a new PC. -/
theorem State.ws_jump_me (s : State) (r : SReg) (v t : Word) :
    ((s.ws r v).jump t).me = { s.me.setReg r.toNat v with pc := t, wait := .none } := by
  simp [State.jump, State.ws]

theorem State.setS_eq (s : State) (sd : SReg) (v : Word) : s.setS sd v = (s.ws sd v).jump (s.me.pc + 8) := by
  simp [State.setS, State.advance, State.jump, State.ws]

/-- Replacing a unit twice is replacing it once. -/
theorem State.setCtx_setCtx (s : State) (u : Nat) (c d : Ctx) : (s.setCtx u c).setCtx u d = s.setCtx u d := by
  simp [State.setCtx, Sparse.set_set]

theorem State.jump_other (s : State) (r : SReg) (v t : Word) {u : Nat} (h : u ≠ s.cur) : ((s.ws r v).jump t).ctx u = s.ctx u := by
  simp only [State.jump, State.ws]
  rw [State.ctx_setMe_ne _ _ (by simpa using h), State.ctx_setMe_ne _ _ h]

theorem State.jump_rest (s : State) (r : SReg) (v t : Word) : { (s.ws r v).jump t with ctxs := s.ctxs } = s := rfl

end Sys2Proof.Machine
end

