-- ==== Sys2Proof/Tests/Slice0.lean ====
section
/-! SUPPORT. Small tests: the checks of WellFormed, words written out from the encoding tables of the manual, worked results of the manual,
and the witnesses that the hypotheses of the statements can be met. -/

open Sys2Proof Sys2Proof.Machine

section

/- One theorem at a time: each check by evaluation then has the memory for itself. -/
set_option Elab.async false

/-! ### Well-formedness: one ill-formed term for each check -/

/-- R44, R47 to R51, R158, R239, R240, R246, R262 to R264, R271 to R273, R277, R297: each of these terms uses a reserved code, and is refused. -/
theorem test_ill_formed :
    ([.shlImm true 1 2 32, .addsh true 1 2 3 32, .bfxImm 1 2 0 0, .bfiImm 1 2 0 65, .loop 0 1, .ldImm .b8 true 1 2 0, .atom .b2 .add .relaxed 0 1 2 3,
      .reds .b1 1 2, .rrdef .i32sat .max 1 2, .iadd .f32 false 0 1 2 3, .ishlImm .i32 0 1 2 32, .ibfxImm .i32 0 1 2 32 1, .ibfxImm .i32 0 1 2 0 0,
      .icmp .i32 .un 0 1 2 3, .fadd .i32 .rne 0 1 2 3, .cvt .f32 .f32 .rne ⟨0, false, false, false⟩ 0 1 2,
      .cvt .b8 .f32 .rne ⟨0, false, false, false⟩ 0 1 2, .cvt .i32 .f32 .rne ⟨3, false, false, false⟩ 0 1 2, .packb .f64 .rne ⟨3, true, false, false⟩ 0 1 2 3,
      .unpkb .bf16 1 ⟨3, true, false, false⟩ 0 1 2, .shfl .f16 0 1 2 3, .ballot .i32 0 1 2, .redl .min .f32 .rtz 0 1 2,
      .redl .add .b8 .rne 0 1 2, .movl .f32 0 1 2, .pmma .f32 0 1 2 3 4, .ldl .b8 .relaxed 0 0 1 2 3, .ldl .i32 .release 1 0 1 2 3,
      .ldl .i32 .relaxed 1 0 1 2 3, .stl .i32 .acquire 1 0 1 2 3, .ldsh .b8 0 1 2 3, .atoml .fadd .i32 .relaxed 0 0 1 2 3,
      .atoml .add .f32 .relaxed 0 0 1 2 3, .atomsh .add .i32 .acquire 3 0 1 2 3, .casl .i8 .relaxed 0 0 1 2 3 4, .redst .i64 0 1 2 3,
      .pushr .oq 0 8, .qwait .oq 1, .leash 0, .leash 65] : List Instr).all (fun i => !i.wf) = true := by
  decide

/-! ### Words written out from R42 to R51 -/

theorem test_decode_arithmetic :
    ([
      0x0040C10800000000, 0x0090C10800000000, 0x00C0C10800000000, 0x0110C10800000000, 0x0140C10800000000, 0x0190C10800000000,
      0x01C0C10800000000, 0x0210C10800000000, 0x0240C10800000000, 0x0290C10800000000, 0x02C0C10800000000, 0x0310C10800000000,
      0x0340C10800000000, 0x0390C10800000000, 0x03C0C10800000000, 0x041FFEF400000000, 0x045FFEF400000000, 0x049FFEF400000000,
      0x04DFFEF400000000, 0x051FFEF400000000, 0x0540C10800000000, 0x0590C10800000000, 0x05C0C10800000000, 0x0610C10800000000,
      0x0640C10800000000, 0x0690C10800000000, 0x06C0C10800000000, 0x0710C10800000000, 0x0740C10800000000, 0x0790C10800000000,
      0x07C0C10840000000, 0x0810C10840000000, 0x0840C1080000003F, 0x0880C10000000000, 0x08D0C10000000000, 0x0900C10000000000,
      0x0950C10000000000, 0x0980C10840000000, 0x09C0C10840000000, 0x0A00C10840000000, 0x0A40C10800000000, 0x0A80C10800000000] : List Word).map (decodeWord · none) =
    ([
      .add false 3 1 2, .sub true 3 1 2, .mul false 3 1 2, .mulh true 3 1 2, .mulhu false 3 1 2, .div true 3 1 2, .divu false 3 1 2,
      .rem true 3 1 2, .remu false 3 1 2, .and true 3 1 2, .or false 3 1 2, .xor true 3 1 2, .andn false 3 1 2, .orn true 3 1 2,
      .xnor false 3 1 2, .shl true 63 62 61, .shr true 63 62 61, .sar true 63 62 61, .rol true 63 62 61, .ror true 63 62 61,
      .min false 3 1 2, .max true 3 1 2, .minu false 3 1 2, .maxu true 3 1 2, .seq false 3 1 2, .sne true 3 1 2, .slt false 3 1 2,
      .sltu true 3 1 2, .sle false 3 1 2, .sleu true 3 1 2, .sel 3 1 2 4, .madd true 3 1 2 4, .addsh false 3 1 2 63, .popc false 3 1,
      .clz true 3 1, .ctz false 3 1, .brev true 3 1, .bfx 3 1 2 4, .bfxu 3 1 2 4, .bfi 3 1 2 4, .mlow 3 1 2, .mclr 3 1 2] : List Instr).map .ok := by
  rfl

theorem test_decode_arithmetic_imm :
    ([
      0x007146FFFFFFFFFF, 0x00A146FFFFFFFFFE, 0x00F146FFFFFFFFFD, 0x012146FFFFFFFFFC, 0x017146FFFFFFFFFB, 0x01A146FFFFFFFFFA,
      0x01F146FFFFFFFFF9, 0x022146FFFFFFFFF8, 0x027146FFFFFFFFF7, 0x02A146FFFFFFFFF6, 0x02F146FFFFFFFFF5, 0x032146FFFFFFFFF4,
      0x037146FFFFFFFFF3, 0x03A146FFFFFFFFF2, 0x03F146FFFFFFFFF1, 0x042FFE000000003F, 0x046FFE000000003F, 0x04AFFE000000003F,
      0x04EFFE000000003F, 0x052FFE000000003F, 0x0561468000000000, 0x05B1468000000001, 0x05E1468000000002, 0x0631468000000003,
      0x0661468000000004, 0x06B1468000000005, 0x06E1468000000006, 0x0731468000000007, 0x0761468000000008, 0x07B1468000000009,
      0x09A0C10000001005, 0x09E0C10000001005, 0x0A20C10000001005, 0x0A60C1000000007F, 0x0AA0C1000000007F, 0x0AE2400089ABCDEF,
      0x0AE2400189ABCDEF, 0x0AE2400289ABCDEF] : List Word).map (decodeWord · none) =
    ([
      .addImm true 5 6 (BitVec.ofInt 40 (-1)), .subImm false 5 6 (BitVec.ofInt 40 (-2)), .mulImm true 5 6 (BitVec.ofInt 40 (-3)),
      .mulhImm false 5 6 (BitVec.ofInt 40 (-4)), .mulhuImm true 5 6 (BitVec.ofInt 40 (-5)), .divImm false 5 6 (BitVec.ofInt 40 (-6)),
      .divuImm true 5 6 (BitVec.ofInt 40 (-7)), .remImm false 5 6 (BitVec.ofInt 40 (-8)), .remuImm true 5 6 (BitVec.ofInt 40 (-9)),
      .andImm false 5 6 (BitVec.ofInt 40 (-10)), .orImm true 5 6 (BitVec.ofInt 40 (-11)), .xorImm false 5 6 (BitVec.ofInt 40 (-12)),
      .andnImm true 5 6 (BitVec.ofInt 40 (-13)), .ornImm false 5 6 (BitVec.ofInt 40 (-14)), .xnorImm true 5 6 (BitVec.ofInt 40 (-15)),
      .shlImm false 63 62 63, .shrImm false 63 62 63, .sarImm false 63 62 63, .rolImm false 63 62 63, .rorImm false 63 62 63,
      .minImm false 5 6 0x8000000000, .maxImm true 5 6 0x8000000001, .minuImm false 5 6 0x8000000002, .maxuImm true 5 6 0x8000000003,
      .seqImm false 5 6 0x8000000004, .sneImm true 5 6 0x8000000005, .sltImm false 5 6 0x8000000006, .sltuImm true 5 6 0x8000000007,
      .sleImm false 5 6 0x8000000008, .sleuImm true 5 6 0x8000000009, .bfxImm 3 1 5 64, .bfxuImm 3 1 5 64, .bfiImm 3 1 5 64,
      .mlowImm 3 1 127, .mclrImm 3 1 127, .movi 9 0x89ABCDEF, .moviN32 9 0x89ABCDEF, .moviHi 9 0x89ABCDEF] : List Instr).map .ok := by
  rfl

theorem test_decode_control :
    ([
      0x100000FFFFFFFFFF, 0x10400723FFFFFFFC, 0x10800723FFFFFFFB, 0x10C00723FFFFFFFA, 0x11000723FFFFFFF9, 0x11400723FFFFFFF8,
      0x11800723FFFFFFF7, 0x11C0070000000005, 0x1200070000000006, 0x1300070200000000, 0x1240008000000000, 0x1280090000000000,
      0x12C03E0000000000] : List Word).map (decodeWord · none) =
    ([
      .br (BitVec.ofInt 40 (-1)), .beq 7 8 (BitVec.ofInt 34 (-4)), .bne 7 8 (BitVec.ofInt 34 (-5)), .blt 7 8 (BitVec.ofInt 34 (-6)),
      .bge 7 8 (BitVec.ofInt 34 (-7)), .bltu 7 8 (BitVec.ofInt 34 (-8)), .bgeu 7 8 (BitVec.ofInt 34 (-9)), .bz 7 5, .bnz 7 6,
      .loop 7 0x200000000, .call 0x8000000000, .callr 9, .jr 62] : List Instr).map .ok := by
  rfl

theorem test_decode_scalar_memory :
    ([
      0x1800C4140000001E, 0x1820C401FFFFFFF8, 0x1840C41400000013, 0x1860C400FFFFFFF8, 0x18A0C4FD0000000C, 0x18E0C42B0000000C,
      0x1900C41400000602, 0x1900C41400000647, 0x1900C4140000068A, 0x1900C414000006CF, 0x1900C41400000612, 0x1900C41400000657,
      0x1900C4140000069A, 0x1900C414000006DF, 0x1900C41400000622, 0x1900C41400000667, 0x1940C414600007C3, 0x19A0040000000040,
      0x19A0040500000040, 0x19A0040200000040, 0x19E0000000000006, 0x19E0000100000007, 0x19E0000200000008, 0x19E0000300000009,
      0x1A00041400000003] : List Word).map (decodeWord · none) =
    ([
      .ld .b4 true 3 3 4 5, .ldImm .b2 false 3 4 (BitVec.ofInt 32 (-8)), .st .b8 2 3 4 5, .stImm .b1 3 4 (BitVec.ofInt 32 (-8)),
      .ldo .b2 true 31 3 4 12, .sto .b8 5 3 4 12, .atom .b4 .add .relaxed 6 3 4 5, .atom .b8 .and .acquire 6 3 4 5,
      .atom .b4 .or .release 6 3 4 5, .atom .b8 .xor .acqRel 6 3 4 5, .atom .b4 .min .relaxed 6 3 4 5, .atom .b8 .max .acquire 6 3 4 5,
      .atom .b4 .minu .release 6 3 4 5, .atom .b8 .maxu .acqRel 6 3 4 5, .atom .b4 .swap .relaxed 6 3 4 5,
      .atom .b8 .fadd .acquire 6 3 4 5, .cas .b8 .acqRel 7 3 4 5 6, .pref .core false 4 64, .pref .l2 true 4 64, .pref .msc false 4 64,
      .fence .acqRel 6, .fence .acq 7, .fence .rel 8, .fence .seq 9, .reds .b8 4 5] : List Instr).map .ok := by
  rfl

theorem test_decode_execution :
    ([
      0x1C2000000000000F, 0x1C6000000000000E, 0x1CA0000000000001, 0x1CC00403FFFFFFFE, 0x1D00000000000000, 0x1D40000000000000,
      0x1D80040000000000, 0x1DA000000000FFFF, 0x1DC0000000000000, 0x1E00041400000000, 0x1E40041400000000, 0x1E81841400000000] : List Word).map (decodeWord · none) =
    ([
      .bar 15, .bararr 14, .barwt 1, .attach 4 (BitVec.ofInt 34 (-2)), .detach, .cohbar, .nap 4, .napImm 65535, .yield, .tbinit 4 5,
      .tbarr 4 5, .tbwait 6 4 5] : List Instr).map .ok := by
  rfl

theorem test_decode_caches :
    ([
      0x2000041400000000, 0x2040041400000000, 0x2080041400000000, 0x20C0041400000010, 0x20C0041400000021, 0x20C0041400000002,
      0x20C0041400000013, 0x20C0041400000004, 0x2100040000000000, 0x2140041460000000, 0x2181C40000000000] : List Word).map (decodeWord · none) =
    ([
      .cwb 4 5, .cinv 4 5, .cwbi 4 5, .rrdef .f32 .min 4 5, .rrdef .bf16 .max 4 5, .rrdef .f64 .add 4 5, .rrdef .i32wrap .min 4 5,
      .rrdef .i32sat .add 4 5, .rrdrop 4, .dset 4 5 6, .dget 7 4] : List Instr).map .ok := by
  rfl

theorem test_decode_system :
    ([
      0x2421C000000003FF, 0x246007000000011F, 0x24A0000000000012, 0x24C0000000000000, 0x2500000000000000, 0x2540000000000000,
      0x2580000000000000, 0x25C1C00000000000, 0x2620000000000009, 0x2640040000000000, 0x2640000000000001, 0x2640000000000002,
      0x2680000000000000, 0x26E0000000000007, 0x2700041400000000, 0x0000000000000000] : List Word).map (decodeWord · none) =
    ([
      .movc 7 0x3FF, .mtc 287 7, .trap 0x12, .eret, .wfe, .sev, .halt, .time 7, .ppoint 9, .tlbiPage 4, .tlbiCtx, .tlbiAll, .lwait,
      .acwait 7, .launch 4 5, .nop] : List Instr).map .ok := by
  rfl

theorem test_decode_lane_integer :
    ([
      0x4000805030004801, 0x40208057FFFE4900, 0x4040805030004881, 0x40608057FFFE4980, 0x409FFFF7F401F800, 0x40A0101400021880,
      0x40DFFFF7F401F880, 0x40E0101400021900, 0x415FFFF7F401F900, 0x4160101400021980, 0x419FFFF7F401F980, 0x41A0101400021800,
      0x41DFFFF7F401F800, 0x41E0101400021880, 0x42DFFFF7F401F880, 0x42E0101400021900, 0x431FFFF7F401F900, 0x4320101400021980,
      0x44DFFFF7F401F980, 0x44E0101400021800, 0x4200805030004800, 0x42208050007E4980, 0x4240805030004880, 0x42608050007E4980,
      0x4280805030004900, 0x42A08050007E4980, 0x41008050301C4900, 0x44408050301C4880, 0x4340805000004800, 0x4380805000004800,
      0x43C0805000004800, 0x44008050301C4800, 0x44208050207E4980, 0x4482105030004980, 0x44A21050009A4801, 0x4482105030004982,
      0x44A21050009A4803, 0x4482105030004984, 0x44A21050009A4805] : List Word).map (decodeWord · none) =
    ([
      .iadd .i32 true 9 8 10 12, .iaddImm .i64 false 9 8 10 (BitVec.ofInt 18 (-1)), .isub .n32 true 9 8 10 12,
      .isubImm .n64 false 9 8 10 (BitVec.ofInt 18 (-1)), .imul .i32 63 511 510 509, .imulImm .n32 3 1 2 0x20001,
      .imulh .n32 63 511 510 509, .imulhImm .i64 3 1 2 0x20001, .iand .i64 63 511 510 509, .iandImm .n64 3 1 2 0x20001,
      .ior .n64 63 511 510 509, .iorImm .i32 3 1 2 0x20001, .ixor .i32 63 511 510 509, .ixorImm .n32 3 1 2 0x20001,
      .imin .n32 63 511 510 509, .iminImm .i64 3 1 2 0x20001, .imax .i64 63 511 510 509, .imaxImm .n64 3 1 2 0x20001,
      .idiv .n64 63 511 510 509, .idivImm .i32 3 1 2 0x20001, .ishl .i32 9 8 10 12, .ishlImm .n64 9 8 10 63, .ishr .n32 9 8 10 12,
      .ishrImm .n64 9 8 10 63, .isar .i64 9 8 10 12, .isarImm .n64 9 8 10 63, .imad .i64 9 8 10 12 14, .isel .n32 9 8 10 12 14,
      .iabs .i32 9 8 10, .ipopc .i32 9 8 10, .iclz .i32 9 8 10, .ibfx .i32 9 8 10 12 14, .ibfxImm .n64 9 8 10 63 64,
      .icmp .n64 .eq 9 33 10 12, .icmpImm .i32 .ne 9 33 10 77, .icmp .n64 .lt 9 33 10 12, .icmpImm .i32 .le 9 33 10 77,
      .icmp .n64 .gt 9 33 10 12, .icmpImm .i32 .ge 9 33 10 77] : List Instr).map .ok := by
  rfl

theorem test_decode_lane_float :
    ([
      0x4800805030004A10, 0x4840805030004AA0, 0x4880805030004B30, 0x4980805030004BC0, 0x48C08050301C4A00, 0x4900805030004A80,
      0x4940805030004B00, 0x49C0805000004BC0, 0x4A00805000004A00, 0x4A40805000004A00, 0x4A80805000004A00, 0x4AC0805000004A00,
      0x4B00805000004A00, 0x4B40805000004A00, 0x4B82105030004A87, 0x4BC0805000004B80, 0x4C00805000104D14, 0x4C00805001E04E04,
      0x4C40805032504A20, 0x4C80805002404A03] : List Word).map (decodeWord · none) =
    ([
      .fadd .f32 .rtz 9 8 10 12, .fsub .f64 .rup 9 8 10 12, .fmul .f16 .rdn 9 8 10 12, .fdiv .bf16 .rna 9 8 10 12,
      .ffma .f32 .rne 9 8 10 12 14, .fmin .f64 9 8 10 12, .fmax .f16 9 8 10 12, .fsqrt .bf16 .rna 9 8 10, .frcp .f32 9 8 10,
      .frsq .f32 9 8 10, .fex2 .f32 9 8 10, .flg2 .f32 9 8 10, .fsin .f32 9 8 10, .fcos .f32 9 8 10, .fcmp .f64 .or 9 33 10 12,
      .fclass .bf16 9 8 10, .cvt .i8 .f32 .rtz ⟨0, false, false, true⟩ 9 8 10, .cvt .b8 .f32 .rne ⟨3, true, true, false⟩ 9 8 10,
      .packb .f32 .rup ⟨4, true, false, true⟩ 9 8 10 12, .unpkb .f32 3 ⟨4, true, false, false⟩ 9 8 10] : List Instr).map .ok := by
  rfl

theorem test_decode_cross_lane :
    ([
      0x4E00805030004880, 0x4E208050007E4A80, 0x4E608050007E4A80, 0x4EA08050007E4A80, 0x4EE08050007E4A80, 0x4F02105000004980,
      0x4FC0800000004880, 0x4F40805000004A20, 0x4F80805000004900, 0x4F40805000004881, 0x4F80805000004905, 0x4F40805000004882,
      0x4F80805000004902, 0x5000805000004980, 0x5040810800004880, 0x50A21050007E4980, 0x52008050301C4B80] : List Word).map (decodeWord · none) =
    ([
      .shfl .n32 9 8 10 12, .shflImm .f64 9 8 10 63, .shflup .f64 9 8 10 63, .shfldn .f64 9 8 10 63, .shflx .f64 9 8 10 63,
      .ballot .n64 9 33 10, .laneid 9 8, .redl .add .f32 .rup 9 8 10, .scanl .add false .i64 .rne 9 8 10, .redl .min .n32 .rne 9 8 10,
      .scanl .min true .i64 .rne 9 8 10, .redl .max .n32 .rne 9 8 10, .scanl .max false .i64 .rne 9 8 10, .movl .n64 9 8 10,
      .movsl .n32 9 8 33, .movls .n64 9 33 10 63, .pmma .bf16 9 8 10 12 14] : List Instr).map .ok := by
  rfl

theorem test_decode_lane_memory :
    ([
      0x5400805030004A15, 0x54208057FFF84C00, 0x54408050300049A6, 0x54608057FFF84D80, 0x5480805030004C80, 0x54A0805000C84D00,
      0x54C0805030004C80, 0x54E0805000C84D00, 0x5500805030004800, 0x5540805030024991, 0x55008050300448A2, 0x5540805030064930,
      0x5500805030084804, 0x55408050300A4912, 0x55008050300C48A6, 0x55408050300E49B1, 0x5500805030104A08, 0x5540805030124A90,
      0x55808050301C48B7, 0x55C0805030004A00, 0x55E0805000104B80, 0x5601405030004920] : List Word).map (decodeWord · none) =
    ([
      .ldl .f32 .acquire 5 9 8 10 12, .ldlImm .i16 .relaxed 0 9 8 10 (BitVec.ofInt 18 (-4)), .stl .n64 .release 6 9 8 10 12,
      .stlImm .n8 .relaxed 0 9 8 10 (BitVec.ofInt 18 (-4)), .ldsh .n16 9 8 10 12, .ldshImm .i8 9 8 10 100, .stsh .n16 9 8 10 12,
      .stshImm .i8 9 8 10 100, .atoml .add .i32 .relaxed 0 9 8 10 12, .atomsh .and .n64 .acquire 1 9 8 10 12,
      .atoml .or .n32 .release 2 9 8 10 12, .atomsh .xor .i64 .acqRel 0 9 8 10 12, .atoml .min .i32 .relaxed 4 9 8 10 12,
      .atomsh .max .i64 .acquire 2 9 8 10 12, .atoml .minu .n32 .release 6 9 8 10 12, .atomsh .maxu .n64 .acqRel 1 9 8 10 12,
      .atoml .swap .f32 .relaxed 8 9 8 10 12, .atomsh .fadd .f64 .acquire 0 9 8 10 12, .casl .n32 .acqRel 7 9 8 10 12 14,
      .redst .f32 9 8 10 12, .redstImm .bf16 9 8 10 8, .acpy 2 2 9 20 10 12] : List Instr).map .ok := by
  rfl

theorem test_decode_engine :
    ([
      0x8008900000000005, 0x8044010000000007, 0x8091000000000002, 0x80C000000000000C, 0x80CC002000000005, 0x810001C000000000,
      0x810401C000000000, 0x810801C000000000, 0x810C01C000000000, 0x811001C000000000, 0x8140000000000000, 0x8180000000000010,
      0x8180002000000009, 0x81C0000000000000, 0x82000140000007FF, 0x820001A000000007, 0x82400140000007FF, 0x824001A000000007,
      0x82800140000007FF, 0x828001A000000007] : List Word).map (decodeWord · none) =
    ([
      .pushr .mq 5 9, .pushm .sq 7 4, .popq 2 16, .qwait .lq 12, .qwaitReg .vq 5, .qstat 7 .lq, .qstat 7 .sq, .qstat 7 .mq, .qstat 7 .vq,
      .qstat 7 .oq, .qmark, .leash 16, .leashReg 9, .unleash, .aownr 5 2047, .aownrReg 6 7, .asave 5 2047, .asaveReg 6 7, .arest 5 2047,
      .arestReg 6 7] : List Instr).map .ok := by
  rfl

/-- The encodings the manual works: R59, R110, R111, R137, R139, R155, R158, R171, R189 to R193, R228 to R234, R252, R256, R272, R273, R277, R279,
R294, R319, R321. -/
theorem test_worked_encodings :
    ([
      0x0060C40000000064, 0x48C08050301C4A00, 0x8008800000000005, 0x2640040000000000, 0x2640000000000001, 0x2640000000000002,
      0x2680000000000000, 0x2140041460000000, 0x2181C40000000000, 0x2000041400000000, 0x20C0041400000000, 0x8000800000000002,
      0x8044010000000007, 0x8091000000000002, 0x80C000000000000C, 0x80C4002000000005, 0x810001C000000000, 0x1E00041400000000,
      0x1E40041400000000, 0x1E81841400000000, 0x5601405030004920, 0x56014050300048A0, 0x1820C40600000010, 0x180184140000001B,
      0x1860840200000000, 0x18E0852A00000000, 0x1900C414000005C2, 0x1940C41460000543, 0x19A0040500000100, 0x19E0000300000005,
      0x1A00042800000002, 0x5420805000204A00, 0x5440C050380048A5, 0x54A060A000800080, 0x55E0805000004A00, 0x5040403800000080,
      0x50A07020000A0080, 0x24A0000000000012, 0x25C1C00000000000, 0x4C40602016400200, 0x4C40602016500200, 0x4C80703002400200,
      0x4F40802000004A00, 0x4F40802000004A20, 0x4020603000025000, 0x4480A02014000002, 0x4C00502000000014, 0x4EE0802000020080,
      0x5201002020200380, 0x8200014000000064, 0x824001A000000007, 0x1C20000000000003, 0x1DA0000000000064] : List Word).map (decodeWord · none) =
    ([
      .addImm false 3 4 100, .ffma .f32 .rne 9 8 10 12 14, .pushr .mq 5 8, .tlbiPage 4, .tlbiCtx, .tlbiAll, .lwait, .dset 4 5 6,
      .dget 7 4, .cwb 4 5, .rrdef .f32 .add 4 5, .pushr .lq 2 8, .pushm .sq 7 4, .popq 2 16, .qwait .lq 12, .qwaitReg .sq 5,
      .qstat 7 .lq, .tbinit 4 5, .tbarr 4 5, .tbwait 6 4 5, .acpy 2 2 9 20 10 12, .acpy 1 2 9 20 10 12, .ldImm .b4 true 3 4 16,
      .ld .b8 false 3 6 4 5, .stImm .b4 2 4 0, .sto .b4 5 2 5 0, .atom .b4 .add .acqRel 5 3 4 5, .cas .b8 .acquire 5 3 4 5 6,
      .pref .l2 true 4 256, .fence .seq 5, .reds .b4 4 10, .ldlImm .f32 .relaxed 0 9 8 10 16, .stl .n32 .release 5 9 12 10 14,
      .ldshImm .n32 0 6 20 64, .redstImm .f32 9 8 10 0, .movsl .n32 0 4 7, .movls .n32 0 7 4 5, .trap 0x12, .time 7, .packb .f32 .rne ⟨4,
      true, false, false⟩ 0 6 4 5, .packb .f32 .rne ⟨4, true, false, true⟩ 0 6 4 5, .unpkb .f32 0 ⟨4, true, false, false⟩ 0 7 6,
      .redl .add .f32 .rne 9 8 4, .redl .add .f32 .rup 9 8 4, .iaddImm .i32 false 10 6 6 1, .icmp .i32 .lt 0 10 4 5,
      .cvt .i32 .f32 .rtz ⟨0, false, false, false⟩ 0 5 4, .shflx .n32 0 8 4 1, .pmma .bf16 0 16 4 8 16, .aownr 5 100, .asaveReg 6 7,
      .bar 3, .napImm 100] : List Instr).map .ok := by
  rfl

/-- R54: MOVI64 as R59's text works it. -/
theorem test_decode_movi64 : decodeWord 0xC001400000000000 (some 0x0123456789ABCDEF) = .ok (.movi64 5 0x0123456789ABCDEF) := by rfl

/-- R55: a set bit of a field that the row does not use, an unassigned opcode and a long word without its second are refused by name. -/
theorem test_refused_words :
    ([0x0000000000000001, 0x2640000000000003, 0x26A0000000000000, 0x1840000000000004, 0x4C00502000000015, 0xE000000000000000, 0xC001400000000001] :
        List Word).map (fun w => match decodeWord w (some 0) with | .ok _ => false | .error _ => true) =
      [true, true, true, true, false, true, true] := by
  rfl

/-! ### States of the witnesses -/

namespace Witness

/-- A privileged host core in a package with near set 0 enabled. -/
def hostS : State := { State.reset.readyUnit (unitId 0 0) with cur := unitId 0 0 }
/-- A privileged pack of one. -/
def packS : State := { State.reset.readyUnit (unitId 64 0) with cur := unitId 64 0 }
/-- A privileged control context of one. -/
def ctlS : State := { State.reset.readyUnit (unitId 256 0) with cur := unitId 256 0 }

/-- Scalar registers of the acting unit. -/
def regs (s : State) (l : List (SReg × Word)) : State := l.foldl (fun s p => s.ws p.1 p.2) s
/-- Handlers at 0x1000 and record areas at 0x2000, in both modes. -/
def handled (s : State) : State :=
  s.setMe { s.me with sup := { fhandler := 0x1000, frbase := 0x2000 }, hyp := { fhandler := 0x1000, frbase := 0x2000 } }
/-- The acting unit in another mode. -/
def inMode (s : State) (m : BitVec 2) : State := s.setMe { s.me with mode := m }

/-- The pair is a state and an answer that meet `q`. -/
def gives {α ε : Type} (p : State × Except ε α) (q : State → α → Bool) : Bool := match p with
  | (s, .ok a) => q s a
  | (_, .error _) => false
/-- The pair is a state and a failure that meet `q`. -/
def fails {α ε : Type} (p : State × Except ε α) (q : State → ε → Bool) : Bool := match p with
  | (_, .ok _) => false
  | (s, .error c) => q s c
/-- The pair is a state and no failure. -/
def stores {ε : Type} (p : State × Option ε) (q : State → Bool) : Bool := match p with
  | (s, none) => q s
  | (_, some _) => false
/-- The outcome is a next state that meets `q`. -/
def next (o : Host.Outcome State Fault Refusal) (q : State → Bool) : Bool := match o with
  | .next t => q t
  | _ => false

end Witness

open Witness
set_option maxRecDepth 100000
set_option exponentiation.threshold 8192

/-! ### Worked results -/

/-- R238's worked cases. -/
theorem test_div : next (exec (.div false 3 1 2) (regs hostS [(1, -7), (2, 2)])) (fun t => t.rs 3 == 0xFFFFFFFFFFFFFFFD) = true := by decide
theorem test_div_overflow :
    next (exec (.div true 3 1 2) (regs hostS [(1, 0x180000000), (2, -1)])) (fun t => t.rs 3 == 0xFFFFFFFF80000000) = true := by decide
theorem test_divu :
    next (exec (.divu false 3 1 2) (regs hostS [(1, 0xFFFFFFFFFFFFFFF9), (2, 2)])) (fun t => t.rs 3 == 0x7FFFFFFFFFFFFFFC) = true := by decide
theorem test_rem_zero : next (exec (.rem false 3 1 2) (regs hostS [(1, 5), (2, 0)])) (fun t => t.rs 3 == 5) = true := by decide
/-- R240's worked field. -/
theorem test_bfx : next (exec (.bfxImm 10 11 8 12) (regs hostS [(11, 0xFA5C00)])) (fun t => t.rs 10 == 0xFFFFFFFFFFFFFA5C) = true := by decide
theorem test_bfxu : next (exec (.bfxuImm 10 11 8 12) (regs hostS [(11, 0xFA5C00)])) (fun t => t.rs 10 == 0xA5C) = true := by decide

/-! ### Witnesses: scalar instructions -/

theorem witness_bit_fields : 1 ≤ (1 : BitVec 7).toNat ∧ (64 : BitVec 7).toNat ≤ 64 ∧ (31 : BitVec 6).toNat < 32 := by decide
theorem witness_branches :
    (regs hostS [(7, 5), (8, 5)]).rs 7 = (regs hostS [(7, 5), (8, 5)]).rs 8 ∧ (regs hostS [(7, 5)]).rs 7 ≠ (regs hostS [(7, 5)]).rs 8 := by decide
theorem witness_loop : (6 : SReg) ≠ 0 ∧ (regs hostS [(6, 1)]).rs 6 = 1 ∧ (regs hostS [(6, 0)]).rs 6 ≠ 1 := by decide
theorem witness_jumps : ((regs hostS [(9, 0x108)]).rs 9).toNat % 8 = 0 ∧ ((regs hostS [(9, 0x10C)]).rs 9).toNat % 8 ≠ 0 := by decide
theorem witness_misaligned_jump :
    let s := regs (handled hostS) [(9, 0x10C)]
    (s.rs 9).toNat % 8 ≠ 0 ∧ entryGoes s s.cur (enteredMode s.me.mode (cMISALIGN, 0)) (faultOf s (cMISALIGN, 0) (s.rs 9)) = true := by decide

/-! ### Witnesses: control registers, traps, events -/

theorem witness_control_reads :
    (∀ p ∈ plainRegs.take 5, cregAssigned (kindOf (inMode hostS 2).cur) p.1 = true ∧
      cregReadMode (kindOf (inMode hostS 2).cur) p.1 ≤ (inMode hostS 2).me.mode.toNat) ∧
    (∀ p ∈ plainRegs.drop 11, cregAssigned (kindOf ctlS.cur) p.1 = true ∧ cregReadMode (kindOf ctlS.cur) p.1 ≤ ctlS.me.mode.toNat) := by decide
theorem witness_control_writes :
    (∀ p ∈ plainWrites.take 6, cregAssigned (kindOf hostS.cur) p.1 = true ∧ cregWriteMode (kindOf hostS.cur) p.1 ≤ hostS.me.mode.toNat) ∧
    (cregAssigned (kindOf packS.cur) 17 = true ∧ cregWriteMode (kindOf packS.cur) 17 ≤ packS.me.mode.toNat ∧
      ((regs packS [(4, 0x30)]).rs 4).toNat % 16 = 0) ∧
    (∀ n ∈ [8, 16, 20, 24, 39, 256, 263], cregAssigned (kindOf packS.cur) n = true → cregWriteMode (kindOf packS.cur) n ≤ packS.me.mode.toNat) ∧
    (∀ n ∈ [64, 67], cregAssigned (kindOf ctlS.cur) n = true ∧ cregWriteMode (kindOf ctlS.cur) n ≤ ctlS.me.mode.toNat) := by decide
theorem witness_translation_writes :
    ∀ p ∈ transWrites, cregAssigned (kindOf (inMode hostS 2).cur) p.1 = true ∧
      cregWriteMode (kindOf (inMode hostS 2).cur) p.1 ≤ (inMode hostS 2).me.mode.toNat := by decide
theorem witness_scope_writes :
    (∀ n ∈ [264, 287], cregAssigned (kindOf hostS.cur) n = true ∧ cregWriteMode (kindOf hostS.cur) n ≤ hostS.me.mode.toNat) ∧
    (hostS.rs 5).getLsbD 0 = false ∧ ((regs hostS [(5, 0x4001)]).rs 5).getLsbD 0 = true ∧
    gives (checkVa (regs hostS [(5, 0x4001)]) .read true (bitmapAddr ((regs hostS [(5, 0x4001)]).rs 5)))
      (fun s1 tr => gives (loadAt s1 tr 64 false) fun _ bs => bs.length == 64) = true := by decide
theorem witness_control_faults :
    let s := handled hostS
    let u := handled (inMode hostS 0)
    cregAssigned (kindOf s.cur) 1023 = false ∧ cregAssigned (kindOf u.cur) 5 = true ∧ u.me.mode.toNat < cregReadMode (kindOf u.cur) 5 ∧
    u.me.mode.toNat < cregWriteMode (kindOf u.cur) 5 ∧
    entryGoes s s.cur (enteredMode s.me.mode (cILLEGAL, 0)) (faultOf s (cILLEGAL, 0) 0) = true ∧
    entryGoes u u.cur (enteredMode u.me.mode (cPRIV, 0)) (faultOf u (cPRIV, 0) 0) = true := by decide
theorem witness_trap :
    (let s := handled (inMode hostS 0); entryGoes s.dirtied s.cur 1 (trapOf s 0xFFFF) = true) ∧
    (let s := handled hostS; entryGoes s.dirtied s.cur 2 (trapOf s 0) = true) ∧
    (let s := handled packS; entryGoes s.dirtied s.cur 2 (trapOf s 0x12) = true) := by decide
theorem witness_eret :
    hostS.me.mode ≠ 0 ∧ (hostS.me.exc hostS.me.mode).epc.toNat % 8 = 0 ∧ hostS.me.serving = none ∧
    (let s := handled (inMode hostS 0)
     s.me.mode = 0 ∧ entryGoes s s.cur (enteredMode s.me.mode (cPRIV, 0)) (faultOf s (cPRIV, 0) 0) = true) ∧
    (let s := handled hostS
     let s := s.setMe { s.me with sup := { s.me.sup with epc := 0x104 } }
     s.me.mode ≠ 0 ∧ (s.me.exc s.me.mode).epc.toNat % 8 ≠ 0 ∧
     entryGoes s s.cur (enteredMode s.me.mode (cMISALIGN, 0)) (faultOf s (cMISALIGN, 0) (s.me.exc s.me.mode).epc) = true) := by decide
theorem witness_failed_entry :
    let s := regs hostS [(9, 0x10C)]
    (s.rs 9).toNat % 8 ≠ 0 ∧ (s.me.exc (enteredMode s.me.mode (cMISALIGN, 0))).fhandler = 0 ∧ partOf s s.cur = none ∧ s.me.live = true ∧
    s.me.launch = none ∧
    (let p := packS.setMe { packS.me with part := some 3, launch := some 1 }
     partOf p p.cur = some 3 ∧ pQuiesce p 3 = false) := by decide
theorem witness_events :
    hostS.me.evt = false ∧ (hostS.setMe { hostS.me with evt := true }).me.evt = true ∧ kindOf hostS.cur = .host ∧ hostS.me.launch = none ∧
    hostS.me.mode ≠ 0 ∧ kindOf ctlS.cur = .ctl ∧ recordsGone ctlS.me = true ∧ kindOf packS.cur = .pack ∧
    (let s := handled packS; entryGoes s s.cur (enteredMode s.me.mode (cILLEGAL, 4)) (faultOf s (cILLEGAL, 4) 0) = true) ∧
    (let s := handled (inMode hostS 0); entryGoes s s.cur (enteredMode s.me.mode (cPRIV, 0)) (faultOf s (cPRIV, 0) 0) = true) := by decide
theorem witness_points_and_pauses :
    packS.me.narrow = false ∧ (inMode packS 0).me.mode = 0 ∧ kindOf packS.cur = .pack ∧ kindOf ctlS.cur = .ctl ∧
    (65535 : BitVec 16) ≠ 0 ∧ ((regs hostS [(4, 0x1FFFF)]).rs 4).toNat % 65536 ≠ 0 ∧ ((regs hostS [(4, 0x10000)]).rs 4).toNat % 65536 = 0 ∧
    ((hostS.setMe { hostS.me with wait := .nap 7 }).ctx hostS.cur).wait = .nap 7 := by decide
theorem witness_invalidations :
    hostS.me.mode ≠ 0 ∧ hostS.mem.invals = [] ∧ canonical (hostS.rs 4) = true ∧ hostS.me.narrow = false ∧
    (hostS.setMe { hostS.me with wait := .lwait 0 }).me.wait = .lwait 0 ∧ 0 ≤ hostS.hubTime := by decide
/-- A supervisor host core in a package that has granted its site queues, queue 0 of partition 0 enabled. -/
def launchS : State := regs (setHubF (setHubF (handled hostS) (siteCtl 0) 48 11 16) 0x4000 0 1 1) [(4, 0), (5, 0x4000)]
theorem witness_launch :
    (let s := launchS.setMe { launchS.me with wait := .launch 0 7 }
     s.me.wait = .launch 0 7 ∧ (s.queue 0).length < 64 ∧ 64 ≤ ((s.setQueue 0 (List.replicate 64 { packet := 7, seq := 1 })).queue 0).length) ∧
    launchS.me.wait = .none ∧ (hostS.setMe { hostS.me with launch := some 9 }).me.launch.isSome = true ∧
    mayLaunch hostS 0 = false ∧ mayLaunch launchS (launchS.rs 4).toNat = true ∧ pQuiesce launchS (queuePart launchS 0) = false ∧
    gives (checkVa launchS .read false (launchS.rs 5))
      (fun s1 tr => decide (s1.mem.invals = [] ∧ (s1.queue 0).length < 64) && gives (loadAt s1 tr 64 false) fun _ _ => true) = true ∧
    (let s := handled hostS; entryGoes s s.cur (enteredMode s.me.mode (cQUEUE, 1)) (faultOf s (cQUEUE, 1) 0) = true) ∧
    (let s := regs launchS [(5, 0x4008)]
     (s.rs 5).toNat % 64 ≠ 0 ∧ entryGoes s s.cur (enteredMode s.me.mode (cMISALIGN, 0)) (faultOf s (cMISALIGN, 0) (s.rs 5)) = true) := by decide

/-! ### Witnesses: memory -/

namespace Witness

theorem gives_iff {α ε : Type} {p : State × Except ε α} {q : State → α → Bool} :
    gives p q = true ↔ ∃ s a, p = (s, .ok a) ∧ q s a = true := by
  obtain ⟨s, a | a⟩ := p
  · simp [gives]
  · exact ⟨fun h => ⟨s, a, rfl, h⟩, fun ⟨_, _, h, hq⟩ => by cases h; exact hq⟩
theorem stores_iff {ε : Type} {p : State × Option ε} {q : State → Bool} : stores p q = true ↔ ∃ s, p = (s, none) ∧ q s = true := by
  obtain ⟨s, _ | a⟩ := p <;> simp [stores]
theorem plainBytes_of {s : State} {a n : Nat}
    (h : 1 ≤ n ∧ a % 64 + n ≤ 64 ∧ (setOf s a).isSome = true ∧ (homeKey s a).all (fun k => !memPoison s.mem k) = true) : PlainBytes s a n :=
  ⟨h.1, h.2.1, h.2.2.1, fun k hk => by have := h.2.2.2; rw [hk] at this; simpa using this⟩
/-- A state whose memory holds bytes at a physical address. -/
def holding (s : State) (pa : Nat) (l : List Byte) : State := (s.setMem (putBytes s.mem ((homeKey s pa).getD 0) l))

/-- The host core with an address in `s4`, an operand in `s5`, memory at that address. -/
def loadS : State := holding (regs hostS [(4, 0x4038), (5, 5), (7, 0x81)]) 0x4038 [0x81, 0x82, 0x83, 0x84, 0x85, 0x86, 0x87, 0x88]

end Witness

theorem witness_plain_host : PlainHost loadS ∧ PlainBytes loadS 0x4038 8 ∧ PlainBytes loadS 0x403F 1 ∧
    (indexed loadS 4 0 3).toNat % Sz.b8.bytes = 0 ∧ (offset loadS 4 7).toNat % Sz.b1.bytes = 0 ∧ scopeFails loadS loadS.cur 0 = none ∧
    scopeFails loadS loadS.cur 31 ≠ none ∧ loadS.mem.invals = [] := by
  refine ⟨?_, plainBytes_of (by decide), plainBytes_of (by decide), by decide, by decide, by decide, by decide, rfl⟩
  unfold PlainHost; decide
/-- R222: a byte of 0x81 loaded with and without its sign. -/
theorem test_load :
    next (exec (.ldImm .b1 true 6 4 0) loadS) (fun t => t.rs 6 == 0xFFFFFFFFFFFFFF81) = true ∧
    next (exec (.ldImm .b4 false 6 4 4) loadS) (fun t => t.rs 6 == 0x88878685) = true := by decide
/-- R224, R225: the maximum of signed bytes, and a compare that succeeds. -/
theorem test_atomics :
    next (exec (.atom .b1 .max .relaxed 0 6 4 5) loadS) (fun t => t.rs 6 == 0x81 && physByte t 0x4038 == 5) = true ∧
    next (exec (.cas .b1 .relaxed 0 6 4 7 5) loadS) (fun t => t.rs 6 == 0x81 && physByte t 0x4038 == 5) = true := by decide
theorem witness_accesses :
    (offset loadS 4 0).toNat % 8 = 0 ∧ (offset loadS 4 4).toNat % 8 ≠ 0 ∧
    gives (checkVa loadS .read true (offset loadS 4 0)) (fun s1 tr => gives (loadAt s1 tr 8 false) fun _ bs => bs.length == 8) = true ∧
    gives (checkVa loadS .write true (offset loadS 4 0)) (fun s1 tr => stores (storeAt s1 tr (toBytes (s1.rs 5) 8) false) fun _ => true) = true ∧
    (let s := handled loadS
     entryGoes s s.cur (enteredMode s.me.mode (cMISALIGN, 0)) (faultOf s (cMISALIGN, 0) (offset s 4 4)) = true) ∧
    (let s := handled (inMode loadS 0)
     fails (checkVa s .read true (offset s 4 0)) (fun s1 c => entryGoes s1 s1.cur (enteredMode s1.me.mode c) (faultOf s1 c (offset s 4 0))) = true) := by
  decide
namespace Witness
/-- What `ReachesHome` asks of 8 bytes, with no copy in the acting core's L1 or in a slice of its die. -/
def reaches (s : State) (tr : Trans) : Bool :=
  !tr.dev && decide (tr.pa % 64 + 8 ≤ 64) && (setOf s tr.pa).isSome && (homeKey s tr.pa).all (fun k => !memPoison s.mem k) &&
  !homeRefuses s (partOf s s.cur) tr.pa && s.mem.ranges.isEmpty && s.mem.partials.isEmpty && s.mem.fwd.isEmpty && hubF s 0x700 0 1 == 0 &&
  s.mem.l1.isEmpty && s.mem.ncf.isEmpty && s.mem.invals.isEmpty
/-- A user-mode host thread whose tables at 0x10000, 0x11000 and 0x12000 map the first GiB, and a pack on an NCF die with slice 0. -/
def pagedS : State :=
  let s := regs (inMode hostS 0) [(4, 0x4000)]
  let s := s.setMe { s.me with ttb1 := 0x10001 }
  let k (pa : Nat) : Nat := (homeKey s pa).getD 0
  s.setMem { s.mem with bytes := [(k 0x10000, 1), (k 0x10001, 0x10), (k 0x10002, 1), (k 0x11000, 1), (k 0x11001, 0x20), (k 0x11002, 1),
                                  (k 0x12000, 0x2F), (k 0x12001, 3)] }
def ncfS : State :=
  let s := (regs packS [(4, 0x4000)]).setSite 1 { packS.site 1 with cls := 2 }
  ((s.setMe { s.me with part := some 0 }).setHub 0x2C50 0x10).setWin 1 0x100000 1
end Witness
theorem witness_translated :
    (∀ k ∈ [AccKind.read, .write, .atomic], gives (checkVa pagedS k true (pagedS.rs 4)) reaches = true) ∧
    cohClass pagedS (mySite pagedS) ≠ 2 ∧ scopeFails pagedS pagedS.cur 0 = none ∧
    (∀ k ∈ [AccKind.read, .write, .atomic], gives (checkVa ncfS k true (ncfS.rs 4)) (fun s tr => reaches s tr &&
      decide (cohClass s (mySite s) = 2 ∧ mySite s ≠ 0 ∧ (sliceFor s (mySite s) (partOf s s.cur) tr.pa).isSome = true ∧
        oldSliceFor s (mySite s) (partOf s s.cur) tr.pa = none) && !wideScope s s.cur 0) = true) := by decide
/-- R218: REDS of a line of an admitted peer. -/
theorem witness_remote_reds :
    (let s := regs (hostS.setMem { hostS.mem with peers := [5] }) [(4, BitVec.ofNat 64 (remoteBase + 5 * 2 ^ 44 + 0x4000))]
     offers s [2] ∧ (s.rs 4).toNat % 8 = 0 ∧
     gives (checkVa s .atomic false (s.rs 4)) (fun s1 tr => isRemote tr.pa && (homeKey s1 tr.pa).any fun k => !memPoison s1.mem k) = true) := by
  unfold offers; decide
theorem witness_fences :
    scopeFails packS packS.cur 3 = none ∧ packS.mem.invals = [] ∧ 64 ≤ coreOf packS.cur ∧ FenceKind.acq ≠ .rel := by decide
theorem witness_maintenance :
    (let s := regs packS [(4, 0x4010), (5, 0x40)]
     0 < (s.rs 5).toNat ∧ (s.rs 5).toNat ≤ 0x40000000 ∧
     gives (checkPieces s .write true (s.rs 4 - BitVec.ofNat 64 ((s.rs 4).toNat % 64)) (linesOf (s.rs 4) (s.rs 5).toNat)
       (linesOf (s.rs 4) (s.rs 5).toNat + 1)) (fun s1 ps => stores (ps.foldl (maintPiece .inv) (s1, none)) fun _ => ps.length == 1) = true) ∧
    (regs packS [(5, 0)]).rs 5 = 0 ∧ 0x40000000 < ((regs packS [(5, 0x40000001)]).rs 5).toNat := by decide
namespace Witness
/-- A host core about to define 2,048 bytes as a reduction range, and one that has defined them. -/
def rangeS : State := regs hostS [(4, 0x4000), (5, 1)]
def rangedS : State := rangeS.setMem { rangeS.mem with ranges := [⟨none, 0x4000, 2048, .f64, .add⟩] }
end Witness
theorem witness_ranges :
    offers rangeS [2] ∧ rangeS.me.narrow = false ∧
    (let s := rangeS
     (s.rs 4).toNat % 2048 = 0 ∧ 0 < (s.rs 5).toNat ∧ (s.rs 5).toNat ≤ 524288 ∧
     gives (checkVa s .atomic false (s.rs 4)) (fun s1 tr =>
       (mappingEnd s1 (unitTrans s1 s1.cur s1.me.mode) (s.rs 4)).all (fun e => decide ((s.rs 4).toNat % 2 ^ 57 + 2048 * (s.rs 5).toNat ≤ e)) &&
       inSets s1 tr.pa (2048 * (s.rs 5).toNat) 33 && clearOfPairs s1 tr.pa (2048 * (s.rs 5).toNat) && s1.mem.ranges.isEmpty) = true) ∧
    gives (checkVa rangedS .read false (rangedS.rs 4))
      (fun s1 tr => (s1.mem.ranges.find? fun r => r.part == partOf s1 s1.cur && r.base == tr.pa).isSome) = true := by unfold offers; decide
theorem witness_reds :
    offers rangedS [2] ∧ (rangedS.rs 4).toNat % 8 = 0 ∧ siteOfCore (coreOf rangedS.cur) = 0 ∧
    gives (checkVa rangedS .atomic false (rangedS.rs 4)) (fun s1 tr => !isRemote tr.pa && (sliceFor s1 0 (partOf s1 s1.cur) tr.pa).isSome &&
      (rangeOf s1 (partOf s1 s1.cur) tr.pa).any fun r => rfmtBytes r.fmt == 8) = true ∧
    (let s := handled (regs rangedS [(4, 0x4800)])
     gives (checkVa s .atomic false (s.rs 4)) (fun s1 tr => !isRemote tr.pa && (rangeOf s1 (partOf s1 s1.cur) tr.pa).isNone &&
       entryGoes s1 s1.cur (enteredMode s1.me.mode (cBOUNDS, 6)) (faultOf s1 (cBOUNDS, 6) (s.rs 4))) = true) := by unfold offers; decide
theorem witness_descriptors :
    (let s := regs hostS [(4, 0x4000), (5, 64), (6, 0x0001)]
     offers s [3] ∧ s.me.narrow = false ∧ PlainHost s ∧ PlainBytes s 0x4000 64 ∧ (s.rs 6).toNat < 65536 ∧
     descOk ((s.rs 6).setWidth 16) = true ∧ (homeKey s 0x4000).isSome = true) ∧
    65536 ≤ ((regs hostS [(6, 0x10000)]).rs 6).toNat ∧ descOk (((regs hostS [(6, 0xFFFF)]).rs 6).setWidth 16) = false := by
  refine ⟨⟨by unfold offers; decide, by decide, by unfold PlainHost; decide, plainBytes_of (by decide), by decide, by decide, by decide⟩, by decide, by decide⟩

/-! ### Witnesses: blocks, barriers, copies of packs -/

namespace Witness

/-- A block of two packs on core 64, its first the acting pack, with 64 bytes of shared memory. -/
def blockOf : Block := { launch := 1, core := 64, part := some 0, x := 0, y := 0, z := 0, cohidx := 0, cohort := some 9, maxpacks := 4, cohblocks := 1, narrow := false, vregs := 8, sharedSize := 64, packs := [(0, unitId 64 0), (1, unitId 64 1)] }
def inBlock (blk : Block) : State :=
  let s := packS.setBlock 5 (some blk)
  handled (s.setMe { s.me with block := some 5 })
/-- Block barrier 3 and the cohort barrier with two arrivals expected, `n` of them come. -/
def barAt (n : Nat) (l : List (Nat × Nat)) : Bar := { exp := 2, fixed := true, arr := n, counted := [(5, 0), (5, 1)], arrived := l, last := l.map fun p => (p, 0) }
def barS (x : Bar) : State :=
  let s := inBlock { blockOf with bars := [(3, x)] }
  { s with cohorts := [(9, some { launch := 1, blocks := [5], bar := x })] }
def blkAt (s : State) : Block := (s.block 5).getD blockOf

end Witness

theorem witness_block_barriers :
    let first := barS (barAt 0 [])
    let last := barS (barAt 1 [(5, 1)])
    let again := barS (barAt 1 [(5, 0)])
    PackOf first 5 (blkAt first) [] ∧ PackOf last 5 (blkAt last) [5] ∧
    ((blkAt first).bar 3).waits (5, 0) = false ∧ (5, 0) ∈ ((blkAt first).bar 3).counted ∧ ((blkAt first).bar 3).arr + 1 < ((blkAt first).bar 3).exp ∧
    ((blkAt last).bar 3).waits (5, 0) = false ∧ ((blkAt last).bar 3).arr + 1 = ((blkAt last).bar 3).exp ∧ ((blkAt last).bar 3).held = [] ∧
    ((blkAt again).bar 3).waits (5, 0) = true ∧ ((blkAt last).bar 4).fixed = false ∧ ((blkAt last).bar 4).arr = 0 ∧ 1 < (blkAt last).packs.length ∧
    last.me.wait = .none ∧ entryGoes again again.cur (enteredMode again.me.mode (cBARRIER, 0)) (faultOf again (cBARRIER, 0) 0) = true ∧
    ((last.setMe { last.me with wait := .bar 3 }).me.wait = .bar 3) := by unfold PackOf offers; decide
theorem test_barrier : next (exec (.bar 3) (barS (barAt 1 [(5, 1)]))) (fun t => (((blkAt t).bar 3).ph, ((blkAt t).bar 3).arr, t.me.pc) == (1, 0, 8)) = true ∧
    next (exec (.bar 3) (barS (barAt 0 []))) (fun t => (((blkAt t).bar 3).ph, ((blkAt t).bar 3).arr, t.me.pc) == (0, 1, 0)) = true := by decide
theorem witness_cohort_barriers :
    (let s := barS (barAt 1 [(5, 1)])
     PackOf s 5 (blkAt s) [5] ∧ s.me.wait ≠ .cohbar ∧ (blkAt s).cohort = some 9 ∧
     (s.cohort 9).any (fun c => !c.bar.waits (5, 0) && c.bar.fixed && c.bar.counted.contains (5, 0) && c.bar.held.isEmpty && c.bar.arr + 1 == c.bar.exp)
       = true) ∧
    (let s := inBlock { blockOf with cohort := none }
     (blkAt s).cohort = none ∧ entryGoes s s.cur (enteredMode s.me.mode (cBARRIER, 1)) (faultOf s (cBARRIER, 1) 0) = true) := by
  unfold PackOf offers; decide
namespace Witness
/-- A block with one pack queued, in an enabled partition that owns core 64 and has a save area. -/
def growS : State :=
  let s := inBlock { blockOf with attach := [(1, 0x40)] }
  ((((s.setHub 0x3400 0x10).setHub 0x2C50 0x10).setHub 0x6030 0x100000).setHub 0x6038 64).setCtx (unitId 64 1) { live := true }
end Witness
theorem witness_attach :
    (let s := regs growS [(4, 1)]
     PackOf s 5 (blkAt s) [4] ∧ 1 ≤ (s.rs 4).toNat ∧ (s.rs 4).toNat ≤ 32 ∧
     (blkAt s).packs.length + queuedPacks (blkAt s) + (s.rs 4).toNat ≤ (blkAt s).maxpacks) ∧
    (growS.rs 4) = 0 ∧
    (let s := regs growS [(4, 2)]
     (blkAt s).maxpacks < (blkAt s).packs.length + queuedPacks (blkAt s) + (s.rs 4).toNat ∧
     entryGoes s s.cur (enteredMode s.me.mode (cBOUNDS, 12)) (faultOf s (cBOUNDS, 12) 0) = true) := by unfold PackOf offers; decide
theorem witness_detach : PackOf growS 5 (blkAt growS) [4] ∧ growS.me.aclanes = [] ∧ growS.me.acfail = [] := by unfold PackOf offers; decide
theorem witness_attach_grant :
    let s := growS
    (blkAt s).attach = [(1, 0x40)] ∧ (blkAt s).resident = true ∧ mayPlace s 0 = true ∧ simtFits s 0 64 1 8 false 0 = true ∧
    pagesFit s 0 (packPages 8 false) = true ∧ freeSlot s 64 = some 2 := by decide
namespace Witness
/-- A control context whose Canvas holds a barrier at offset 16, with a number in `s5`. -/
def tbS (phase arrive expect : Nat) (sect : Int) (faults n : Nat) : State :=
  let s := regs ctlS [(4, 16), (5, BitVec.ofNat 64 n)]
  tbWrite (s.setMe { s.me with csize := 0x18000 }) 16 (tbMake phase arrive expect sect faults)
end Witness
theorem witness_transaction_barriers :
    let s := tbS 3 1 5 (-7) 15 6
    let w := tbS 15 1 5 (-7) 2 7
    offers s [6] ∧ s.me.narrow = false ∧ kindOf s.cur ≠ .host ∧ (s.rs 4).toNat % 16 = 0 ∧ (s.rs 4).toNat + 16 ≤ tbRoom s ∧
    tbMbz (tbRead s 16) = 0 ∧ tbExpect (tbRead s 16) = 5 ∧ tbArrive (tbRead s 16) = 1 ∧ tbSect (tbRead s 16) + 6 < 0 ∧
    tbSect (tbRead w 16) + 7 = 0 ∧ tbPhase (tbRead w 16) = 15 ∧ tbPhase (tbRead s 16) = 3 ∧ (s.rs 5).toNat % 16 ≠ 3 ∧
    1 < tbArrive (tbRead (tbS 3 2 5 0 0 3) 16) ∧ tbPhase (tbRead (tbS 3 2 5 0 0 3) 16) = 3 ∧
    (let p := regs (inBlock blockOf) [(4, 48)]; kindOf p.cur = .pack ∧ (p.rs 4).toNat + 16 ≤ tbRoom p) := by unfold offers; decide
/-- R189: the last arrival of a phase that owes no sector, and of one whose sectors have come in excess. -/
theorem test_tbarr :
    next (exec (.tbarr 4 5) (tbS 15 1 5 (-7) 2 7)) (fun t => tbRead t 16 == tbMake 0 5 5 0 2) = true ∧
    next (exec (.tbarr 4 5) (tbS 3 1 5 (-7) 15 6)) (fun t => tbRead t 16 == tbMake 4 5 5 0 15) = true := by decide
namespace Witness
/-- A pack whose lane 2 is active, with shared offset 16, address 0x4000 and byte count 20 in `v1`, `v2` and `v4`. -/
def acS : State :=
  let s := regs (inBlock blockOf) [(3, 4)]
  let s := s.setCore 64 { s.core 64 with tokens := 9 }
  s.setMe { s.me with vregs := 8, vreg := [(66, 16), (130, 0x4000), (258, 20)] }
end Witness
theorem witness_pack_copies :
    let s := acS
    PackOf s 5 (blkAt s) [6] ∧ s.activeMask 3 ≠ 0 ∧ (1 : LReg).toNat + 1 ≤ s.me.vregs ∧ (2 : LReg).toNat + 2 ≤ s.me.vregs ∧
    (4 : LReg).toNat + 1 ≤ s.me.vregs ∧ (2 : LReg).getLsbD 0 = false ∧ canPay s 1 = true ∧ acCount s.me 5 = 0 ∧ s.me.acfail = [] ∧
    (let r := acChecks (blkAt s).sharedSize 16 5 1 2 4 (s.activeLanes 3) 0 (s.activeLanes 3).length (debit s 1)
     r.2.1 = [] ∧ r.2.2.length = 1 ∧ acCount r.1.me 5 < 255) := by unfold PackOf offers; decide
theorem witness_copy_lands :
    next (exec (.acpy 2 5 3 1 2 4) acS) (fun s =>
      ((s.ctx s.cur).aclanes.find? fun x => x.tag == 5 && x.lane == 2).any fun x =>
        x.bar.isNone && gives (acFetch s s.cur x) (fun s1 bs => (s1.ctx s.cur).block == some 5 && (s1.block 5).isSome && bs.length == 16) &&
        acCount s.me 5 != 0) = true := by decide

/-! ### Witnesses: lanes -/

namespace Witness

/-- A pack with tokens, eight lane registers and lanes 0, 5 and 63 under the mask in `s3`; `s4` names no lane. -/
def laneS : State :=
  let s := regs (inBlock blockOf) [(3, 0x8000000000000021), (4, 0)]
  let s := s.setCore 64 { s.core 64 with tokens := 64 }
  s.setMe { s.me with vregs := 8, vreg := [(64, 4), (69, 8), (127, 56), (128, 0x4000), (133, 0x4008), (191, 0x4038)] }

end Witness

theorem witness_lanes :
    (∀ price ∈ [0, 1, 2, 3, 16, 24], LaneReady laneS 3 price [0, 1, 2]) ∧ (∀ t ∈ intTypes ++ floatTypes, HasReg laneS t 6 ∧ HasReg laneS t 0) ∧
    HasReg laneS .n32 7 ∧ laneS.me.narrow = false ∧ laneS.activeMask 4 = 0 ∧ laneMask (.iadd .i32 false 4 1 2 3) = some 4 ∧
    (∀ t ∈ intTypes ++ floatTypes, canPay laneS (laneS.me.price (scanPrice t)) = true) := by unfold LaneReady HasReg offers; decide
theorem witness_narrow_lanes :
    let s := laneS.setMe { laneS.me with narrow := true, vregs := 16 }
    LaneReady s 3 16 [1] ∧ s.me.narrow = true ∧ (12 : LReg).toNat % 4 = 0 ∧ (12 : LReg).toNat + 4 ≤ s.me.vregs := by
  unfold LaneReady offers; decide
theorem witness_lanes_outside_a_pack :
    let s := regs (handled hostS) [(3, 5)]
    kindOf s.cur ≠ .pack ∧
    entryGoes s s.cur (enteredMode s.me.mode (cILLEGAL, 4))
      { cause := (cILLEGAL, 4), kind := 0, lanes := s.activeMask 3, perLane := (bitsOf (s.activeMask 3).toNat 64).map fun l => ⟨l, (cILLEGAL, 4), 0⟩,
        maskreg := 3, frm := s.me.mode, word := s.word } = true := by
  decide
theorem witness_tokens :
    0 < 64 ∧ 64 ≤ (laneS.core (coreOf laneS.cur)).tokens ∧
    (let s := laneS.setCore 64 {}
     kindOf s.cur = .pack ∧ s.activeMask 3 ≠ 0 ∧ (s.core (coreOf s.cur)).tokens = 0 ∧ s.me.needs = none) := by decide

/-! ### Witnesses: lane memory -/

theorem witness_shared :
    laneS.me.block = some 5 ∧ laneS.block 5 = some (blkAt laneS) ∧
    SharedFits laneS 3 (blkAt laneS) 4 (fun l => (laneS.rv 1 l + laneS.rv 7 l).toNat) ∧
    (let s := regs laneS [(3, 0x20)]
     bitsOf (s.activeMask 3).toNat 64 = [5] ∧ SharedFits s 3 (blkAt s) 8 (fun l => (s.rv 1 l).toNat) ∧ scopeFails s s.cur 0 = none) := by
  refine ⟨by decide, by decide, ?_, by decide, ?_, by decide⟩
  · intro l h
    have : l < 64 := by simp [isActive] at h; omega
    revert h; revert l; decide
  · intro l h
    have : l < 64 := by simp [isActive] at h; omega
    revert h; revert l; decide
namespace Witness
/-- The pack after paying two tokens, and what its checks of an access give. -/
def paid (s : State) : State := debit s (s.me.price 2)
end Witness
theorem witness_global_lanes :
    let s := laneS
    let ea := fun l => s.rv64 2 l + (0 : BitVec 18).signExtend 64
    GlobalRegs s .n32 6 2 ∧ scopeFails s s.cur 6 = none ∧ ldlPermitted (paid s) = true ∧
    (let s := regs laneS [(3, 0x20)]
     let r := laneChecks .read true 4 ea noRow ((paid s).activeLanes 3)
        ((paid s).setCore 64 { (paid s).core 64 with locKeep := ((paid s).core 64).locKeep.filter fun u => u != s.cur })
     let p := acquirePoint (portStream r.1 .read (r.1.activeLanes 3) ea) 6
     let q := laneLoads none 4 (wideScope p p.cur 6) [] r.2.2 p
     r.2.1 = [] ∧ r.2.2.length = 1 ∧ q.2.1 = [] ∧ q.1.activeLanes 3 = q.2.2.map (·.1)) ∧
    (let r := laneChecks .write true 4 ea noRow ((paid s).activeLanes 3) (paid s)
     let p := portStream r.1 .write (r.1.activeLanes 3) ea
     r.2.1 = [] ∧ r.2.2 ≠ [] ∧ p.mem.invals = [] ∧ (laneStores none 4 false (fun l => p.laneVal .n32 6 l) r.2.2 p).2 = []) := by
  unfold GlobalRegs HasReg; decide
theorem witness_global_atomics :
    let s := laneS
    let r := laneChecks .atomic true 4 (fun l => (paid s).rv64 2 l) noRow ((paid s).activeLanes 3) (paid s)
    let p := portStream r.1 .atomic (r.1.activeLanes 3) fun l => (paid s).rv64 2 l
    let q := acquirePoint p 2
    let a := laneAtomics none 4 (wideScope q q.cur 2) (fun l old => some (atomicOp .add old (q.laneVal .n32 6 l).toNat 4)) r.2.2 q
    r.2.1 = [] ∧ r.2.2.length = 3 ∧ p.mem.invals = [] ∧ a.2.1 = [] ∧ a.1.activeLanes 3 = a.2.2.map (·.1) ∧ scopeFails s s.cur 2 = none := by
  decide
theorem witness_lane_reductions :
    let s := laneS.setMem { laneS.mem with ranges := [⟨none, 0x4000, 2048, .f32, .add⟩] }
    let ea := fun l => s.rv64 2 l + (0 : BitVec 18).signExtend 64
    let r := laneChecks .atomic false 4 ea (redRow .f32) ((paid s).activeLanes 3) (paid s)
    let p := portStream r.1 .atomic (r.1.activeLanes 3) ea
    offers s [2] ∧ s.me.narrow = false ∧ r.2.1 = [] ∧ r.2.2.length = 3 ∧ (laneReduces none .f32 (fun l => p.laneVal .f32 6 l) r.2.2 p).2 = [] := by
  unfold offers; decide
theorem witness_lane_faults :
    let s := laneS.setMe { laneS.me with vreg := [(128, 0x4000), (133, 0x4009), (191, 0x403A)] }
    let r := laneChecks .write true 4 (fun l => s.rv64 2 l + (0 : BitVec 18).signExtend 64) noRow ((paid s).activeLanes 3) (paid s)
    r.2.1.map (fun e => (e.lane, e.cause)) = [(5, (cMISALIGN, 0)), (63, (cMISALIGN, 0))] ∧
    (let e := r.2.1.headD ⟨0, (0, 0), 0⟩
     entryGoes r.1 r.1.cur (enteredMode r.1.me.mode e.cause)
       { cause := e.cause, addr := e.addr, kind := 0, lanes := lanesMask r.2.1, perLane := r.2.1, maskreg := 3, frm := r.1.me.mode,
         word := r.1.word } = true) := by decide

/-! ### Witnesses: engine queues -/

namespace Witness

/-- A control context with a task's Canvas and slots, in a package whose core 256 it may use. -/
def taskS : State := let s := handled ctlS; s.setMe { s.me with csize := 0x18000, accslots := 8, accsave := 0x5000C }
/-- A fill of two elements of 8 bytes at Canvas offset 0x40. -/
def fillRec : CopyRec :=
  { copyRec 0 with gva := 0x8877665544332211, canvas := 0x40, tbar := 0xFFFFFFFF, n0 := 2, n1 := 1, n2 := 1, n3 := 1, order := 0xE4, es := 3 }
def fillBits : Rec512 := fillRec.bits 0x14
/-- The octet from `s8` holds a record. -/
def octetS (s : State) (b : Rec512) : State := regs s ((List.range 8).map fun j => (BitVec.ofNat 6 (8 + j), b.extractLsb' (64 * j) 64))
/-- A queue of the acting context with its entries. -/
def queued (s : State) (q : EQueue) (l : List QEntry) : State := s.setMe (s.me.setEntries q l)

theorem octetIs_of {s : State} {sa : SReg} {b : Rec512} (h : ((List.range 8).all fun j => b.extractLsb' (64 * j) 64 == s.me.reg (sa.toNat + j)) = true) :
    octetIs s sa b := fun j hj => by
  have := (List.all_eq_true.mp h) j (List.mem_range.mpr hj)
  simpa using this

end Witness

theorem witness_pushes :
    CtlAt taskS 2 ∧ octetIs (octetS taskS fillBits) 8 fillBits ∧ mayPush (octetS taskS fillBits) .lq fillBits ∧
    queueOfOp (recOp fillBits) ≠ some .mq ∧
    (let s := queued taskS .lq (List.replicate 32 (.marker 0)); qSize .lq ≤ (s.me.entries .lq).length ∧ ownsEngine s .lq = true) ∧
    entryGoes taskS taskS.cur (enteredMode taskS.me.mode (cQUEUE, 7)) (faultOf taskS (cQUEUE, 7) 0) = true ∧
    (let s := holding (regs taskS [(5, 0x4000)]) 0x4000 (toBytes fillBits 64)
     (s.rs 5).toNat % 64 = 0 ∧ gives (checkVa s .read false (s.rs 5)) (fun s1 tr => gives (loadAt s1 tr 64 false) fun s2 bs =>
       s2.mem.invals.isEmpty && ofBytes 512 bs == fillBits && decide (queueOfOp (recOp (ofBytes 512 bs)) = some .lq)) = true) := by
  refine ⟨by unfold CtlAt; decide, octetIs_of (by decide), by unfold mayPush; decide, by decide, by decide, by decide, by decide, by decide⟩
theorem witness_pops :
    (let s := taskS.setMe { taskS.me with oq := [5, 6] }
     CtlAt s 2 ∧ s.me.oq = [5, 6] ∧ (∀ f ∈ s.me.flights, f.posting = false)) ∧ taskS.me.oq = [] := by unfold CtlAt; decide
theorem witness_queue_waits :
    (let s := taskS.setMe { taskS.me with lseq := 3 }
     kindOf s.cur = .ctl ∧ (3 : BitVec 37).setWidth 64 ≤ s.me.counter .lq ∧ s.me.counter .lq < (4 : BitVec 37).setWidth 64) ∧
    (taskS.me.entries .mq).length < 2 ^ 8 ∧ (taskS.me.inFlight .mq).length < 2 ^ 8 ∧ taskS.me.oq.length < 2 ^ 24 ∧ ownsEngine taskS .lq = true ∧
    (headRecord (queued taskS .lq [.record fillBits 0 1 2]).me .lq).isSome = true ∧ taskS.me.lq = [] ∧ taskS.me.inFlight .sq = [] := by decide
theorem witness_leash :
    IdleArray taskS 256 ∧ (taskS.core 256).leashHolder = none ∧ (taskS.core 256).leashReqs = [] ∧ 1 ≤ (64 : BitVec 37).toNat ∧
    (64 : BitVec 37).toNat ≤ 64 ∧ 64 < (65 : BitVec 37).toNat ∧ 64 < ((regs taskS [(4, 65)]).rs 4).toNat ∧
    (let s := (taskS.setCore 256 { leashHolder := some 2, leashLeft := 4 }).setCtx (unitId 256 2)
       { live := true, flights := [{ bits := 0x20, queue := .mq, ordinal := 0, mode := 0 }] }
     (s.core 256).leashHolder = some 2 ∧ 2 ≠ s.cur % 128 ∧ arrayFree s 256 = false) ∧
    (let s := taskS.setCore 256 { leashHolder := some 0, leashLeft := 4, leashReqs := [⟨3, 2, false⟩] }
     (s.core 256).leashHolder = some (s.cur % 128) ∧ IdleArray s 256) ∧
    entryGoes taskS taskS.cur (enteredMode 1 (cILLEGAL, 0)) (faultOf taskS (cILLEGAL, 0) 0) = true ∧
    entryGoes taskS taskS.cur (enteredMode 1 (cQUEUE, 8)) (faultOf taskS (cQUEUE, 8) 0) = true := by unfold IdleArray; decide
namespace Witness
/-- Slot 7 is the task's own, its tag's image area in the page at 0x50000. -/
def slotS : State :=
  regs (taskS.setCore 256 { taskS.core 256 with owner := [(7, 12)], tagctx := [⟨12, some 0, 0x5000C, 0, 0, 0, 0, none⟩] }) [(4, 0x50000), (5, 2047)]
end Witness
theorem witness_slots :
    (slotS.core 256).slotOwner 7 = tagOf (slotS.ctx (taskOf slotS slotS.cur)) ∧ tagOf (slotS.ctx (taskOf slotS slotS.cur)) ≠ 0xFF ∧
    (slotS.ctx (taskOf slotS slotS.cur)).accslots ≤ 8 ∧ slotBusy (settleArray slotS 256) 7 = false ∧ (slotS.core 256).slotOwner 6 = 0xFF ∧
    (slotS.rs 4).toNat % 64 = 0 ∧ (slotS.rs 5).toNat ≤ 2047 ∧ 2047 < ((regs slotS [(5, 2048)]).rs 5).toNat ∧
    entryGoes slotS slotS.cur (enteredMode 1 (cBOUNDS, 9)) (faultOf slotS (cBOUNDS, 9) 0) = true := by decide
/-- A fault in service of the core's shadow context, whose own task keeps no slot: it may move the slot of the other task to its place. -/
theorem witness_slots_of_another_task :
    let s := regs (slotS.setCtx (unitId 256 1) { live := true, accslots := 8, accsave := 0x60009, csize := 0x18000 }) [(4, 0x57000)]
    let s := { s with cur := unitId 256 1 }
    let s := regs (handled (s.setMe { s.me with mode := 1 })) [(4, 0x57000)]
    kindOf s.cur = .ctl ∧ 7 < (s.ctx (taskOf s s.cur)).accslots ∧ slotBusy (settleArray s 256) 7 = false ∧
    (s.core 256).slotOwner 7 ≠ tagOf (s.ctx (taskOf s s.cur)) ∧ s.me.mode ≠ 0 ∧ s.rs 4 = saveBase 0x5000C + BitVec.ofNat 64 (4096 * 7) ∧
    ((ctlUnits 256).find? fun u => (s.ctx u).live && tagOf (s.ctx u) == (s.core 256).slotOwner 7) = some (unitId 256 0) ∧
    entryGoes (settleArray s 256) (settleArray s 256).cur (enteredMode 1 (cBOUNDS, 10)) (faultOf (settleArray s 256) (cBOUNDS, 10) (s.rs 4))
      = true := by decide
theorem witness_slots_turned_away :
    (let s := slotS.setMe { slotS.me with mq := [.record (({ slotRec 0 with acc := 0, n0 := 1, n1 := 1, n2 := 1, n3 := 1 } : SlotRec).bits SlotOp.mzero.code) 0 1 2] }
     slotBusy (settleArray s 256) 0 = true) ∧
    (let s := handled (regs (slotS.setCtx (unitId 256 1) { live := true, accslots := 8, accsave := 0x60009 }) [])
     let s := { s with cur := unitId 256 1 }
     let s := handled (s.setMe { s.me with mode := 0 })
     let a := settleArray s 256
     (s.core 256).slotOwner 7 ≠ tagOf (s.ctx (taskOf s s.cur)) ∧ (s.core 256).slotOwner 7 ≠ 0xFF ∧ s.me.mode = 0 ∧
     entryGoes a a.cur (enteredMode 0 (cPRIV, 0)) (faultOf a (cPRIV, 0) 0) = true ∧
     entryGoes a a.cur (enteredMode 0 (cACCOWNER, 0))
       (faultOf a (cACCOWNER, 0) (ownerEFault (a.core 256) (s.ctx (taskOf s s.cur)) 7 0).addr) = true) := by decide
theorem witness_slot_saved :
    gives (imagePages (settleArray slotS 256) (tagTrans 256 ⟨12, some 0, 0x5000C, 0, 0, 0, 0, none⟩ slotS.me.mode) .write (slotS.rs 4))
      (fun s1 ps => stores (writeImage s1.cur none (slotBytes (slotS.core 256) (4096 * 7) 4096) ps 0 s1) fun _ => true) = true := by decide +kernel
/-- The image stands in a live range, of which an L1 keeps nothing. -/
theorem witness_slot_restored :
    let s := slotS.setMem { slotS.mem with ranges := [⟨none, 0x50000, 4096, .f64, .add⟩] }
    gives (imagePages (settleArray s 256) (unitTrans (settleArray s 256) s.cur s.me.mode) .read (s.rs 4))
      (fun s1 ps => gives (readImage s1.cur none ps s1) fun _ img => img.length == 4096) = true := by decide +kernel

/-! ### Witnesses: records -/

namespace Witness

/-- A record at the head of its queue, in state `s`. -/
def atHead (s : State) (q : EQueue) (b : Rec512) : State := queued s q [.record b 0 1 2]
def headOf (b : Rec512) : QHead := ⟨b, 0, 1⟩

end Witness

theorem witness_copies_start :
    (let s := atHead taskS .lq fillBits
     HeadReady s .lq (headOf fillBits) ∧ recOp fillBits = CopyOp.cpfill.code ∧ copyRec fillBits = fillRec ∧ s.me.inFlight .lq = [] ∧
     copyCheck s s.cur .cpfill fillRec = none) ∧
    (let r := { fillRec with n0 := 0 }
     let s := atHead taskS .lq (r.bits 0x14)
     HeadReady s .lq (headOf (r.bits 0x14)) ∧ copyRec (r.bits 0x14) = r ∧ copyCheck s s.cur .cpfill r = some ((cQUEUE, 2), 0) ∧
     s.me.oq.length < 32) := by unfold HeadReady; decide
namespace Witness
/-- A copy of one element of 8 bytes from memory, or in the Canvas, at the same addresses. -/
def moveRec : CopyRec := { fillRec with gva := 0x4000, n0 := 1 }
/-- A store of the element. -/
def moving (op : BitVec 8) : Flight := { bits := moveRec.bits op, queue := .lq, ordinal := 0, mode := 1, total := 1 }
end Witness
theorem witness_elements :
    badDval moveRec = false ∧
    gives (canvasElem taskS taskS.cur moveRec (cpSrc moveRec 0).toNat) (fun _ x => !x.1.isEmpty) = true ∧
    gives (engineRead taskS taskS.cur 1 (cpDown moveRec) (cpVa moveRec 0) 8) (fun _ x => sourceOk moveRec x.2 && x.1.length == 8) = true ∧
    gives (canvasElem taskS taskS.cur moveRec (cpDst moveRec 0)) (fun s1 x =>
      gives (engineWriteAt s1 taskS.cur 1 (cpDown moveRec) (cpVa moveRec 0) x.1
        (fun l => some (noteLine [] l (byteMask (cpVa moveRec 0).toNat x.1.length) x.2).2.desc)) fun _ _ => true) = true ∧
    (let s := taskS.setMem { taskS.mem with ranges := [⟨none, 0x4000, 2048, .f64, .add⟩] }
     gives (canvasElem s s.cur moveRec (cpDst moveRec 0)) (fun s1 x =>
       gives (engineTrans s1 s.cur 1 .atomic (cpDown moveRec) (cpVa moveRec 0)) fun s2 tr => !isRemote tr.pa &&
         (rangeOf s2 (s2.ctx s.cur).part tr.pa).any fun g => sizeMatches g false 8 &&
           stores (reduceInto s2 (engineReq s2 s.cur tr) g tr.pa 8 (ofBytesNat x.1)) fun _ => true) = true) := by decide
namespace Witness
/-- The fill in flight, with its units paid. -/
def flyS : State :=
  let s := taskS
  s.setMe { s.me with flights := [{ bits := fillBits, queue := .lq, ordinal := 0, mode := 1, total := 2 }] }
/-- An MRET to memory. -/
def toMemory : SlotRec := { slotRec 0 with head := { recHead 0 with flags := 4 } }
/-- A matrix record that has done its work and asks for an element. -/
def doneS : State :=
  let s := taskS
  s.setMe { s.me with flights := [{ bits := 0x120, queue := .mq, ordinal := 0, mode := 1, finished := true, done := 1, total := 1 }] }
end Witness
theorem witness_retirement :
    kindOf (unitId 256 0) = .ctl ∧ (flyS.ctx (unitId 256 0)).live = true ∧ (flyS.me.flight .lq 0).any (fun f =>
      !f.halted && !f.posting && (copyRec f.bits).tbar == 0xFFFFFFFF && decide (f.done < f.total) && decide (f.done < paidElems (copyRec f.bits) f))
      = true ∧ (flyS.ctx (unitId 256 0)).early = [] ∧
    (completable doneS (unitId 256 0) .mq).any (fun f => f.queue == .mq && f.cause == 0 && f.ordinal == (doneS.me.counter .mq).toNat) = true ∧
    (let s := taskS.setMe { taskS.me with flights := [{ bits := toMemory.bits 0x24, queue := .mq, ordinal := 0, mode := 1 }] }
     (s.me.flights.find? fun f => f.queue == .mq && writesMemory f && !f.halted && !f.atStart && !f.posting && f.cause == 0).isSome = true) := by
  decide
/-- A load whose address is not canonical meets a fault at its first element; a matrix record in flight has work left. -/
theorem witness_failing_elements :
    (let r := { moveRec with gva := 0x100000000000000 }
     let f : Flight := { bits := r.bits CopyOp.cpld.code, queue := .lq, ordinal := 0, mode := 1, total := 1 }
     let s := (taskS.setMe { taskS.me with flights := [f] }).setCtx (unitId 256 4) { live := true }
     s.me.flight .lq 0 = some f ∧ copyOpOf (recOp f.bits) = .cpld ∧ (copyRec f.bits).tbar = 0xFFFFFFFF ∧ f.done < paidElems (copyRec f.bits) f ∧
     (let x := landSome s s.cur .cpld (copyRec f.bits) f 1
      x.2.2.1 = 0 ∧ x.2.2.2.isSome = true ∧ (x.1.ctx s.cur).flight .lq 0 = some f ∧ x.2.1.queue = .lq ∧
      (x.1.ctx (unitId (coreOf s.cur) 4)).live = true)) ∧
    (let f : Flight := { bits := 0x20, queue := .mq, ordinal := 0, mode := 1, total := 1 }
     let s := taskS.setMe { taskS.me with flights := [f] }
     clocksHeld s 256 = false ∧
     (s.me.flights.find? fun f => f.queue == .mq && !f.finished && !f.halted && !f.atStart && !f.posting) = some f) := by decide
/-- R185: a landed element is counted; the last retires the record. -/
theorem test_copy_lands :
    next (exec (.copyElementLanded ⟨256, 0, .lq⟩ 0) flyS) (fun t => canvasBytes (t.core 256) 0x40 8 == toBytes (0x8877665544332211 : Word) 8 &&
      (t.me.flight .lq 0).any fun f => f.done == 1) = true := by decide
namespace Witness
/-- An int8 multiply of 32 by 8 by 32, B in another bank group. -/
def mmaRec : MatRec := { matRec 0 with fa := 5, fb := 5, acc := 2, a := 0, b := 0x18000, n0 := 1, n1 := 1, n2 := 1, n3 := 1 }
/-- A tile of MZERO, and rows moved between slot 0 and the Canvas. -/
def tileRec : SlotRec := { slotRec 0 with acc := 0, n0 := 1, n1 := 1, n2 := 1, n3 := 1 }
def rowRec : SlotRec := { tileRec with fmt := 3, rs := 128 }
/-- Two sums of f32 values. -/
def addRec : VecRec := { vecRec 0 with fx := 3, fy := 3, fz := 3, y := 0x40, z := 0x80, n0 := 2, n1 := 1 }
/-- The task with the Leash and all its slots free. -/
def arrayS : State := (taskS.setCore 256 { taskS.core 256 with leashHolder := some 0, leashLeft := 4, tokens := 64 }).setMe { taskS.me with csize := 0x30000 }
end Witness
theorem witness_matrix :
    let s := atHead arrayS .mq (mmaRec.bits 0x20)
    ArrayReady s (headOf (mmaRec.bits 0x20)) ∧ recOp (mmaRec.bits 0x20) = 0x20 ∧ matRec (mmaRec.bits 0x20) = mmaRec ∧
    matPasses mmaRec = 1 ∧ 0 ≤ matSlot mmaRec 0 ∧ mmaRec.acc ≠ 3 ∧
    gives (matCheck (settleArray s 256) s.cur false mmaRec) (fun s1 x => x == (5, 5) && s1.me == s.me && s1.cur == s.cur &&
      ownerFault (s1.core 256) s.me (matSlots mmaRec) == none && (s1.core 256).tokq.isEmpty &&
      let units := (rangeFrom 0 (matPasses mmaRec)).flatMap fun p => passUnits mmaRec ((fmtClass 5).getD 0) (bitmapWord s1 s.cur false mmaRec p)
      decide (0 < (units.map fun x => x.1 * x.2).sum ∧ (units.map fun x => x.1 * x.2).sum ≤ (s1.core 256).tokens)) = true := by
  unfold ArrayReady HeadReady; decide +kernel
/-- R305: a pass and a row whose units have been asked for and not yet debited. -/
theorem witness_work_waits :
    (let f : Flight := { bits := mmaRec.bits 0x20, queue := .mq, ordinal := 0, mode := 1, total := 1, units := [(1, 4)] }
     f.units ≠ [] ∧ f.done < f.total ∧ f.paid < passNeeds arrayS arrayS.cur false mmaRec f.done) ∧
    (let f : Flight := { bits := rowRec.bits SlotOp.mret.code, queue := .mq, ordinal := 0, mode := 1, total := 32, asked := 1 }
     let w := slotWork arrayS.cur .mret rowRec
     f.done ≤ f.total ∧ f.done < f.total ∧ f.paid < w.need f.done ∧ f.paid < f.asked ∧
     (∀ n, n < 32 → w.need n ≤ ({ f with paid := 1 } : Flight).paid)) := by decide
theorem witness_slot_records :
    let s := atHead arrayS .mq (tileRec.bits 0x22)
    ArrayReady s (headOf (tileRec.bits 0x22)) ∧ slotRec (tileRec.bits 0x22) = tileRec ∧ slEarly .mzero tileRec = none ∧
    slLate (settleArray s 256) s.cur .mzero tileRec 0 = none ∧ ownerFault ((settleArray s 256).core 256) s.me (tileSlots tileRec) = none ∧
    slotTiles tileRec = 1 ∧ (s.core 256).tokq = [] ∧ accSlots tileRec.acc ≤ (s.core 256).tokens := by
  unfold ArrayReady HeadReady; decide +kernel
theorem witness_slot_rows :
    (31 : Nat) < 32 ∧ 0 ≤ tileSlot rowRec 0 ∧ rowRec.acc ≠ 3 ∧ slMem rowRec = false ∧ 0 ≤ slRow rowRec 0 31 ∧
    slRow rowRec 0 31 % (d0Bytes rowRec.fmt : Int) = 0 ∧
    gives (readElems arrayS.cur 1 false rowRec.gi0.msb 3 false 32 (slRow rowRec 0 31) 32 arrayS) (fun _ l => l.length == 32) = true := by decide
theorem witness_vector_records :
    (let s := atHead taskS .vq (addRec.bits 0x40)
     HeadReady s .vq (headOf (addRec.bits 0x40)) ∧ vecRec (addRec.bits 0x40) = addRec ∧ clocksHeld s 256 = false ∧ runningOf s 256 .vq = [] ∧
     vecEarly 0x40 addRec = none ∧ (∀ o ∈ [VOp.x, .y, .w], vFmt addRec o ≠ 0 ∨ o ∉ vUses 0x40) ∧
     vecLate (settleArray s 256) s.cur 0x40 [3, 3, 0] addRec = none ∧ vecSlots 0x40 addRec = []) ∧
    0 < addRec.n0.toNat ∧ vLoc addRec .z = 0 ∧ 0 ≤ vAddr [] addRec .z 0 1 ∧
    gives (vecReads taskS.cur 1 [3, 3, 0] addRec 0 1 ((vUses 0x40).filter fun o => o != .z) taskS) (fun _ l => l.length == 2) = true ∧
    0 % addRec.n0.toNat + 1 < addRec.n0.toNat := by unfold HeadReady; decide

/-! ### Witnesses: the Shepherd -/

namespace Witness

/-- Fields of a packet. -/
def packet (l : List (Nat × Nat × Nat)) : Rec512 := l.foldl (fun p x => setField p x.1 x.2.1 x.2.2) 0
/-- A dispatch packet of one task, of 96 KiB of Canvas, with its kernel header at 0x4000. -/
def taskPk : Rec512 := packet [(4, 4, 2), (64, 20, 1), (84, 16, 1), (100, 16, 1), (168, 19, 0x18000), (256, 64, 0x4000), (320, 64, 0x77)]
def barrierPk (t dep : Nat) : Rec512 := packet [(0, 4, t), (64, 64, dep)]
/-- Partition 0 owns near set 0 and context 0 of core 256 and has a save area; the header names an entry point. -/
def sheS : State :=
  let s := (((handled ctlS).setHub 0x3000 0x10).setHub 0x2C50 0x10).setHub 0x6030 0x100000
  let s := (s.setHub 0x6038 64).setCtx (unitId 256 0) {}
  holding (holding s 0x4028 (toBytes (0x4100 : Word) 8)) 0x5000 (toBytes (0 : Word) 8)
/-- Queue 3 holds a packet. -/
def waitingPk (p : Rec512) : Waiting := { packet := p, seq := 5 }
def withPk (p : Rec512) : State := sheS.setQueue 3 [waitingPk p]
def launched : Launch :=
  { queue := 3, packet := taskPk, part := 0, code := 2, narrow := false, entry := 0x4100, live := 0, members := 2, seq := 9, lastAgent := 0 }
def depS (pk : Rec512) : State := { sheS with depWait := [(3, waitingPk pk)] }

end Witness

theorem witness_packets :
    (let s := withPk taskPk
     candidate s 3 = some (waitingPk taskPk) ∧ mayPlace s (queuePart s 3) = true ∧ (packetCheck s (queuePart s 3) taskPk).2.1 = false ∧
     chosen s 3 (waitingPk taskPk) = true ∧ (startCandidate s 3 (waitingPk taskPk)).isSome = true ∧ systemScope (pkRel taskPk) = false) ∧
    (∀ t ∈ [0, 1, 2, 3, 15], let p := packet [(0, 4, t), (22, 10, 1)]
      candidate (withPk p) 3 = some (waitingPk p) ∧ (packetCheck (withPk p) 0 p).2.1 = true ∧ pkType p = t) ∧
    (∀ t ∈ [1, 2, 3], let p := barrierPk t 0
      chosen (withPk p) 3 (waitingPk p) = true ∧ (packetCheck (withPk p) 0 p).2.1 = false ∧ depsUsed p = []) := by decide
theorem witness_dep_reads :
    (let s := depS (barrierPk 1 0x5000)
     ((s.depWait.filter fun x => x.1 == 3 && pkType x.2.packet != 3).drop (0 / 5)).head? = some (3, waitingPk (barrierPk 1 0x5000)) ∧
     (let r := readDep s 3 (waitingPk (barrierPk 1 0x5000)) 0
      depsDone r.2 = true ∧ (3, waitingPk (barrierPk 1 0x5000)) ∈ r.1.depWait) ∧
     gives (shepherdRead s 0 0x5000 1) (fun _ l => l == [0]) = true) ∧
    (let s := depS (barrierPk 1 0x4028)
     depsDone (readDep s 3 (waitingPk (barrierPk 1 0x4028)) 0).2 = false ∧
     (pkDep (barrierPk 1 0x4028) 0) ≠ 0 ∧ (pkDep (barrierPk 1 0x4028) 0).toNat % 8 = 0) := by decide
theorem witness_members :
    (let s := sheS.setLaunch 9 (some launched)
     s.launch 9 = some launched ∧ earlierFirst s launched = false ∧ (placeNext s 9 launched).isSome = true ∧
     mayPlace s 0 = true ∧ launched.placed < launched.members ∧ pagesFit s 0 (taskPages (pkCanvas taskPk)) = true ∧
     coreAmong s (fun c => taskFits s 0 c (pkCanvas taskPk) (pkAccslots taskPk) && (pkAccslots taskPk == 0 || tagFree s c))
       (diesFor s 0 2 (effPrio s 3 taskPk) false) = some 256 ∧
     ctxOwned s 0 0 = some 0 ∧ (canvasBase s 256 (pkCanvas taskPk)).isSome = true) ∧
    (let x := { launched with code := 0 }
     let s := (((((handled hostS).setHub 0x2C10 0x1000).setHub 0x2C50 0x10).setHub 0x6030 0x100000).setHub 0x6038 64).setLaunch 9 (some x)
     earlierFirst s x = false ∧ mayPlace s 0 = true ∧ pagesFit s 0 1 = true ∧
     (coreAmong s (fun c => hostFits s 0 c) (diesFor s 0 0 (effPrio s 3 taskPk) false)).isSome = true) ∧
    (let s := ((setHubF (setHubF sheS 0xB00 0 3 7) 0xA58 17 1 1).setHub 0xA60 0x20000).setHub 0xA68 0x20000 |>.setHub 0xA70 0x20000
     let s := s.setLaunch 9 (some launched)
     placeNext s 9 launched = none ∧ launched.deferredSince = none ∧ (placeNext s 9 { launched with noDefer := true }).isSome = true ∧
     ({ launched with deferredSince := some 4 } : Launch).deferredSince = some 4) ∧
    (let s := sheS.setQueue 3 [{ waitingPk taskPk with deferredSince := some 4 }]
     s.launch 5 = none ∧ ((s.queues.flatMap fun x => x.2).find? fun w => w.seq == 5 && w.deferredSince.isSome).isSome = true) := by
  decide +kernel
namespace Witness
/-- A user-mode pack of a launch in its block, asked to leave, at a wait or with no effect so far. -/
def leavingS (w : Wait) (d : Bool) : State :=
  let s := inBlock { blockOf with gang := 1, cohort := none, packs := [(0, unitId 64 0)] }
  (s.setMe { s.me with mode := 0, launch := some 9, part := some 0, preempt := some 3, wait := w, dirty := d }).setLaunch 9 (some { launched with code := 1 })
def taskLeavingS : State :=
  let s := taskS
  s.setMe { s.me with mode := 0, launch := some 9, part := some 0, preempt := some 3, draining := true, csize := 64 }
def hostLeavingS : State :=
  let s := handled hostS
  s.setMe { s.me with mode := 0, launch := some 9, part := some 0, preempt := some 3 }
end Witness
theorem witness_saves :
    (let s := leavingS .event true
     let c := s.ctx (unitId 64 0)
     kindOf (unitId 64 0) = .pack ∧ c.live = true ∧ c.launch = some 9 ∧ c.draining = false ∧ c.aclanes = [] ∧
     unitStops (unitId 64 0) c = some true ∧ c.preempt = some 3) ∧
    (let s := leavingS .none false
     unitStops (unitId 64 0) (s.ctx (unitId 64 0)) = some false ∧ (s.launch 9).isSome = true ∧ (s.ctx (unitId 64 0)).pvalid = false) ∧
    (let c := hostLeavingS.ctx (unitId 0 0)
     kindOf (unitId 0 0) = .host ∧ c.live = true ∧ c.launch = some 9 ∧ c.draining = false ∧ unitStops (unitId 0 0) c = some true) ∧
    (let c := taskLeavingS.ctx (unitId 256 0)
     kindOf (unitId 256 0) = .ctl ∧ c.live = true ∧ c.draining = true ∧ c.flights = [] ∧ c.flash = none ∧
     ShadowIdle taskLeavingS (unitId 256 0) ∧ (taskLeavingS.core 256).leashHolder ≠ some (unitId 256 0 % 128) ∧ pPhase taskLeavingS (c.part.getD 0) ≠ 3) := by
  unfold ShadowIdle; decide
namespace Witness
def savedTask : Saved := { part := 0, launch := some 9, host := false, ctx := { pc := 0x40, csize := 64 }, unit := unitId 256 0, blockId := none, scopes := [] }
def savedHost : Saved := { part := 0, launch := some 9, host := true, ctx := { pc := 0x40 }, unit := unitId 0 0, blockId := none, scopes := [] }
end Witness
theorem witness_restores :
    (let s := { sheS with saved := [savedTask] }
     (s.saved.drop 0).head? = some savedTask ∧ mayPlace s 0 = true ∧ tagOf savedTask.ctx = 0xFF ∧ savedTask.ctx.flights = [] ∧
     (∀ f ∈ savedTask.ctx.flights, f.halted = false) ∧ savedCore s savedTask = some 256 ∧ ctxOwned s 0 0 = some 0 ∧ (canvasBase s 256 64).isSome = true) ∧
    (let s := { ((handled hostS).setHub 0x2C10 0x1000).setCtx (unitId 0 0) {} with saved := [savedHost] }
     mayPlace s 0 = true ∧ coreOn s 0 (fun c => hostFits s 0 c) = some 1) := by decide
namespace Witness
theorem noSwitch_get (p q : Nat) (hq : q ≠ p) : ∀ l : Sparse PartSt, (l.all fun x => x.1 == p || x.2.switchAt.isNone) = true →
    (Sparse.get (fun _ => ({} : PartSt)) l q).switchAt = none
  | [], _ => rfl
  | (a, v) :: r, h => by
    simp only [List.all_cons, Bool.and_eq_true, Bool.or_eq_true, beq_iff_eq, Option.isNone_iff_eq_none] at h
    unfold Sparse.get
    split
    · exact h.1.resolve_left (by omega)
    · exact noSwitch_get p q hq r h.2
theorem noOtherSwitch_of {s : State} {p : Nat} (h : (s.parts.all fun x => x.1 == p || x.2.switchAt.isNone) = true) : NoOtherSwitch s p :=
  fun q hq => noSwitch_get p q hq s.parts h
end Witness
theorem witness_ticks :
    (let s := leavingS .event true
     let s := s.setPart 0 { gangs := [1], resident := some 1 }
     let s := s.setBlock 6 (some { blockOf with gang := 2, resident := false })
     let s1 := settleSwitch (tickUntil s 0) 0
     NoOtherSwitch s 0 ∧ (s1.part 0).resident = some 1 ∧ mayPlace s1 0 = true ∧ pPhase s1 0 = 0 ∧
     (s1.part 0).switchAt = none ∧ oversubscribes s1 0 1 = true ∧ (s1.ctx (unitId 64 0)).live = true ∧ inGang s1 0 1 (s1.ctx (unitId 64 0)) = true ∧
     (let s := s.setPart 0 { gangs := [1, 2], resident := some 1, switchAt := some 7, misses := 1 }
      settleSwitch s 0 = s ∧ (s.part 0).switchAt = some 7 ∧ (s.part 0).misses + 1 < 3)) ∧
    (leavingS .event true).rehang = none ∧ pQuiesce (leavingS .event true) 0 = false ∧
    (leastBy id (watchdogTimes (leavingS .event true) 0)).isSome = true := by
  exact ⟨⟨noOtherSwitch_of (by decide), by decide⟩, by decide⟩

/-! ### Witnesses: the hub -/

namespace Witness

/-- One command in a ring whose entries begin at 0x8000. -/
def ringS (s : State) (ring : Nat) (ws : List Word) : State :=
  let s := ((s.setHub ring 0x8000).setHub (ring + 0x10) 0).setHub (ring + 0x18) 1
  holding s 0x8000 (ws.flatMap fun w => toBytes w 8)
/-- The pool in use, its region 1 versioned and region 2 staging. -/
def poolS : State :=
  let s := setHubF (setHubF hostS 0x780 0 1 1) 0x780 2 1 0
  s.setMem { s.mem with pool := { trained := true, versioned := [(1, 6)], staging := [2] } }
def pa1 : Word := 0x1000000200000
/-- A PUBLISH of region 1 from staging region 2, expecting version `v`, at 0x8000. -/
def publishS (v : Byte) : State :=
  let s := ((poolS.setHub 0x7A0 0x8000).setHub 0x7B0 0).setHub 0x7B8 1
  let k := (homeKey s 0x8000).getD 0
  s.setMem { s.mem with bytes := [(k, 1), (k + 10, 0x20), (k + 14, 1), (k + 18, 0x40), (k + 22, 1), (k + 24, v)] }

end Witness

theorem witness_attestation :
    (∀ op ∈ [0, 1, 2, 3, 4, 255], CommandAt (ringS hostS 0x6A40 [BitVec.ofNat 64 op, 0x10000]) 0x6A40 128 0x8000 op) ∧
    (let g := opened (ringS hostS 0x6A40 [1, 0x10000]) 128 0x8000
     outOk g (entryWord g 0x8000 1).toNat = true) ∧
    (let g := opened (ringS hostS 0x6A40 [1, 0x10008]) 128 0x8000
     outOk g (entryWord g 0x8000 1).toNat = false) ∧
    (List.replicate 48 (0 : Byte)).length = 48 := by unfold CommandAt; decide +kernel
/-- In each of the three rings of 32-byte entries, an operation that no row names. -/
theorem witness_unknown_commands :
    ∀ ring ∈ [0x740, 0x7A0, 0x820], ∀ op ∈ [0, 3, 255], CommandAt (ringS poolS ring [BitVec.ofNat 64 op]) ring 32 0x8000 op := by
  unfold CommandAt; decide +kernel
theorem witness_migration :
    (let s := setHubF (ringS hostS 0x740 [1, 0x10000, 0x20000]) 0x700 24 8 4
     let g := opened s 32 0x8000
     CommandAt s 0x740 32 0x8000 1 ∧ bitAt (entryWord g 0x8000 0) 8 = false ∧ (entryWord g 0x8000 1).toNat = 0x10000 ∧
     (entryWord g 0x8000 2).toNat = 0x20000 ∧ copyRefused g 0x10000 0x20000 0x10000 = none ∧
     copyRefused g 0x10000 0x20008 0x10000 = some 2) ∧
    (let s := ringS hostS 0x740 [2, 0x10000, 0x20000]
     let t := s.setMem { s.mem with fwd := [⟨0x10000, 0x20000, 0x10000, 0⟩] }
     let same (g : State) (f : Pair) : Bool := f.src == (entryWord g 0x8000 1).toNat && f.dst == (entryWord g 0x8000 2).toNat
     CommandAt s 0x740 32 0x8000 2 ∧ (opened s 32 0x8000).mem.fwd.find? (same (opened s 32 0x8000)) = none ∧ CommandAt t 0x740 32 0x8000 2 ∧
     ((opened t 32 0x8000).mem.fwd.find? (same (opened t 32 0x8000))).isSome = true) := by
  unfold CommandAt; decide +kernel
theorem witness_pool_commands :
    (let s := ringS poolS 0x7A0 [2, pa1]
     let g := opened s 32 0x8000
     CommandAt s 0x7A0 32 0x8000 2 ∧ hubF g 0x780 0 1 = 1 ∧ hubF g 0x780 2 1 = 0 ∧
     ((regionAt (entryWord g 0x8000 1).toNat).bind fun r => g.mem.pool.versioned.find? fun x => x.1 == r) = some (1, 6)) ∧
    (∀ v ∈ [(6 : Byte), 7], let s := publishS v
      let g := opened s 32 0x8000
      CommandAt s 0x7A0 32 0x8000 1 ∧ regionAt (entryWord g 0x8000 2).toNat = some 2 ∧ 2 ∈ g.mem.pool.staging ∧
      entryWord g 0x8000 3 = v.setWidth 64) := by
  unfold CommandAt; decide +kernel
/-- The pool not in use, or lost; a target that is no versioned region; a source that is no region, or none that stages. -/
theorem witness_pool_refusals :
    (let s := ringS hostS 0x7A0 [1]
     CommandAt s 0x7A0 32 0x8000 1 ∧ hubF (opened s 32 0x8000) 0x780 0 1 = 0) ∧
    (let s := ringS (setHubF poolS 0x780 2 1 1) 0x7A0 [2]
     CommandAt s 0x7A0 32 0x8000 2 ∧ hubF (opened s 32 0x8000) 0x780 2 1 = 1) ∧
    (let s := ringS poolS 0x7A0 [2, 0x10000]
     let g := opened s 32 0x8000
     ((regionAt (entryWord g 0x8000 1).toNat).bind fun r => g.mem.pool.versioned.find? fun x => x.1 == r) = none) ∧
    (let g := opened (ringS poolS 0x7A0 [1, pa1, 0x10000]) 32 0x8000
     regionAt (entryWord g 0x8000 2).toNat = none) ∧
    (let g := opened (ringS poolS 0x7A0 [1, pa1, pa1]) 32 0x8000
     regionAt (entryWord g 0x8000 2).toNat = some 1 ∧ 1 ∉ g.mem.pool.staging) := by
  unfold CommandAt; decide +kernel
theorem witness_frames :
    Sparse.wf byte0 [(1, 3), (5, 7)] = true ∧ 0 + 2 ≤ 4 ∧
    (let s := ringS hostS 0x820 [1, 0x10000]
     let g := opened s 32 0x8000
     frameSize (entryWord g 0x8000 0) = some 0x1000 ∧ CommandAt s 0x820 32 0x8000 1 ∧ (entryWord g 0x8000 1).toNat % 0x1000 = 0 ∧
     rangeInSets g 0x10000 0x1000 = true ∧ clearOfPairs g 0x10000 0x1000 = true ∧ meetsRange g 0x10000 0x1000 = false ∧
     meetsRange (opened (s.setMem { s.mem with ranges := [⟨none, 0x10800, 2048, .f64, .add⟩] }) 32 0x8000) 0x10000 0x1000 = true) ∧
    (entryWord (opened (ringS hostS 0x820 [1, 0x10800]) 32 0x8000) 0x8000 1).toNat % 0x1000 ≠ 0 ∧
    frameSize (entryWord (opened (ringS hostS 0x820 [0x302]) 32 0x8000) 0x8000 0) = none ∧
    CommandAt (ringS hostS 0x820 [2, 0x10000]) 0x820 32 0x8000 2 := by unfold CommandAt; decide +kernel
theorem witness_register_writes :
    writerAccepted (.host 0) = false ∧ writerAccepted (.host 1) = true ∧ ringEmpty hostS (ringBase 16) = true ∧
    ringEmpty (hostS.setHub 0x6A18 1) (ringBase 16) = false ∧ hubF hostS 0x700 0 1 = 0 ∧ hubF (hostS.setHub 0x700 1) 0x700 0 1 = 1 ∧
    setOf hostS 0 = some (false, 0) ∧ setOf State.reset (hubF State.reset 0x708 28 24 * 2 ^ 28) = none ∧ 1000 ≤ fieldNat (1000 : Word) 0 32 ∧
    fieldNat (1000000 : Word) 0 32 ≤ 1000000 ∧ hostS.mem.pendEnd ≤ hostS.hubTime ∧
    (hostS.setMem { hostS.mem with pendEnd := 3 }).hubTime < 3 ∧
    (let s := packS.setSite 1 { packS.site 1 with winlog := 24 }
     siteState s 1 = 3 ∧ 0x100000 + 8 * 15 < windowSize s 1 ∧ (∀ q, q < 16 → q ≠ 3 → s.winR 1 (0x100000 + 8 * q) &&& 0xFF = 0) ∧
     pEnabled s 3 = false ∧ reservedSlices s 1 3 &&& 0xFF = 0 ∧ pEnabled s 0 = true ∧
     (let s := s.setWin 1 0x100008 0x80; ∃ q, q < 16 ∧ q ≠ 3 ∧ s.winR 1 (0x100000 + 8 * q) &&& 0xFF ≠ 0)) ∧
    (let s := (({ hostS with evbuf := [(16, [5])] } : State).setHub 0x6A00 0x8000)
     Sparse.get (fun _ => []) s.evbuf 16 = [5] ∧ ringReady s 16 = true) := by
  refine ⟨by decide, by decide, by decide, by decide, by decide, by decide, by decide, by decide, by decide, by decide, by decide, by decide,
    ⟨by decide, by decide, by decide, by decide, by decide, by decide, 1, by decide, by decide, by decide⟩, by decide, by decide⟩
theorem witness_interleave :
    setEnabled hostS false 0 = true ∧ setEnabled hostS false 1 = false ∧
    setRefused (setHubF hostS (setCtl false 1) 30 10 0) false 1 = true ∧
    (let s := setHubF (hostS.setHub 0x408 0xF) (setCtl false 1) 0 1 0
     let s := (s.setHub 0x410 0).setHub 0x428 0xF0
     setRefused (setHubF s (setCtl false 1) 30 10 1) false 1 = true ∧ setRefused (setHubF s (setCtl false 1) 30 10 0x3F) false 1 = false) ∧
    setBase hostS false 0 ≤ 0 ∧ 0x1000 < setBase hostS false 0 + setLen hostS false 0 := by decide
theorem witness_sites :
    (∀ k ∈ [0, 1, 2, 3, 4, 5, 6], siteState (setHubF hostS (siteCtl 3) 0 3 k) 3 = k) ∧ bootStopped hostS = false ∧ siteState State.reset 0 = 0 ∧
    (let s := setHubF hostS (siteCtl 3) 0 3 3
     let s1 := moveSite (s.setSite 3 { s.site 3 with drainStart := some s.cycles }) 3 4
     ∀ p, p < 16 → residentOn s1 p 3 = false ∧ rehangOn s1 p 3 = false) ∧
    (let s := setHubF (setHubF (hostS.setSite 3 { table := setField 0 98 1 1 }) (siteCtl 3) 0 3 2) (siteCtl 3) 3 2 2
     siteState s 3 = 2 ∧ (s.site 3).granted = false ∧ classAccepted 3 (hubF s (siteCtl 3) 3 2) = true ∧
     bitAt (s.site 3).table (96 + hubF s (siteCtl 3) 3 2) = true) ∧
    tableOk 3 0 = false ∧ featFrozen hostS 2 = false ∧ featFrozen (hostS.setSite 3 { granted := true }) (classOfSite 3) = true := by decide
namespace Witness
/-- A chiplet table of a class with its checksum. -/
def tableFor (n : Nat) : BitVec 2048 :=
  let t : BitVec 2048 := setField (setField (setField 0 0 32 0x57434150) 32 8 6) 40 4 (classOfSite n)
  setField t 2016 32 (crc32 (toBytes t 252)).toNat
end Witness
theorem witness_table : tableOk 3 (tableFor 3) = true := by decide +kernel

/-! ### Witnesses: home, the pool, the peers -/

namespace Witness

theorem plainHome_of {s : State} {pa : Nat} (h : ((setOf s pa).isSome && s.mem.fwd.isEmpty && (liveRange s pa).isNone && hubF s 0x700 0 1 == 0 &&
    !isRemote pa && s.mem.partials.isEmpty) = true) : PlainHome s pa := by
  unfold PlainHome; simpa [and_assoc] using h
/-- Partition 0 owns near set 0, and its tables map the first GiB to itself, for user mode too: tables at 0x10000, 0x11000 and 0x12000. -/
def clientS : State :=
  let s := (hostS.setHub 0x2C50 0x10).setHub 0x6008 0x10001
  let k (pa : Nat) : Nat := (homeKey s pa).getD 0
  s.setMem { s.mem with bytes := [(k 0x10000, 1), (k 0x10001, 0x10), (k 0x10002, 1), (k 0x11000, 1), (k 0x11001, 0x20), (k 0x11002, 1),
                                  (k 0x12000, 0x2F), (k 0x12001, 3)] }
/-- A lease of a leaf entry of core 64 that ends soon, and a unit it serves. -/
def leaseS : State :=
  let s := packS.setMe { packS.me with live := true, ttb1 := 1 }
  s.setMem { s.mem with tlb := [⟨64, false, 0, 0, false, 0, 4, 3, 0x9000, 500⟩] }

end Witness

theorem witness_home :
    PlainHome hostS 0x4010 ∧ isHolder 3 5 = true ∧ cohClass hostS 2 ≠ 2 ∧ cohClass hostS 2 = 0 ∧ (homeKey hostS 0x4010).isSome = true ∧
    (homeKey hostS 0x4010).all (fun k => !memPoison hostS.mem k) = true ∧ 0x4010 % 64 + 48 ≤ 64 ∧ isHolder 300 0 = false ∧
    (let s := hostS.setMem { hostS.mem with ranges := [⟨none, 0x4000, 2048, .f64, .add⟩] }
     (liveRange s 0x4008).any (fun r => rfmtBytes r.fmt == 8) = true ∧ gives (homeRead s 0x4008 8) (fun _ l => l.length == 8) = true) ∧
    (homeKey hostS (64 * lineOf 0x4010)).isSome = true := by
  refine ⟨plainHome_of (by decide), by decide, by decide, by decide, by decide, by decide, by decide, by decide, by decide, by decide⟩
theorem witness_counters_and_clients :
    (let s := hostS.setHub 0x700 1
     hubF s 0x700 0 1 = 1 ∧ counterStore s = some (0, 0) ∧ Sparse.wf byte0 s.mem.bytes = true) ∧
    (∀ m ∈ [(0 : BitVec 2), 1],
      gives (translate clientS.takeFree { shepherdTrans clientS 0 with mode := m } .write false 0x4000) (fun s1 tr =>
        !isDevice tr.pa && !homeRefuses s1 (some 0) tr.pa &&
        stores (homeWrite (dirDrop (countAccess s1 8 tr.pa) (lineOf tr.pa)) tr.pa [1, 2] none) fun _ => true) = true) ∧
    (leaseS.mem.tlb.filter (renewable leaseS 64)).length = 1 ∧
    (leaseS.ctxs.find? fun x => x.2.live && coreOf x.1 == 64 && x.2.vmid == 0 && x.2.ctxid == 0 && false != ttbEn x.2.ttb1).isSome = true ∧
    3 < Config.simtBase ∧
    3 < slicesOf 1 ∧ (Sparse.get (fun _ => ({} : Port)) (packS.die 1).ports 3).waiting = [] ∧ (packS.setWin 1 0x100000 1).winR 1 0x100000 ≠ 0 := by
  decide +kernel
/-- R94, R109, R79: a lost line; a client's reduction that its tables admit, one that its partition may not reach, one that they refuse, and
one of a live range; a scrub that the memory-side cache answers. -/
theorem witness_home_answers :
    (let s := (setHubF poolS 0x780 8 8 40).setMem { poolS.mem with pool := { poolS.mem.pool with lost := [(0x200000, 64)] } }
     poolLost s (poolBase + 0x200000) = true ∧ (homeKey s (poolBase + 0x200000)).isSome = true ∧ isRemote (poolBase + 0x200000) = false) ∧
    (∀ m ∈ [(0 : BitVec 2), 1],
      gives (translate clientS.takeFree { shepherdTrans clientS 0 with mode := m } .atomic false 0x4000)
        (fun s1 tr => !homeRefuses s1 (some 0) tr.pa) = true ∧
      (let s := clientS.setHub 0x2C50 0
       gives (translate s.takeFree { shepherdTrans s 0 with mode := m } .atomic false 0x4000)
        (fun s1 tr => homeRefuses s1 (some 0) tr.pa) = true ∨
       fails (translate s.takeFree { shepherdTrans s 0 with mode := m } .atomic false 0x4000) (fun _ _ => true) = true) ∧
      fails (translate clientS.takeFree { shepherdTrans clientS 0 with mode := m } .atomic false 0x40000000) (fun _ _ => true) = true) ∧
    (let s := hostS.setMem { hostS.mem with msc := [lineOf 0x4010] }
     PlainHome s 0x4010 ∧ lineOf 0x4010 ∈ s.mem.msc) ∧ lineOf 0x4010 ∉ hostS.mem.msc := by
  refine ⟨by decide +kernel, by decide +kernel, ⟨plainHome_of (by decide), by decide⟩, by decide⟩
theorem witness_pool_and_peers :
    State.reset.mem.pool.waiting = 0 ∧ (1, 6) ∈ poolS.mem.pool.versioned ∧ 5 ≠ hubF hostS 8 0 6 ∧ hubF hostS 8 0 6 = 0 ∧ NoReleases hostS ∧
    (let s := hostS.setMem { hostS.mem with peers := [5], invals := [(5, 9, 100)] }
     (s.mem.invals.find? fun x => x.1 == 5) = some (5, 9, 100) ∧ (s.mem.invals.find? fun x => x.1 == 5 && x.2.1 == 9) = some (5, 9, 100)) := by
  unfold NoReleases; decide

/-! ### Witnesses: tokens, points, partitions -/

theorem witness_tokens_granted :
    (({ hostS with boostOpen := some 3 } : State).boostOpen ≠ none) ∧ hostS.boostOpen = none ∧
    (let s := hostS.setCore 70 { want := 5, wantSince := some 3 }
     (s.core 70).wantSince = some 3 ∧ (s.core 70).hungry = false ∧ (s.core 70).served = false ∧ (s.core 70).want ≠ 0) := by decide
namespace Witness
/-- A pack of tenant entry 0 with credit on its quarter, short of tokens for price 5. -/
def tenantS : State :=
  let s := (packS.setHub 0x3400 0x110).setHub 0x2C50 0x10
  let s := s.setMe { s.me with part := some 0, needs := some (5, 0), quarter := 2 }
  s.setCore 64 { tokens := 3, deficit := [(16, 4)] }
end Witness
theorem witness_selection :
    eligiblePacks tenantS 64 2 0 = [(unitId 64 0, 1)] ∧ (∀ f, f < 8 → f ≠ 0 → eligiblePacks tenantS 64 2 f = []) ∧
    0 < deficitOf (tenantS.core 64) 2 0 ∧ (tenantS.ctx (unitId 64 0)).live = true ∧ (tenantS.ctx (unitId 64 0)).needs = some (5, 0) ∧
    (tenantS.core 64).tokens < 5 ∧ (tenantS.core 64).reserve = none ∧ (tenantS.core 64).reserveq = [] ∧
    ((tenantS.setCore 64 { tenantS.core 64 with reserve := some 9 }).core 64).reserve ≠ none ∧
    quarterTurn tenantS 64 2 = true ∧
    (let s := tenantS.setCore 64 { tenantS.core 64 with reserve := some (unitId 64 7) }
     let t := s.setCtx (unitId 64 7) { live := true, needs := some (4, 0) }
     shortSince (t.setCtx (unitId 64 7) { live := true, needs := some (4, 9) }) (unitId 64 7) ≠ 0 ∧ (s.cycles ≤ 0 + frontEnd s 64 64 ∧ shortSince t (unitId 64 7) = 0 ∧ unitId 64 0 < unitId 64 7)) ∧
    (let s := packS.setWin 1 0x100200 0x1050304000008
     bitAt (s.winR 1 0x100200) 48 = true ∧ fieldNat (s.winR 1 0x100200) 32 8 < fieldNat (s.winR 1 0x100200) 0 16) ∧
    (let s := packS.setWin 1 0x100200 0x1090304000004
     fieldNat (s.winR 1 0x100200) 0 16 ≤ fieldNat (s.winR 1 0x100200) 32 8 → fieldNat (s.winR 1 0x100200) 0 16 < fieldNat (s.winR 1 0x100200) 40 8) := by
  decide
/-- A chosen pack whose NOP issues; the same pack behind an older one of its quarter. -/
theorem witness_issues :
    (let r := pickFor tenantS (unitId 64 0)
     mayIssue tenantS (unitId 64 0) = true ∧ yieldsNow tenantS (unitId 64 0) = false ∧ kindOf (unitId 64 0) = .pack ∧
     selected tenantS (unitId 64 0) = true ∧ r.2 = some ⟨unitId 64 0, 1, 0⟩ ∧
     next (turn (beginTurn r.1 (unitId 64 0))) (fun t => issues (beginTurn r.1 (unitId 64 0)) t) = true) ∧
    (let s := (tenantS.setMe { tenantS.me with age := 5 }).setCtx (unitId 64 1) { tenantS.me with age := 0 }
     let r := pickFor s (unitId 64 0)
     selected s (unitId 64 0) = true ∧ r.2 = none ∧
     next (turn (beginTurn r.1 (unitId 64 0))) (fun t => issues (beginTurn r.1 (unitId 64 0)) t) = true) := by decide
theorem witness_points :
    (let s := packS.setCore 64 { pending := some (80, 2), volt := some 700 }; (s.core 64).pending = some (80, 2)) ∧
    hubF packS (0xA80 + 8) 16 1 = 0 ∧ hubF packS (0xA80 + 8) 0 8 ≤ min 255 ([96].foldl max 20) ∧ (packS.die 1).lastTransition = none ∧
    (let s := { (setHubF packS 0xA88 16 1 1).setDie 1 { coolSince := some 0, lastTransition := some 0 } with cycles := 8000000 }
     hubF s 0xA88 16 1 = 1 ∧ min 255 ([92].foldl max 20) + 3 ≤ hubF s 0xA88 0 8 ∧ (s.die 1).coolSince = some 0 ∧ 0 + msCycles 2 ≤ s.cycles ∧
     (s.die 1).lastTransition = some 0 ∧ 0 + msCycles 4 ≤ s.cycles) := by decide
theorem witness_partitions :
    writerHyper (.host 1) = false ∧ writerHyper (.host 2) = true ∧ ownershipRefused hostS 0x2C10 0x12 = false ∧
    (0, 8) ∈ ownerFields 0x2C10 ∧ fieldNat (hostS.hubR 0x2C10) 0 8 ≠ fieldNat ((0x10 : Word) &&& ownershipMask 0x2C10) 0 8 ∧
    namesEnabled hostS (fieldNat ((0x10 : Word) &&& ownershipMask 0x2C10) 0 8) = true ∧
    pEnabled hostS 0 = true ∧ partQueued hostS 0 = false ∧ partBusy hostS 0 = false ∧ pPhase hostS 0 = 0 ∧
    partQueued (withPk taskPk) 0 = true ∧ ttbEn ((hostS.setHub 0x6018 1).hubR (pBase 0 + 0x18)) = true ∧ ttbEn (hostS.hubR (pBase 0 + 0x18)) = false ∧
    pPause hostS 0 = false ∧
    (let s := setHubF hostS (pBase 0) 2 1 1
     pPause s 0 = true ∧ pPaused s 0 = false ∧ (∀ x ∈ s.ctxs, workOf 0 x.2 = false) ∧
     pPaused (setHubF s (pBase 0) 3 1 1) 0 = true ∧ (s.setHub (fBase 0 + 0x38) 5).hubR (fBase 0 + 0x38) ≠ BitVec.allOnes 64) ∧
    (∃ x ∈ (leavingS .event true).ctxs, workOf 0 x.2 = true) := by decide
namespace Witness
/-- A PROPOSE at the head of RHCMD, and the phases of its command. -/
def rehangS (phase : Nat) (walked : Bool) : State :=
  let s := (setHubF hostS (pBase 0) 4 3 phase).setHub 0x840 0x8000
  { s.setHub 0x858 1 with rehang := some { entry := 0x8000, part := 0, plan := 0, joined := [], ticks := 0, walked := walked }, lastTick := 1 }
def rehangOf (walked : Bool) : Rehang := { entry := 0x8000, part := 0, plan := 0, joined := [], ticks := 0, walked := walked }
end Witness
theorem witness_rehang :
    (let s := ringS hostS 0x840 [1, 0x10000]
     let check (s : State) := proposeCheck (gatherSpan (opened s 32 0x8000) (entryWord (opened s 32 0x8000) 0x8000 1).toNat 4) 0x8000
     s.rehang = none ∧ ringHeadAt s 0x840 32 0x8000 = true ∧ (match check s with | .error _ => false | .ok _ => true) = true ∧
     (match check (ringS hostS 0x840 [2, 0x10000]) with | .error _ => true | .ok _ => false) = true) ∧
    (∀ ph ∈ [2, 3, 4], pPhase (rehangS ph false) 0 = ph ∧ (rehangS ph false).rehang = some (rehangOf false)) ∧
    migrating (rehangS 3 false) (rehangOf false) = [] ∧ (rehangS 2 false).lastTick ≠ (rehangOf false).ticks ∧
    stillAsked (rehangS 3 false) (rehangOf false) = false ∧
    stillAsked { rehangS 3 false with rehang := some { rehangOf false with asked := 9 } } { rehangOf false with asked := 9 } = false ∧
    (rehangS 4 true).rehang = some (rehangOf true) := by decide +kernel

/-! ### Witnesses: words, fetches, steps -/

theorem witness_no_instruction :
    field (0xFF80000000000000 : Word) 62 2 ≠ 1 ∧ kindOf laneS.cur = .pack ∧ field (0x7FC0000000000003 : Word) 62 2 = 1 ∧
    laneS.activeMask (lHead 0x7FC0000000000003).sm = 0xFFFFFFFFFFFFFFFF ∧
    entryGoes (handled hostS) hostS.cur (enteredMode 1 (cILLEGAL, 0)) (faultOf (handled hostS) (cILLEGAL, 0) 0) = true := by decide
/-- A lane word that encodes nothing, of a host core and of a pack, and of a pack whose mask in `s4` names no lane. -/
theorem witness_lane_words :
    (∀ s ∈ [regs (handled hostS) [(3, 5)], handled laneS], let w : Word := 0x7FC0000000001803
      let c : Cause := (cILLEGAL, if wordKindOk (kindOf s.cur) w then 0 else 4)
      let sm := (lHead w).sm
      let ls := (s.activeLanes sm).map fun l => (⟨l, c, 0⟩ : LaneFault)
      entryGoes s s.cur (enteredMode s.me.mode c)
        { cause := c, kind := 0, lanes := s.activeMask sm, perLane := ls, maskreg := sm.toNat, frm := s.me.mode, word := s.word } = true) ∧
    ∃ w : Word, field w 62 2 = 1 ∧ (lHead w).sm = 4 ∧ laneS.activeMask (lHead w).sm = 0 := by
  refine ⟨by decide +kernel, 0x7FC0000000002000, by decide, by decide, by decide⟩
namespace Witness
/-- The host core of `loadS` at a word in memory, with handlers. -/
def atWord (w : Word) : State := holding (handled loadS) 0 (toBytes w 8)
end Witness
theorem witness_late_faults :
    (let s := handled hostS
     entryGoes { s with word := 0 } s.cur (enteredMode s.me.mode (cFABRIC, 0)) { faultOf { s with word := 0 } (cFABRIC, 0) 0x40 with late := true } = true ∧
     entryGoes { s with word := 0 } s.cur (enteredMode s.me.mode (cPERM, 1)) { faultOf { s with word := 0 } (cPERM, 1) 0x40 with late := false } = true) ∧
    (0x1E : BitVec 8) ≠ cPOISON ∧ (0x1E : BitVec 8) ≠ cFABRIC ∧ accessHere State.reset = none ∧
    (accessHere (atWord 0)).any (fun x => (accessOf x.1 x.2).isNone) = true ∧
    (accessHere (atWord 0x1820C401FFFFFFF8)).any (fun x => (accessOf x.1 x.2).any fun y => y.1 != true && bitAt (1 : Word) 0 && y.2 0 != 0x40) = true ∧
    bitAt (1 : Word) 0 = true := by decide +kernel
theorem witness_late_load :
    (accessHere (atWord 0x1820C401FFFFFFF8)).any (fun x => x.2 == .ldImm .b2 false 3 4 (BitVec.ofInt 32 (-8)) &&
      gives (checkVa x.1 .read true (offset x.1 4 (BitVec.ofInt 32 (-8)))) (fun s1 _ => (offset x.1 4 (BitVec.ofInt 32 (-8))).toNat % 2 == 0 &&
        entryGoes s1 s1.cur (enteredMode s1.me.mode (cPOISON, 0)) { faultOf s1 (cPOISON, 0) (offset x.1 4 (BitVec.ofInt 32 (-8))) with late := true }))
      = true := by decide +kernel
theorem witness_late_store :
    (accessHere (atWord 0x1860C400FFFFFFF8)).any (fun x => x.2 == .stImm .b1 3 4 (BitVec.ofInt 32 (-8)) &&
      gives (checkVa x.1 .write true (offset x.1 4 (BitVec.ofInt 32 (-8)))) (fun s1 _ => entryGoes s1 s1.cur (enteredMode s1.me.mode (cPOISON, 0))
        { faultOf s1 (cPOISON, 0) (offset x.1 4 (BitVec.ofInt 32 (-8))) with late := true, after := true })) = true := by decide +kernel
theorem witness_steps :
    mayIssue hostS hostS.cur = true ∧ yieldsNow hostS hostS.cur = false ∧ (hostS.ctx hostS.cur).wait = .none ∧
    standsAtEnd (beginTurn hostS hostS.cur) = false ∧
    gives (fetchWord (beginTurn hostS hostS.cur) hostS.cur 1 0) (fun _ w => w == 0 && !isLongFirst w) = true ∧
    (let s := hostS.setMe { hostS.me with mode := 0, pc := Config.endAddress, launch := some 1 }
     standsAtEnd (beginTurn s s.cur) = true ∧ yieldsNow s s.cur = false) ∧
    headRecord ((atHead taskS .lq fillBits).ctx (unitId 256 0)) .lq = some (headOf fillBits) ∧
    candidate (withPk taskPk) 3 = some (waitingPk taskPk) := by decide
/-- R39: the turn of a unit whose PC names `addi s3 = s0 + 5`. -/
theorem test_step :
    next (step (holding hostS 0 (toBytes (0x0060C00000000005 : Word) 8))) (fun t => t.rs 3 == 5 && t.me.pc == 8) = true := by decide
theorem witness_memory : State.reset.mem.wf = true ∧ (holding hostS 0x4000 [7]).mem.wf = true := by decide
theorem witness_encodings : (Instr.add true 3 1 2).wf = true ∧ (Instr.movi64 7 5).wf = true ∧ (Instr.mma mmaRec).wf = true := by decide

/-! ### Witnesses: forms beside the first of each statement -/

namespace Witness

/-- What `HomeTakes` asks of `n` bytes at a physical address. -/
def takes (s : State) (pa n : Nat) : Bool :=
  decide (1 ≤ n ∧ pa % 64 + n ≤ 64) && (setOf s pa).isSome && (homeKey s pa).all (fun k => !memPoison s.mem k) &&
  !homeRefuses s (partOf s s.cur) pa && s.mem.ranges.isEmpty && s.mem.partials.isEmpty && s.mem.fwd.isEmpty && hubF s 0x700 0 1 == 0

end Witness

theorem witness_pack_registers :
    kindOf laneS.cur = .pack ∧ laneS.me.block = some 5 ∧ laneS.block 5 = some (blkAt laneS) ∧ (∀ t, t < 8 → acCount laneS.me t < 2 ^ 8) ∧
    kindOf ctlS.cur = .ctl ∧ partOf hostS hostS.cur = none ∧
    (let s := packS.setMe { packS.me with part := some 3, launch := some 1 }
     partOf s s.cur = some 3 ∧ pGuest s 3 = false ∧ pGuest (setHubF s (pBase 3) 1 1 1) 3 = true) := by decide
theorem witness_more_control_writes :
    (let s := regs (handled packS) [(4, 0x38)]
     cregAssigned (kindOf s.cur) 17 = true ∧ cregWriteMode (kindOf s.cur) 17 ≤ s.me.mode.toNat ∧ (s.rs 4).toNat % 16 ≠ 0 ∧
     entryGoes s s.cur (enteredMode s.me.mode (cMISALIGN, 0)) (faultOf s (cMISALIGN, 0) 0x38) = true) ∧
    (cregAssigned .ctl 68 = true ∧ cregWriteMode .ctl 68 ≤ taskS.me.mode.toNat ∧ kindOf taskS.cur = .ctl) ∧
    (let s := { taskS.setCtx (unitId 256 4) { live := true, mode := 1, serving := some (⟨256, 0, .lq⟩, 0) } with cur := unitId 256 4 }
     cregAssigned (kindOf s.cur) 68 = true ∧ cregWriteMode (kindOf s.cur) 68 ≤ s.me.mode.toNat ∧ kindOf s.cur = .shadow ∧
     s.me.serving = some (⟨256, 0, .lq⟩, 0)) := by decide
namespace Witness
/-- A unit with a descriptor in `s6` for the bytes from `s4`, as many as `s5` says. -/
def dsetS (s : State) (a n : Word) : State := regs s [(4, a), (5, n), (6, 1)]
end Witness
theorem witness_descriptors_set :
    (∀ s ∈ [dsetS hostS 0x4FC0 128, dsetS laneS 0x4FC0 128], offers s [3] ∧ s.me.narrow = false ∧ (s.rs 6).toNat < 65536 ∧
      descOk ((s.rs 6).setWidth 16) = true ∧ (s.rs 4).toNat % 64 = 0 ∧ (s.rs 5).toNat % 64 = 0 ∧ (s.rs 5).toNat ≤ 0x200000 ∧
      gives (checkPieces s .write false (s.rs 4) 2 3) (fun s1 ps => ps.length == 2 && cohClass s1 (mySite s1) != 2 &&
        (ps.all fun p => (List.range p.lines).all fun i => takes s1 (p.pa + 64 * i) 64) &&
        (ps.foldl (descPiece 1) (s1, none, false)).2 == (none, true)) = true) ∧
    (let s := dsetS ncfS 0x4000 64
     offers s [3] ∧ s.me.narrow = false ∧
     gives (checkPieces s .write false (s.rs 4) 1 2) (fun s1 ps => decide (cohClass s1 (mySite s1) = 2 ∧ mySite s1 ≠ 0) && ps.length == 1 &&
       ps.all fun p => p.lines == 1 && takes s1 p.pa 64 && sliceFor s1 1 (partOf s1 s1.cur) p.pa == some 0 &&
         (oldSliceFor s1 1 (partOf s1 s1.cur) p.pa).isNone) = true) := by unfold offers; decide +kernel
namespace Witness
/-- The late fault that a DSET meets on lines of the remote windows, which no package answers for, can be entered. -/
def descLate (s : State) (lines : Nat) : Bool :=
  gives (checkPieces s .write false (s.rs 4) lines (lines + 1)) fun s1 ps =>
    match ps.foldl (descPiece 1) (s1, none, false) with
    | (s2, some (c, va), false) => entryGoes s2 s2.cur (enteredMode s2.me.mode (c, 0)) { faultOf s2 (c, 0) va with late := true, after := true }
    | _ => false
end Witness
theorem witness_descriptors_late :
    descLate (handled (dsetS hostS 0x8000000000000 64)) 1 = true ∧ descLate (handled (dsetS hostS 0x8000000000000 128)) 2 = true := by
  decide +kernel
theorem witness_descriptor_faults :
    (∀ s ∈ [handled (dsetS hostS 0x4020 64), handled (dsetS hostS 0x4000 32)],
      ((s.rs 4).toNat % 64 ≠ 0 ∨ (s.rs 5).toNat % 64 ≠ 0) ∧
      entryGoes s s.cur (enteredMode s.me.mode (cMISALIGN, 0)) (faultOf s (cMISALIGN, 0) (s.rs 4)) = true) ∧
    (let s := handled (dsetS hostS 0x4000 0x200040)
     (s.rs 4).toNat % 64 = 0 ∧ (s.rs 5).toNat % 64 = 0 ∧ 0x200000 < (s.rs 5).toNat ∧
     entryGoes s s.cur (enteredMode s.me.mode (cBOUNDS, 1)) (faultOf s (cBOUNDS, 1) (s.rs 4)) = true) := by decide +kernel
theorem witness_descriptors_read :
    (∀ s ∈ [hostS, laneS], let s := regs s [(4, 0x4008)]
      gives (checkVa s .read false (s.rs 4)) (fun s1 tr => !tr.dev && takes s1 (tr.pa / 64 * 64) 64 && s1.mem.l1.isEmpty && s1.mem.ncf.isEmpty &&
        s1.mem.rem.isEmpty) = true) ∧
    (let s := ncfS.setMem { ncfS.mem with
       ncf := [{ site := 1, slice := 0, line := 0x100, bytes := 0, held := BitVec.allOnes 64, dirty := 0, valid := true, desc := 5, descDirty := false, part := some 0 }] }
     gives (checkVa s .read false (s.rs 4)) (fun s1 tr => !tr.dev && takes s1 (tr.pa / 64 * 64) 64 && cohClass s1 (mySite s1) == 2 &&
       (oldSliceFor s1 1 (partOf s1 s1.cur) tr.pa).isNone &&
       (ncfLookup s1 1 (partOf s1 s1.cur) tr.pa).any fun x => x.held == BitVec.allOnes 64 && x.valid) = true) := by decide +kernel
/-- R137, R138: a second line's descriptor, set and read back. -/
theorem test_dset :
    next (exec (.dset 4 5 6) (dsetS hostS 0x4000 128)) (fun t => next (exec (.dget 7 4) (regs t [(4, 0x4040)])) fun r => r.rs 7 == 1) = true := by
  decide +kernel

theorem witness_lane_stores_reach_home :
    let s := laneS
    let ea := fun l => s.rv64 2 l + (0 : BitVec 18).signExtend 64
    let r := laneChecks .write true 4 ea noRow ((paid s).activeLanes 3) (paid s)
    let p := portStream r.1 .write (r.1.activeLanes 3) ea
    r.2.1 = [] ∧ r.2.2.length = 3 ∧ p.mem.invals = [] ∧ cohClass p (mySite p) ≠ 2 ∧
    (r.2.2.all fun x => !x.tr.dev && takes p x.tr.pa 4) = true := by decide
theorem witness_lane_partials :
    (let s := laneS.setMem { laneS.mem with ranges := [⟨none, 0x4000, 2048, .f32, .add⟩] }
     let s := regs (s.setWin 1 0x100000 1) [(3, 0x20)]
     let ea := fun l => s.rv64 2 l + (0 : BitVec 18).signExtend 64
     let r := laneChecks .atomic false 4 ea (redRow .f32) ((paid s).activeLanes 3) (paid s)
     let p := portStream r.1 .atomic (r.1.activeLanes 3) ea
     r.2.1 = [] ∧ r.2.2.length = 1 ∧ r.2.2.all (fun x => !isRemote x.tr.pa && ((rangeOf p (partOf p p.cur) x.tr.pa).any fun g => rfmtBytes g.fmt == 4) &&
       (let q := p.req x.tr false
        (sliceFor (takeToken (rehashLine p q.site q.part x.tr.pa) q x.tr.pa) q.site q.part x.tr.pa).isSome)) = true) ∧
    (let s := laneS.setMem { laneS.mem with ranges := [⟨none, 0x4000, 2048, .f32, .add⟩] }
     let ea := fun l => s.rv64 2 l + (0 : BitVec 18).signExtend 64
     let r := laneChecks .atomic false 4 ea (redRow .f32) ((paid s).activeLanes 3) (paid s)
     let p := portStream r.1 .atomic (r.1.activeLanes 3) ea
     r.2.1 = [] ∧ r.2.2.length = 3 ∧ p.mem.partials = [] ∧ p.mem.ncf = [] ∧ p.mem.fwd = [] ∧ hubF p 0x700 0 1 = 0 ∧
     r.2.2.all (fun x => (rangeOf p (partOf p p.cur) x.tr.pa == some ⟨none, 0x4000, 2048, .f32, .add⟩) && x.tr.pa % 4 == 0 &&
       decide (x.tr.pa % 64 + 4 ≤ 64) && (setOf p x.tr.pa).isSome && ((homeKey p x.tr.pa).all fun k => !memPoison p.mem k) &&
       !homeRefuses p (partOf p p.cur) x.tr.pa && (sliceFor p (mySite p) (partOf p p.cur) x.tr.pa).isNone &&
       (oldSliceFor p (mySite p) (partOf p p.cur) x.tr.pa).isNone) = true) := by decide +kernel
/-- R231: a float swap and a float addition of one lane. -/
theorem witness_lane_float_atomics :
    atomTypeOk .swap .f32 = true ∧ atomTypeOk .fadd .f64 = true ∧ atomTypeOk .fadd .i32 = false ∧
    (let s := regs laneS [(3, 0x20)]
     let r := laneChecks .atomic true 4 (fun l => (paid s).rv64 2 l) noRow ((paid s).activeLanes 3) (paid s)
     let p := portStream r.1 .atomic (r.1.activeLanes 3) fun l => (paid s).rv64 2 l
     r.2.1 = [] ∧ p.mem.invals = [] ∧ r.1.activeLanes 3 = r.2.2.map (·.lane) ∧ r.2.2.length = 1 ∧ cohClass p (mySite p) ≠ 2 ∧
     p.mem.ncf = [] ∧ (r.2.2.all fun x => !x.tr.dev && takes p x.tr.pa 4) = true) := by decide

/-! ### Witnesses: queues, slots and records, further forms -/

theorem witness_slots_misaligned :
    let s := regs slotS [(4, 0x50008)]
    let a := settleArray s 256
    slotBusy a 7 = false ∧ (s.core 256).slotOwner 7 = tagOf (s.ctx (taskOf s s.cur)) ∧ (s.rs 4).toNat % 64 ≠ 0 ∧
    entryGoes a a.cur (enteredMode a.me.mode (cMISALIGN, 0)) (faultOf a (cMISALIGN, 0) (s.rs 4)) = true := by decide
/-- A PUSHM that has read its record waits for room, and one that finds room now. -/
theorem witness_pushm_waits :
    (let s := taskS.setMe { taskS.me with wait := .pushm .lq fillBits }
     CtlAt s 2 ∧ s.me.wait = .pushm .lq fillBits ∧ (s.me.entries .lq).length < qSize .lq ∧
     (let t := queued s .lq (List.replicate 32 (.marker 0)); t.me.wait = .pushm .lq fillBits ∧ qSize .lq ≤ (t.me.entries .lq).length)) ∧
    (let s := queued (holding (regs taskS [(5, 0x4000)]) 0x4000 (toBytes fillBits 64)) .lq (List.replicate 32 (.marker 0))
     s.me.wait = .none ∧ gives (checkVa s .read false (s.rs 5)) (fun s1 tr => gives (loadAt s1 tr 64 false) fun s2 bs =>
       s2.mem.invals.isEmpty && decide (queueOfOp (recOp (ofBytes 512 bs)) = some .lq) && !opMissing s2 (recOp (ofBytes 512 bs)) &&
       ownsEngine s2 .lq && decide (qSize .lq ≤ (s2.me.entries .lq).length)) = true) := by unfold CtlAt; decide
theorem witness_reductions_land :
    (let s := taskS.setMem { taskS.mem with ranges := [⟨none, 0x4000, 2048, .f64, .add⟩] }
     gives (canvasElem s s.cur moveRec (cpDst moveRec 0)) (fun s1 x =>
       gives (engineTrans s1 s.cur 1 .atomic (cpDown moveRec) (cpVa moveRec 0)) fun s2 tr => (cprdRow s2 s.cur 8 tr.pa).isNone &&
         gives (pacedTrans s2 256 (unitTrans s2 s.cur 1) .atomic (cpVa moveRec 0) tr) fun s3 tr' => !isRemote tr'.pa &&
           (rangeOf s3 (s3.ctx s.cur).part tr'.pa).any fun g => sizeMatches g false 8 &&
             stores (reduceInto s3 (engineReq s3 s.cur tr') g tr'.pa 8 (ofBytesNat x.1)) fun _ => true) = true) ∧
    (let r := { moveRec with n0 := 2 }
     let f : Flight := { bits := r.bits CopyOp.cprd.code, queue := .sq, ordinal := 0, mode := 1, total := 2 }
     copyOpOf (recOp f.bits) = .cprd ∧ (copyRec f.bits).tbar = 0xFFFFFFFF ∧ f.done + 1 < f.total ∧ f.done < paidElems (copyRec f.bits) f) := by
  decide
theorem witness_late_records :
    (let f : Flight := { bits := toMemory.bits 0x24, queue := .mq, ordinal := 0, mode := 1 }
     let s := taskS.setMe { taskS.me with flights := [f] }
     (s.me.flights.find? fun f => f.queue == .mq && writesMemory f && !f.atStart && !f.posting && f.late.isNone) = some f) ∧
    (let f : Flight := { bits := 0x20, queue := .mq, ordinal := 0, mode := 1, finished := true, done := 1, total := 1, late := some 0x4000 }
     let s := taskS.setMe { taskS.me with flights := [f] }
     completable s s.cur .mq = some f ∧ f.cause = 0 ∧ s.me.early = [] ∧ f.ordinal = (s.me.counter .mq).toNat ∧ bitAt f.bits 8 = false) := by decide
theorem witness_slots_own :
    (let s := settleArray (atHead arrayS .mq (mmaRec.bits 0x20)) 256; slotsOwn s (matSlots mmaRec)) ∧
    (let s := settleArray (atHead arrayS .mq (tileRec.bits 0x22)) 256; slotsOwn s (tileSlots tileRec)) ∧
    (let s := settleArray (atHead taskS .vq (addRec.bits 0x40)) 256; slotsOwn s (vecSlots 0x40 addRec)) := by
  unfold slotsOwn; decide +kernel

/-! ### Witnesses: the Shepherd, further forms -/

theorem witness_signals :
    (0x5000 : Word) ≠ 0 ∧ (0x5000 : Word).toNat % 8 = 0 ∧
    gives (translate sheS (shepherdTrans sheS 0) .atomic false 0x5000) (fun s1 tr => decide (tr.pa % 64 + 8 ≤ 64) && (setOf s1 tr.pa).isSome &&
      ((homeKey s1 tr.pa).all fun k => !memPoison s1.mem k) && !homeRefuses s1 (some 0) tr.pa && s1.mem.ranges.isEmpty && s1.mem.fwd.isEmpty)
      = true := by decide
namespace Witness
/-- A dispatch packet of blocks of two packs, and a package whose core 64 partition 0 may use. -/
def blockPk : Rec512 := packet [(4, 4, 1), (32, 6, 2), (38, 6, 2), (64, 20, 1), (84, 16, 1), (100, 16, 1), (128, 10, 8), (256, 64, 0x4000)]
def simtLaunch : Launch :=
  { queue := 3, packet := blockPk, part := 0, code := 1, narrow := false, entry := 0x4100, live := 0, members := 2, seq := 9, lastAgent := 0 }
def simtS : State :=
  let s := ((((handled packS).setHub 0x3400 0x110).setHub 0x2C50 0x10).setHub 0x6030 0x100000).setHub 0x6038 64
  s.setCtx (unitId 64 0) {}
end Witness
theorem witness_blocks_are_placed :
    let s := simtS.setLaunch 9 (some simtLaunch)
    let pk := simtLaunch.packet
    earlierFirst s simtLaunch = false ∧ mayPlace s 0 = true ∧ simtLaunch.placed < simtLaunch.members ∧ simtLaunch.code = 1 ∧ pkCohort pk = 0 ∧
    (s.part 0).switchAt = none ∧ 1 ≤ pkPacks pk ∧
    pagesFit s 0 (blockPages (pkShared pk) + pkPacks pk * packPages (allocOf (pkVregs pk)) false) = true ∧
    coreAmong s (fun c => simtFits s 0 c (pkPacks pk) (allocOf (pkVregs pk)) false (pkShared pk)) (diesFor s 0 1 (effPrio s 3 pk) false)
      = some 64 := by decide +kernel
namespace Witness
/-- A saved pack of block 5, whose shared memory is kept, and a saved task that keeps owner tag 12. -/
def savedPack : Saved :=
  { part := 0, launch := some 9, host := false, ctx := { pc := 0x40, index := 0, vregs := 8 }, unit := unitId 64 0, blockId := some 5, scopes := [] }
def blockSavedS : State :=
  let s := simtS.setBlock 5 (some { blockOf with gang := 1, cohort := none, packs := [(0, unitId 64 0)], resident := false, shared := [(0, 7)] })
  { s.setPart 0 { gangs := [1], resident := some 1 } with saved := [savedPack] }
def taggedTask (u : Nat) : Saved :=
  { part := 0, launch := some 9, host := false, ctx := { pc := 0x40, csize := 64, accslots := 4, accsave := 0x5000C }, unit := u, blockId := none, scopes := [] }
end Witness
theorem witness_blocks_return :
    let s := blockSavedS
    (s.saved.drop 0).head? = some savedPack ∧ mayPlace s 0 = true ∧ savedPack.blockId = some 5 ∧
    (let s0 := settleSwitch s 0
     (s0.block 5).any (fun b => !b.resident && b.cohort.isNone && b.gang == 1) = true ∧
     (gangReturns s0 0 1).any (fun s1 => savedPacks s1 5 == [savedPack] &&
       (coreAmong s1 (fun c => simtFits s1 0 c 1 8 false 64) (diesByTemp s1 (codeDies 1) 2)).isSome) = true) := by decide +kernel
theorem witness_tagged_tasks_return :
    ∀ u ∈ [unitId 256 0, unitId 257 0], let s := { sheS.setHub 0x3000 0x1000000010 with saved := [taggedTask u] }
      (s.saved.drop 0).head? = some (taggedTask u) ∧ mayPlace s 0 = true ∧ tagOf (taggedTask u).ctx ≠ 0xFF ∧
      savedCore s (taggedTask u) = some 256 ∧ ctxOwned s 0 0 = some 0 ∧ (canvasBase s 256 64).isSome = true ∧
      (∀ w ∈ s.saved, w.unit = (taggedTask u).unit → tagOf w.ctx = tagOf (taggedTask u).ctx → w = taggedTask u) := by decide +kernel

/-! ### Witnesses: the hub, further forms -/

/-- A counter store that an LPDDR set covers, one that passes the end of its set, and one that lies within. -/
theorem witness_counter_stores :
    (let s := (hostS.setHub 0x608 1).setHub 0x600 1
     setOf (s.setHub 0x708 0x10000000000) (hubF (s.setHub 0x708 0x10000000000) 0x708 28 24 * 2 ^ 28) = some (true, 0)) ∧
    setOf hostS (hubF hostS 0x708 28 24 * 2 ^ 28) = some (false, 0) ∧ 0 + 2 ^ 28 ≤ setBase hostS false 0 + setLen hostS false 0 ∧
    hubF hostS 0x780 0 1 = 0 ∧ hubF poolS 0x780 0 1 = 1 := by decide
theorem witness_site_changes :
    (let s := setHubF hostS (siteCtl 3) 0 3 3
     let s := s.setMem { s.mem with dir := [⟨4, 0, 0x100, .m⟩] }
     siteState s 3 = 3 ∧ (∀ x ∈ s.mem.ncf, x.dirty ≠ BitVec.allOnes 64) ∧ ringReady s 16 = false ∧ (homeKey s (64 * 0x100)).isSome = true) ∧
    (let s := (setHubF hostS (siteCtl 3) 0 3 4).setSite 3 { drainStart := some 7 }
     siteState s 3 = 4 ∧ (s.site 3).drainStart = some 7 ∧
     ∀ x ∈ (partOwned (partDrain { s with cycles := max s.cycles (7 + 2000000) } (dirtyNcf s 3)) (dirtyOwned s 3)).mem.ncf,
       x.dirty ≠ BitVec.allOnes 64) ∧
    siteState hostS 3 ≠ 1 ∧ siteState hostS 3 ≠ 2 ∧ siteState hostS 3 ≠ 3 ∧ siteState hostS 3 ≠ 4 ∧ siteState hostS 3 ≠ 5 ∧ siteState hostS 3 ≠ 6 ∧
    (∃ j, j < 8 ∧ hostS.hubR (0x200 + 64 * classOfSite 3 + 8 * j) &&& ~~~ (tableFeat (tableFor 3) j) ≠ 0) ∧
    (∀ j, j < 8 → ((List.range 8).foldl (fun s j => s.setHub (0x200 + 64 * classOfSite 3 + 8 * j) 0) hostS).hubR (0x200 + 64 * classOfSite 3 + 8 * j) &&&
      ~~~ (tableFeat (tableFor 3) j) = 0) := by
  refine ⟨by decide, by decide, by decide, by decide, by decide, by decide, by decide, by decide, ⟨0, by decide, by decide +kernel⟩, by decide +kernel⟩
theorem witness_refused_writes :
    (let s := setHubF poolS 0x780 8 8 40
     versionedAt s (poolBase + 0x200000) = true ∧ (homeKey s (poolBase + 0x200000)).isSome = true ∧ liveRange s (poolBase + 0x200000) = none) ∧
    (let s := (setHubF poolS 0x780 8 8 40).setMem { poolS.mem with pool := { poolS.mem.pool with lost := [(0x400000, 64)] } }
     poolLost s (poolBase + 0x400000) = true ∧ (homeKey s (poolBase + 0x400000)).isSome = true) := by decide
namespace Witness
/-- Line 0x100 of partition 2's range, of f64 or bf16 elements, shared by the peers of a vector. -/
def peerS (fmt : RFmt) (v : Word) : State :=
  setSharers (hostS.setMem { hostS.mem with ranges := [⟨some 2, 0x4000, 2048, fmt, .add⟩] }) 0x4008 v
def homeSum (s : State) (pa nb : Nat) : Bool := gives (homeRead s pa nb) fun _ l => l.length == nb
end Witness
theorem witness_peer_reductions :
    rangeOf (peerS .f64 0x20) (some 1) 0x4008 = none ∧ (rangeOf (peerS .f64 0x20) (some 2) 0x4008).any (fun r => rfmtBytes r.fmt == 8) = true ∧
    sharersOf (peerS .f64 0x20) 0x4008 = BitVec.ofNat 64 (2 ^ 5) ∧ sharersOf (peerS .f64 0x30) 0x4008 ≠ BitVec.ofNat 64 (2 ^ 5) ∧
    homeSum (peerS .f64 0x30) 0x4008 8 = true ∧ homeSum (setSharers (peerS .f64 0x20) 0x4008 0) 0x4008 8 = true ∧
    (rangeOf (peerS .bf16 0x30) (some 2) 0x4008).any (fun r => rfmtBytes r.fmt == 2) = true ∧ homeSum (peerS .bf16 0x30) 0x4008 2 = true ∧
    gives (homeRead (peerS .bf16 0x30) 0x4008 2) (fun s1 _ => homeSum (homeWrite s1 0x4008 [1, 2] none).1 0x400A 2) = true := by decide
theorem witness_client_reductions :
    (∀ m ∈ [(0 : BitVec 2), 1], ∀ rs ∈ [([] : List Range), [⟨some 0, 0x4000, 2048, .f64, .add⟩]],
      let s := clientS.setMem { clientS.mem with ranges := rs }
      gives (translate s.takeFree { shepherdTrans s 0 with mode := m } .atomic false 0x4008) (fun s1 tr => !homeRefuses s1 (some 0) tr.pa &&
        (let g := countAccess s1 8 tr.pa
         (rangeOf g (some 0) tr.pa).isSome == !rs.isEmpty && homeSum g tr.pa 8)) = true) := by decide +kernel
theorem witness_scrubbed_copies :
    let s := hostS.setMem { hostS.mem with fwd := [⟨0x10000, 0x20000, 0x10000, 1024⟩], msc := [lineOf 0x20040] }
    liveRange s 0x10040 = none ∧ mscLine s 0x10040 ∈ s.mem.msc := by decide

/-! ### Witnesses: selection and turns, further forms -/

/-- Two tenants in credit, of which the one after the last chosen comes first; a quarter that is charged nothing; scores between LO and HI. -/
theorem witness_round_robin :
    (let s := (tenantS.setHub 0x3400 0x1110110).setCtx (unitId 64 1) { tenantS.me with part := some 1, needs := none }
     let s := s.setCore 64 { s.core 64 with deficit := [(16, 4), (17, 4)], lastTenant := [(2, 0)] }
     let after (f : Nat) : Nat := (f + 7 * Sparse.get (fun _ => 7) (s.core 64).lastTenant 2 + 7) % 8
     quarterTurn s 64 2 = true ∧ (eligiblePacks s 64 2 0).isEmpty = false ∧ 0 < deficitOf (s.core 64) 2 0 ∧ 0 < deficitOf (s.core 64) 2 1 ∧
     after 1 < after 0 ∧ (∀ f, f < 8 → after f < after 1 → eligiblePacks s 64 2 f = [] ∨ deficitOf (s.core 64) 2 f ≤ 0) ∧
     eligiblePacks s 64 2 1 = [(unitId 64 1, 1)]) ∧
    (let s := packS.setWin 1 0x100200 0x1050904000006
     bitAt (s.winR 1 0x100200) 48 = true ∧ fieldNat (s.winR 1 0x100200) 40 8 ≤ fieldNat (s.winR 1 0x100200) 0 16 ∧
     fieldNat (s.winR 1 0x100200) 0 16 ≤ fieldNat (s.winR 1 0x100200) 32 8) := by decide
/-- A lane word under a mask of no lanes: its pack goes on, and its turn is no issue. -/
theorem witness_no_issue :
    let b := beginTurn (holding tenantS 0 (toBytes (0x4800805030001A10 : Word) 8)) (unitId 64 0)
    wordHere b = some 0x4800805030001A10 ∧ field (0x4800805030001A10 : Word) 62 2 = 1 ∧ b.activeMask (lHead 0x4800805030001A10).sm = 0 ∧
    next (turn b) (fun t => !issues b t) = true := by decide
theorem witness_control_turns :
    kindOf ctlS.cur ≠ .pack ∧ mayIssue ctlS ctlS.cur = true ∧ yieldsNow ctlS ctlS.cur = false ∧ ctlS.me.wait = .none ∧ kindOf hostS.cur = .host := by
  decide

/-! ### Witnesses: entries and their records -/

namespace Witness
/-- A misaligned jump of the host core, its handler and its record area at other addresses. -/
def entering (handler record : Word) : State :=
  let s := regs hostS [(9, 0x10C)]
  s.setMe { s.me with sup := { fhandler := handler, frbase := record }, hyp := { fhandler := handler, frbase := record } }
/-- The same of a unit whose tables map its record area, as a normal page, to the hub's register block. -/
def hubArea : State :=
  let s := regs (holding pagedS 0x12005 [0xF0, 0x0F]) [(9, 0x10C)]
  s.setMe { s.me with sup := { fhandler := 0x1000, frbase := 0x2000 } }
/-- The translation of the record area of mode 1. -/
def areaOf (s : State) : State × Except Cause Trans := translate s (unitTrans s s.cur 1) .write false (s.me.exc 1).frbase
def misaligned (s : State) : Trap := faultOf s (cMISALIGN, 0) (s.rs 9)
/-- A trap of three lanes that fits its record. -/
def laneTrap : Trap :=
  { cause := (cMISALIGN, 0), addr := 0x4009, kind := 0, lanes := 0x8000000000000021, maskreg := 63, frm := 2, word := 5,
    perLane := [⟨0, (cMISALIGN, 0), 0x4009⟩, ⟨5, (cNOTPRESENT, 2), 0x5000⟩, ⟨63, (cPERM, 3), 0x6001⟩] }
/-- What `HomeTakes` asks of the sixteen lines of a record. -/
def takesLines (s : State) (pa : Nat) : Bool := (List.range 16).all fun i => takes s (pa + 64 * i) 64
end Witness
/-- R364: an area that does not translate, one of a device, one that nothing answers for, and a handler that cannot be fetched. -/
theorem witness_fatal_entries :
    (∀ s ∈ [entering 0x1000 0x4000000000000000, hubArea, entering 0x1000 0x8000000000000,
        entering 0x8000000000000 0x2000], (s.me.exc 1).fhandler ≠ 0 ∧ (s.rs 9).toNat % 8 ≠ 0 ∧ enteredMode s.me.mode (cMISALIGN, 0) = 1) ∧
    fails (areaOf (entering 0x1000 0x4000000000000000)) (fun _ _ => true) = true ∧
    gives (areaOf hubArea) (fun _ tr => isDevice tr.pa) = true ∧
    (let s := entering 0x1000 0x8000000000000
     gives (areaOf s) (fun s1 tr => !isDevice tr.pa && !(placeRecord s1 s.cur tr (misaligned s) s.me.pc).2) = true) ∧
    (let s := entering 0x8000000000000 0x2000
     gives (areaOf s) (fun s1 tr => !isDevice tr.pa && (placeRecord s1 s.cur tr (misaligned s) s.me.pc).2 &&
       fails (fetchWhole (placeRecord s1 s.cur tr (misaligned s) s.me.pc).1 s.cur 1 (s.me.exc 1).fhandler) (fun _ _ => true)) = true) ∧
    partOf hostS hostS.cur = none ∧ hostS.me.live = true ∧ hostS.me.launch = none := by decide +kernel
theorem witness_fault_records :
    (let s := entering 0x1000 0x2000
     entryGoes s s.cur 1 (misaligned s) = true ∧
     gives (areaOf s) (fun s1 tr => decide (cohClass s1 (mySite s1) ≠ 2) && !tr.dev && takesLines s1 tr.pa &&
       ((List.range 1023).all fun j => homeKey s1 (tr.pa + (j + 1)) != homeKey s1 tr.pa)) = true) ∧
    FitsRecord laneTrap ∧ (64, 8, laneTrap.cause.1.toNat) ∈ recordFields laneTrap 0 := by unfold FitsRecord; decide +kernel
/-- R362, R363: the record of a misaligned jump at 0x2000: its cause, its kind and mode, its lane and its address; byte by byte by hand. -/
theorem test_fault_record :
    next (exec (.jr 9) ((entering 0x1000 0x2000).setMe { (entering 0x1000 0x2000).me with pc := 0x1230 })) (fun t =>
      physByte t 0x2000 == 0x30 && physByte t 0x2001 == 0x12 && physByte t 0x2008 == cMISALIGN && physByte t 0x200A == 0x10 &&
      physByte t 0x200B == 0x40 && physByte t 0x2010 == 1 && physByte t 0x2018 == 0x0C && physByte t 0x2019 == 1 &&
      physByte t 0x2040 == cMISALIGN && physByte t 0x2080 == 0x0C && physByte t 0x2081 == 1) = true := by decide +kernel

/-! ### Witnesses: ordered accesses, and late faults -/

theorem witness_ordered_accesses :
    (∀ a ∈ [AccKind.read, .write, .atomic], gives (checkVa loadS a true 0x4038) (fun s1 tr =>
      decide (releaseReady s1 31 = true ∧ releaseReady s1 0 = true) && gives (loadAt (acquirePoint s1 0) tr 8 (wideScope s1 s1.cur 0)) (fun _ bs => bs.length == 8) &&
      stores (storeAt s1 tr (toBytes (s1.rs 5) 8) (wideScope s1 s1.cur 0)) (fun _ => true) &&
      gives (atomicAt (acquirePoint s1 0) tr 8 (wideScope (acquirePoint s1 0) s1.cur 0) fun old =>
        (some (atomicOp .add (ofBytesNat old) 1 8)).map fun v => toBytes (BitVec.ofNat 64 v) 8) (fun _ _ => true)) = true) ∧
    (∀ a ∈ [AccKind.read, .write, .atomic], let s := handled (inMode loadS 0)
      fails (checkVa s a true 0x4038) (fun s1 c => entryGoes s1 s1.cur (enteredMode s1.me.mode c) (faultOf s1 c 0x4038)) = true) := by decide +kernel
/-- R217: an access to an address that nothing answers for. -/
theorem witness_late_accesses :
    let s := handled hostS
    let late (s : State) (c : BitVec 8) (w : Bool) : Bool :=
      entryGoes s s.cur (enteredMode s.me.mode (c, 0)) { faultOf s (c, 0) 0x8000000000000 with late := true, after := w }
    gives (checkVa s .read true 0x8000000000000) (fun s1 tr => fails (loadAt s1 tr 8 false) fun s2 c => late s2 c false) = true ∧
    gives (checkVa s .write true 0x8000000000000) (fun s1 tr => match storeAt s1 tr (toBytes (7 : Word) 8) false with
      | (s2, some c) => late s2 c true
      | _ => false) = true ∧
    gives (checkVa s .atomic true 0x8000000000000) (fun s1 tr => fails (atomicAt s1 tr 8 false fun old => some old) fun s2 c => late s2 c true) = true := by
  decide +kernel

/-! ### Witnesses: lanes, further forms -/

namespace Witness
/-- Lanes 0, 5 and 63 under the mask; stage 2 maps the pages of the handler and the record area, of 4 KiB, and none of lane 5's, and the
others' addresses are misaligned. -/
def stage2S : State :=
  let s := laneS.setMe { laneS.me with
    vreg := [(128, 0x4001), (133, 8), (197, 0x20000), (191, 0x403A)], ttb2 := 0x10001, part := some 0,
    hyp := { fhandler := 0x1000000001000, frbase := 0x2000 } }
  let table (s : State) (p : Nat × Nat) : State := holding s p.1 (toBytes (BitVec.ofNat 64 p.2) 8)
  [(0x10000, 0x11001), (0x11000, 0x12001), (0x12000, 0x13001), (0x13000, 0x14001), (0x14010, 0x232F), (0x10008, 0x15001), (0x15000, 0x16001),
    (0x16000, 0x17001), (0x17000, 0x18001), (0x18008, 0x1337)].foldl table (s.setHub 0x2C50 0x10)
def pageless (e : LaneFault) : Bool := decide (e.cause = (cNOTPRESENT, 2) ∨ e.cause = (cPERM, 5))
/-- The checks of an access fail in some lanes, and the fault can be entered. -/
def laneFaulting (r : State × List LaneFault × List LaneAt) (mode : BitVec 2) : Bool :=
  match r.2.1 with
  | [] => false
  | e :: fs => entryGoes r.1 r.1.cur mode
      { cause := e.cause, addr := e.addr, kind := 0, lanes := lanesMask (e :: fs), perLane := e :: fs, maskreg := 3, frm := r.1.me.mode, word := r.1.word }
end Witness
theorem witness_stage2_lanes :
    let r := laneChecks .read true 4 (fun l => stage2S.rv64 2 l) noRow ((paid stage2S).activeLanes 3) (issuesLdl (paid stage2S))
    ldlPermitted (paid stage2S) = true ∧ (r.2.1.map fun e => (e.lane, pageless e)) = [(0, false), (5, true), (63, false)] ∧
    enteredMode r.1.me.mode (cMISALIGN, 0) = 1 ∧ laneFaulting r 2 = true := by decide +kernel
theorem witness_faulting_lanes :
    let s := laneS.setMe { laneS.me with vreg := [(128, 0x4000), (133, 0x4009), (191, 0x403A)] }
    (∀ k ∈ [AccKind.read, .write, .atomic],
      laneFaulting (laneChecks k true 4 (fun l => s.rv64 2 l) noRow ((paid s).activeLanes 3) (paid s)) 1 = true) ∧
    offers s [2] ∧ laneFaulting (laneChecks .atomic false 4 (fun l => s.rv64 2 l) (redRow .f32) ((paid s).activeLanes 3) (paid s)) 1 = true := by
  unfold offers; decide +kernel
/-- LDL whose lanes home answers, on a FULL die, and of one lane on an NCF die. -/
theorem witness_lane_loads_reach_home :
    (∀ s ∈ [laneS, (regs laneS [(3, 0x20)]).setSite 1 { laneS.site 1 with cls := 2 }],
      let ea := fun l => s.rv64 2 l + (0 : BitVec 18).signExtend 64
      let r := laneChecks .read true 4 ea noRow ((paid s).activeLanes 3) (issuesLdl (paid s))
      let p := portStream r.1 .read (r.1.activeLanes 3) ea
      ldlPermitted (paid s) = true ∧ r.2.1 = [] ∧ (cohClass p (mySite p) ≠ 2 ∨ r.2.2.length = 1) ∧ p.mem.l1 = [] ∧ p.mem.ncf = [] ∧ p.mem.rem = [] ∧
      (r.2.2.all fun x => !x.tr.dev && takes p x.tr.pa 4) = true) ∧
    cohClass laneS 1 ≠ 2 ∧ cohClass (laneS.setSite 1 { laneS.site 1 with cls := 2 }) 1 = 2 := by decide +kernel
/-- R229, R230: lane 5 loads the bytes at 0x4008, sign-extended. -/
theorem test_ldl :
    next (exec (.ldlImm .i16 .relaxed 0 3 6 2 0) (holding (regs laneS [(3, 0x20)]) 0x4008 [0x34, 0x92])) (fun t => t.rv 6 5 == 0xFFFF9234) = true := by
  decide +kernel

/-! ### Witnesses: gathers, sets, pushes and clients, further forms -/

namespace Witness
/-- Two slices' partials of line 0x100 of a range of 32-bit sums, given out of order: elements 0 and 2, and element 0. -/
def partialsS : State :=
  let p (agent bits : Nat) (bytes : Rec512) : Partial :=
    { agent := agent, slice := 1, line := 0x100, bytes := bytes, touched := BitVec.ofNat 64 bits }
  let s := holding rangeS 0x4000 [5, 0, 0, 0, 6, 0, 0, 0, 7]
  s.setMem { s.mem with ranges := [⟨none, 0x4000, 2048, .i32wrap, .add⟩], partials := [p 2 5 0x40000000000000003, p 1 1 8] }
end Witness
theorem witness_gathers :
    gives (checkVa partialsS .read false (partialsS.rs 4)) (fun s1 tr =>
      (s1.mem.ranges.find? fun r => r.part == partOf s1 s1.cur && r.base == tr.pa).any fun r => decide (r.base ≤ 64 * 0x100) &&
        liveRange s1 (64 * 0x100) == some r && s1.mem.ncf.isEmpty && takes { s1 with mem := { s1.mem with ranges := [], partials := [] } } (64 * 0x100) 64 &&
        (s1.mem.partials.all fun x => x.line == 0x100) && ((s1.mem.partials.filter fun x => x.line == 0x100).map fun x => (x.agent, x.slice)) ==
          [(2, 1), (1, 1)]) = true := by decide +kernel
/-- R161: 5 + 8 + 3 and 7 + 4 by hand, element 1 as it was, no partial left. -/
theorem test_gather :
    next (exec (.rrdrop 4) partialsS) (fun t => numberAt t 0x4000 4 == 16 && numberAt t 0x4004 4 == 6 && numberAt t 0x4008 4 == 11 &&
      t.mem.partials.isEmpty && t.mem.ranges.isEmpty) = true := by decide +kernel
theorem witness_sets_stand :
    (∀ lp, ∀ k < 16, setEnabled State.reset lp k = false) ∧
    ((∃ c, c ∈ setChannels hostS false 0) ∧ setBase hostS false 0 + setLen hostS false 0 ≤ 2 ^ 40 ∧
      ∀ j < 16, j ≠ 0 → setEnabled hostS false j = false) := by
  refine ⟨by decide +kernel, ⟨0, by decide +kernel⟩, by decide +kernel, by decide +kernel⟩
/-- A PUSHM that has read its record, with an acknowledgement of a peer outstanding, at system scope. -/
theorem witness_pushm_release :
    let s := (taskS.setMem { taskS.mem with invals := [(5, 9, 100)] }).setMe { taskS.me with wait := .pushmRel .lq fillBits }
    releaseReady s (6 : BitVec 5).toNat = false ∧ s.me.wait = .pushmRel .lq fillBits ∧ kindOf (unitId 256 4) = .shadow := by decide
/-- A client host's page in an LPDDR set that its partition may not use. -/
theorem witness_refused_clients :
    let t := (clientS.setHub 0x608 1).setHub 0x600 1
    let s := holding (holding t 0x12001 [3, 0, 0, 0]) 0x12005 [1]
    ∀ k ∈ [AccKind.write, .atomic], ∀ m ∈ [(0 : BitVec 2), 1],
      gives (translate s.takeFree { shepherdTrans s 0 with mode := m } k false 0x4000)
        (fun s1 tr => homeRefuses (countAccess s1 8 tr.pa) (some 0) tr.pa) = true := by decide +kernel

end
end

section
/-! PROOFS. The bits of a register after a field of it is written, and after the bits of a mask are. -/

namespace Sys2Proof

/-- Bit by bit: a field's write replaces the field's bits and keeps the others. -/
theorem getLsbD_setField {w : Nat} (x : BitVec w) (lo n v i : Nat) :
    (setField x lo n v).getLsbD i = if lo ≤ i ∧ i < lo + n then decide (i < w) && v.testBit (i - lo) else x.getLsbD i := by
  simp only [setField, BitVec.getLsbD_or, BitVec.getLsbD_and, BitVec.getLsbD_not, BitVec.getLsbD_ofNat, Nat.testBit_mul_two_pow,
    Nat.testBit_two_pow_sub_one, Nat.testBit_mod_two_pow]
  by_cases hw : i < w
  · by_cases hlo : lo ≤ i
    · have hn : i - lo < n ↔ i < lo + n := by omega
      by_cases h : i < lo + n <;> simp [hw, hlo, hn, h]
    · simp [hw, hlo]
  · simp [hw, BitVec.getLsbD_of_ge x i (Nat.le_of_not_lt hw)]

theorem fieldNat_congr {w w' : Nat} {x : BitVec w} {y : BitVec w'} {lo lo' n : Nat}
    (h : ∀ i, i < n → x.getLsbD (lo + i) = y.getLsbD (lo' + i)) : fieldNat x lo n = fieldNat y lo' n := by
  refine congrArg BitVec.toNat (BitVec.eq_of_getLsbD_eq fun i hi => ?_)
  rw [BitVec.getLsbD_extractLsb', BitVec.getLsbD_extractLsb', h i hi]

theorem fieldNat_lt {w : Nat} (x : BitVec w) (lo n : Nat) : fieldNat x lo n < 2 ^ n := BitVec.isLt _

theorem fieldNat_setField_same {w : Nat} (x : BitVec w) {lo n : Nat} (v : Nat) (h : lo + n ≤ w) :
    fieldNat (setField x lo n v) lo n = v % 2 ^ n := by
  calc fieldNat (setField x lo n v) lo n = fieldNat (BitVec.ofNat n v) 0 n := by
        refine fieldNat_congr fun i hi => ?_
        have hw : lo + i < w := by omega
        rw [getLsbD_setField, if_pos (by omega), BitVec.getLsbD_ofNat]
        simp [hi, hw]
    _ = v % 2 ^ n := by simp [fieldNat, BitVec.extractLsb'_eq_self]

theorem fieldNat_setField_apart {w : Nat} (x : BitVec w) {lo n lo' n' : Nat} (v : Nat) (h : lo' + n' ≤ lo ∨ lo + n ≤ lo') :
    fieldNat (setField x lo n v) lo' n' = fieldNat x lo' n' := by
  refine fieldNat_congr fun i hi => ?_
  rw [getLsbD_setField, if_neg (by omega)]

theorem mem_rangeFrom (a n k : Nat) : k ∈ rangeFrom a n ↔ a ≤ k ∧ k < a + n := by
  induction n generalizing a with
  | zero => simp [rangeFrom]
  | succ n ih => simp only [rangeFrom, List.mem_cons, ih]; omega

namespace Machine

theorem getLsbD_mergeBits (old v mask : Word) (i : Nat) :
    (mergeBits old v mask).getLsbD i = if mask.getLsbD i then v.getLsbD i else old.getLsbD i := by
  simp only [mergeBits, BitVec.getLsbD_or, BitVec.getLsbD_and, BitVec.getLsbD_not]
  by_cases hi : i < 64
  · cases mask.getLsbD i <;> simp [hi]
  · simp [BitVec.getLsbD_of_ge, Nat.le_of_not_lt hi]

/-- A field within the mask is written. -/
theorem fieldNat_mergeBits_within (old v : Word) {mask : Word} {lo n : Nat} (h : ∀ i < n, mask.getLsbD (lo + i) = true) :
    fieldNat (mergeBits old v mask) lo n = fieldNat v lo n := by
  refine fieldNat_congr fun i hi => ?_
  rw [getLsbD_mergeBits, if_pos (h i hi)]

/-- A field outside the mask is kept. -/
theorem fieldNat_mergeBits_outside (old v : Word) {mask : Word} {lo n : Nat} (h : ∀ i < n, mask.getLsbD (lo + i) = false) :
    fieldNat (mergeBits old v mask) lo n = fieldNat old lo n := by
  refine fieldNat_congr fun i hi => ?_
  rw [getLsbD_mergeBits, if_neg (by simp [h i hi])]

end Machine
end Sys2Proof
end

section
/-! PROOFS. Hub registers: what a write of a field or of a mask leaves in each register, and which register of the package an accepted
write reaches. -/

namespace Sys2Proof.Machine

/-! ### One register, by field -/

theorem hubR_setHubF (s : State) (off lo n v b : Nat) :
    (setHubF s off lo n v).hubR b = if b = off then setField (s.hubR off) lo n v else s.hubR b := State.hubR_setHub _ _ _ _

theorem hubR_putBits (s : State) (off b : Nat) (v mask : Word) :
    (putBits s off v mask).hubR b = if b = off then mergeBits (s.hubR off) v mask else s.hubR b := State.hubR_setHub _ _ _ _

theorem hubR_setHubF_ne (s : State) {off b : Nat} (lo n v : Nat) (h : b ≠ off) : (setHubF s off lo n v).hubR b = s.hubR b := by
  rw [hubR_setHubF, if_neg h]

theorem hubR_putBits_ne (s : State) {off b : Nat} (v mask : Word) (h : b ≠ off) : (putBits s off v mask).hubR b = s.hubR b := by
  rw [hubR_putBits, if_neg h]

/-- The written field holds what it was given. -/
theorem hubF_setHubF_same (s : State) (off : Nat) {lo n : Nat} (v : Nat) (h : lo + n ≤ 64) : hubF (setHubF s off lo n v) off lo n = v % 2 ^ n := by
  rw [hubF, hubR_setHubF, if_pos rfl, fieldNat_setField_same _ _ h]

/-- A field copied out of a word is that word's field. -/
theorem hubF_setHubF_copied (s : State) (off : Nat) {lo n : Nat} (v : Word) (h : lo + n ≤ 64) :
    hubF (setHubF s off lo n (fieldNat v lo n)) off lo n = fieldNat v lo n := by
  rw [hubF_setHubF_same _ _ _ h, Nat.mod_eq_of_lt (fieldNat_lt v lo n)]

/-- Every field apart from the written one is kept, in its register and in the others. -/
theorem hubF_setHubF_apart (s : State) (off v b : Nat) {lo n lo' n' : Nat} (h : b ≠ off ∨ lo' + n' ≤ lo ∨ lo + n ≤ lo') :
    hubF (setHubF s off lo n v) b lo' n' = hubF s b lo' n' := by
  rw [hubF, hubR_setHubF]
  split
  · next e => subst e; exact fieldNat_setField_apart _ _ (h.resolve_left (fun hne => hne rfl))
  · rfl

theorem hubF_putBits_within (s : State) (off : Nat) (v : Word) {mask : Word} {lo n : Nat} (h : ∀ i < n, mask.getLsbD (lo + i) = true) :
    hubF (putBits s off v mask) off lo n = fieldNat v lo n := by
  rw [hubF, hubR_putBits, if_pos rfl, fieldNat_mergeBits_within _ _ h]

theorem hubF_putBits_outside (s : State) (off : Nat) (v : Word) {mask : Word} {lo n : Nat} (h : ∀ i < n, mask.getLsbD (lo + i) = false) :
    hubF (putBits s off v mask) off lo n = hubF s off lo n := by
  rw [hubF, hubR_putBits, if_pos rfl, fieldNat_mergeBits_outside _ _ h]; rfl

/-! ### Where a write goes (R18, R19) -/

theorem exec_registerWrite (pa : Nat) (v : Word) (w : Writer) (s : State) :
    exec (.registerWrite pa v w) s = .next (regWrite s (pa / 8 * 8) v w).1 := rfl
theorem exec_evringBaseWrite (ring : Nat) (v : Word) (w : Writer) (s : State) (h : ring ≤ 16) :
    exec (.evringBaseWrite ring v w) s = .next (regWrite s (hubAddr (ringBase ring)) v w).1 :=
  congrArg Host.Outcome.next (if_pos h)
theorem exec_migctlEn (v : Word) (w : Writer) (s : State) : exec (.migctlEn v w) s = .next (regWrite s (hubAddr 0x700) v w).1 := rfl
theorem exec_poolEn (v : Word) (w : Writer) (s : State) : exec (.poolEn v w) s = .next (regWrite s (hubAddr 0x780) v w).1 := rfl
theorem exec_lmaxWrite (v : Word) (w : Writer) (s : State) : exec (.lmaxWrite v w) s = .next (regWrite s (hubAddr 0x800) v w).1 := rfl
theorem exec_l2setWrite (site p : Nat) (v : Word) (w : Writer) (s : State) (hp : p < 16) (hs : site < 8) :
    exec (.l2setWrite site p v w) s = .next (regWrite s (winAddr site (0x100000 + 8 * p)) v w).1 :=
  congrArg Host.Outcome.next (if_pos ⟨hp, hs⟩)
theorem exec_lmaxPendEnd (s : State) (h : s.hubTime < s.mem.pendEnd) : exec .lmaxPendEnd s = .next { s with cycles := 2 * s.mem.pendEnd } :=
  congrArg Host.Outcome.next (if_pos h)
theorem exec_eventRingDrain (ring : Nat) (s : State) : exec (.eventRingDrain ring) s = .next (drainRing s ring 64) := rfl

/-- R19: a write from a writer that the hub does not accept leaves everything as it is. -/
theorem regWrite_refused (s : State) (pa : Nat) (v : Word) {w : Writer} (h : writerAccepted w = false) : (regWrite s pa v w).1 = s := by
  simp [regWrite, h]

/-- R18, R19: an accepted write of an address in the hub's block reaches the hub register there. -/
theorem regWrite_hub (s : State) {off : Nat} (v : Word) {w : Writer} (h : writerAccepted w = true) (ho : off < 0x10000) :
    (regWrite s (hubAddr off) v w).1 = hubWriteReg s off v w := by
  have hd : devOf s (hubAddr off) = .hub off := by
    rw [devOf, hubAddr, if_pos (by omega), Nat.add_sub_cancel_left]
  simp [regWrite, h, hd]

/-- R18, R28: the address of a running chiplet's register inside its window is that register. -/
theorem devOf_winAddr (s : State) {site off : Nat} (hs : site < 8) (hstate : siteState s site = 3) (ho : off < windowSize s site)
    (hlt : off < 2 ^ 40) : devOf s (winAddr site off) = .win site off := by
  have hn : (winAddr site off - slotBase) / 2 ^ 40 = site := by simp only [winAddr]; omega
  have hm : (winAddr site off - slotBase) % 2 ^ 40 = off := by simp only [winAddr]; omega
  rw [devOf, if_neg (by simp only [winAddr, slotBase, Config.hubBase]; omega), if_pos (by simp only [winAddr]; omega)]
  simp only [hn, hm, hstate, ho, and_self, if_true]

/-- R19, R28: an accepted write of a running chiplet's register reaches it. -/
theorem regWrite_win (s : State) {site off : Nat} (v : Word) {w : Writer} (h : writerAccepted w = true) (hs : site < 8)
    (hstate : siteState s site = 3) (ho : off < windowSize s site) (hlt : off < 2 ^ 40) :
    (regWrite s (winAddr site off) v w).1 = winWriteReg s site off v := by
  simp [regWrite, h, devOf_winAddr s hs hstate ho hlt]

end Sys2Proof.Machine
end

section
/-! PROOFS. The hub's registers and L2SET, one at a time: which operation an accepted write of each runs, and what that leaves. -/

namespace Sys2Proof.Machine

theorem mergedInto_putBits (s : State) (off : Nat) (v mask : Word) : MergedInto s (putBits s off v mask) off v mask :=
  ⟨by rw [hubR_putBits, if_pos rfl]; rfl, fun _ h => hubR_putBits_ne s v mask h, rfl⟩

/-- R15, R24: an accepted write of one of these registers replaces its writable bits. -/
theorem hubWriteReg_plain (s : State) (v : Word) (w : Writer) {p : Nat × Word} (hp : p ∈ plainHubRegs) :
    hubWriteReg s p.1 v w = putBits s p.1 v p.2 := by
  simp only [plainHubRegs, List.mem_cons, List.not_mem_nil, or_false] at hp
  obtain rfl | rfl | rfl := hp <;> rfl

theorem registerWrite_plain (s : State) (v : Word) {w : Writer} (hw : writerAccepted w = true) {p : Nat × Word} (hp : p ∈ plainHubRegs) :
    ∃ t, exec (.registerWrite (Config.hubBase + p.1) v w) s = .next t ∧ MergedInto s t p.1 v p.2 := by
  have ho : (Config.hubBase + p.1) / 8 * 8 = hubAddr p.1 ∧ p.1 < 0x10000 := by
    simp only [plainHubRegs, List.mem_cons, List.not_mem_nil, or_false] at hp
    obtain rfl | rfl | rfl := hp <;> decide
  refine ⟨_, exec_registerWrite _ _ _ _, ?_⟩
  rw [ho.1, regWrite_hub s v hw ho.2, hubWriteReg_plain s v w hp]
  exact mergedInto_putBits s p.1 v p.2

/-! ### BASE of an event ring (R34) -/

theorem ringBase_eq {ring : Nat} (h : ring ≤ 16) : ringBase ring = 0x6800 + 32 * ring := by
  unfold ringBase
  split <;> omega

theorem hubWriteReg_ringBase (s : State) {ring : Nat} (v : Word) (w : Writer) (h : ring ≤ 16) :
    hubWriteReg s (ringBase ring) v w = ringWrite s (ringBase ring) 0 v true true := by
  have e := ringBase_eq h
  have hi : ringBase ring % 32 / 8 = 0 := by omega
  have hb : ringBase ring / 32 * 32 = ringBase ring := by omega
  simp (disch := omega) only [hubWriteReg, if_neg, if_pos, hi, hb]

/-- R82: BASE of a ring that holds entries is not written. -/
theorem ringWrite_base_of_filled (s : State) (base : Nat) (v : Word) (hp ev : Bool) (h : ringEmpty s base = false) :
    ringWrite s base 0 v hp ev = s := by simp [ringWrite, h]

/-- R34: BASE of an empty event ring takes the address, and its count of lost events is cleared. -/
theorem ringWrite_base_of_empty (s : State) (base : Nat) (v : Word) (hp : Bool) (h : ringEmpty s base = true) :
    ringWrite s base 0 v hp true = setHubF (putBits s base v (maskAt 12 40)) (base + 8) 32 16 0 := by simp [ringWrite, h]

theorem evringBaseWrite_eq (s : State) {ring : Nat} (v : Word) {w : Writer} (hw : writerAccepted w = true) (h : ring ≤ 16) :
    exec (.evringBaseWrite ring v w) s = .next (ringWrite s (ringBase ring) 0 v true true) := by
  have hlt : ringBase ring < 0x10000 := by rw [ringBase_eq h]; omega
  rw [exec_evringBaseWrite ring v w s h, regWrite_hub s v hw hlt, hubWriteReg_ringBase s v w h]

theorem evringBaseWrite_of_filled (s : State) {ring : Nat} (v : Word) {w : Writer} (hw : writerAccepted w = true) (h : ring ≤ 16)
    (he : ringEmpty s (ringBase ring) = false) : exec (.evringBaseWrite ring v w) s = .next s := by
  rw [evringBaseWrite_eq s v hw h, ringWrite_base_of_filled s _ v _ _ he]

theorem evringBaseWrite_of_empty (s : State) {ring : Nat} (v : Word) {w : Writer} (hw : writerAccepted w = true) (h : ring ≤ 16)
    (he : ringEmpty s (ringBase ring) = true) :
    ∃ t, exec (.evringBaseWrite ring v w) s = .next t ∧ ringAddr t (ringBase ring) = fieldNat v 12 40 * 4096 ∧
      hubF t (ringBase ring + 8) 32 16 = 0 ∧ { t with hub := s.hub } = s := by
  refine ⟨_, evringBaseWrite_eq s v hw h, ?_⟩
  rw [ringWrite_base_of_empty s _ v _ he]
  refine ⟨?_, hubF_setHubF_same _ _ _ (by decide), rfl⟩
  rw [ringAddr, hubF_setHubF_apart _ _ _ _ (.inl (by omega)), hubF_putBits_within _ _ _ (by decide)]

/-! ### MIGCTL (R84, R85) -/

/-- R84: the address that MIGCNTBASE gives the counter store. -/
def counterBase (s : State) : Nat := hubF s 0x708 28 24 * 2 ^ 28

/-- R85: does the counter store, 2^28 bytes, lie wholly in one enabled near set? -/
def countersInNear (s : State) : Bool :=
  (setOf s (counterBase s)).any fun x => !x.1 && decide (counterBase s + 2 ^ 28 ≤ setBase s false x.2 + setLen s false x.2)

theorem countersInNear_iff (s : State) :
    countersInNear s = true ↔
      ∃ k, setOf s (counterBase s) = some (false, k) ∧ counterBase s + 2 ^ 28 ≤ setBase s false k + setLen s false k := by
  simp [countersInNear, Option.any_eq_true]

theorem countersInNear_eq_false (s : State)
    (h : ∀ k, setOf s (counterBase s) = some (false, k) → setBase s false k + setLen s false k < counterBase s + 2 ^ 28) :
    countersInNear s = false := by
  refine Bool.eq_false_iff.mpr fun hc => ?_
  obtain ⟨k, hk, hin⟩ := (countersInNear_iff s).mp hc
  exact absurd (h k hk) (Nat.not_lt.mpr hin)

/-- The bits of MIGCTL that a write replaces as they come: PROMOTE, UP, EPOCH and DROPS. -/
def migctlMask : Word := maskAt 1 1 ||| maskAt 8 8 ||| maskAt 16 4 ||| maskAt 32 16

/-- R85: EN as a write of MIGCTL leaves it. -/
def migctlEnabled (s : State) (v : Word) : Bool := bitAt v 0 && (hubF s 0x700 0 1 == 1 || countersInNear s)

theorem migctlWrite_eq (s : State) (v : Word) :
    migctlWrite s v = setHubF (putBits s 0x700 v migctlMask) 0x700 0 1 (if migctlEnabled s v then 1 else 0) := by
  unfold migctlWrite migctlMask
  dsimp only
  split
  · next k h =>
    have hc : countersInNear s = decide (hubF s 0x708 28 24 * 2 ^ 28 + 2 ^ 28 ≤ setBase s false k + setLen s false k) := by
      rw [countersInNear, counterBase, h, Option.any_some]
      exact Bool.true_and _
    rw [migctlEnabled, hc]
  · next h =>
    rw [migctlEnabled, countersInNear_eq_false s fun k hk => absurd hk (h k)]

theorem hubF_migctlWrite_en (s : State) (v : Word) : hubF (migctlWrite s v) 0x700 0 1 = if migctlEnabled s v then 1 else 0 := by
  rw [migctlWrite_eq, hubF_setHubF_same _ _ _ (by decide)]
  split <;> rfl

theorem hubF_migctlWrite_within (s : State) (v : Word) {lo n : Nat} (h0 : 1 ≤ lo) (h : ∀ i < n, migctlMask.getLsbD (lo + i) = true) :
    hubF (migctlWrite s v) 0x700 lo n = fieldNat v lo n := by
  rw [migctlWrite_eq, hubF_setHubF_apart _ _ _ _ (.inr (.inr h0)), hubF_putBits_within _ _ _ h]

theorem hubF_migctlWrite_outside (s : State) (v : Word) {lo n : Nat} (h0 : 1 ≤ lo) (h : ∀ i < n, migctlMask.getLsbD (lo + i) = false) :
    hubF (migctlWrite s v) 0x700 lo n = hubF s 0x700 lo n := by
  rw [migctlWrite_eq, hubF_setHubF_apart _ _ _ _ (.inr (.inr h0)), hubF_putBits_outside _ _ _ h]

theorem hubR_migctlWrite_ne (s : State) (v : Word) {o : Nat} (h : o ≠ 0x700) : (migctlWrite s v).hubR o = s.hubR o := by
  rw [migctlWrite_eq, hubR_setHubF_ne _ _ _ _ h, hubR_putBits_ne _ _ _ h]

theorem migctlWrite_frame (s : State) (v : Word) : { migctlWrite s v with hub := s.hub } = s := by
  rw [migctlWrite_eq]
  rfl

theorem migctlEn_eq (s : State) (v : Word) {w : Writer} (hw : writerAccepted w = true) :
    exec (.migctlEn v w) s = .next (migctlWrite s v) := by
  rw [exec_migctlEn, regWrite_hub s v hw (by decide)]
  rfl

/-- R85: EN, which a write may set and the store's place must allow. -/
theorem migctlWrite_en_clauses (s : State) (v : Word) :
    (bitAt v 0 = false → hubF (migctlWrite s v) 0x700 0 1 = 0) ∧
    (bitAt v 0 = true → hubF s 0x700 0 1 = 1 → hubF (migctlWrite s v) 0x700 0 1 = 1) ∧
    (bitAt v 0 = true → hubF s 0x700 0 1 = 0 →
      ((∀ k, setOf s (counterBase s) = some (false, k) → setBase s false k + setLen s false k < counterBase s + 2 ^ 28) →
        hubF (migctlWrite s v) 0x700 0 1 = 0) ∧
      ∀ k, setOf s (counterBase s) = some (false, k) → counterBase s + 2 ^ 28 ≤ setBase s false k + setLen s false k →
        hubF (migctlWrite s v) 0x700 0 1 = 1) := by
  simp only [hubF_migctlWrite_en, migctlEnabled]
  refine ⟨fun hv => ?_, fun hv he => ?_, fun hv he => ⟨fun hout => ?_, fun k hk hin => ?_⟩⟩
  · simp only [hv, Bool.false_and, Bool.false_eq_true, if_false]
  · simp only [hv, he, beq_self_eq_true, Bool.true_or, Bool.true_and, if_true]
  · have hc : countersInNear s = false := countersInNear_eq_false s hout
    simp only [he, hc, Nat.zero_ne_one, beq_iff_eq, Bool.or_false, Bool.and_eq_true, and_false, if_false]
  · have hc : countersInNear s = true := (countersInNear_iff s).mpr ⟨k, hk, hin⟩
    simp only [hv, hc, Bool.or_true, Bool.true_and, if_true]

/-! ### POOLCTL (R89) -/

/-- A further field written leaves all but the hub registers as they were. -/
theorem setHubF_rest {s t : State} (h : { t with hub := s.hub } = s) (off lo n v : Nat) : { setHubF t off lo n v with hub := s.hub } = s := h

/-- R89: PORT is taken while EN is 0. -/
def poolctlPort (s : State) (v : Word) : State := if hubF s 0x780 0 1 = 1 then s else setHubF s 0x780 1 1 (fieldNat v 1 1)

theorem poolctlWrite_eq (s : State) (v : Word) :
    poolctlWrite s v =
      if bitAt v 0 then setHubF (setHubF (poolctlPort s v) 0x780 2 1 0) 0x780 0 1 1 else setHubF (poolctlPort s v) 0x780 0 1 0 := rfl

theorem poolctlPort_frame (s : State) (v : Word) : { poolctlPort s v with hub := s.hub } = s := by
  unfold poolctlPort
  split <;> rfl

theorem hubR_poolctlPort_ne (s : State) (v : Word) {o : Nat} (h : o ≠ 0x780) : (poolctlPort s v).hubR o = s.hubR o := by
  unfold poolctlPort
  split
  · rfl
  · exact hubR_setHubF_ne s _ _ _ h

theorem hubF_poolctlPort_apart (s : State) (v : Word) {lo n : Nat} (h : lo + n ≤ 1 ∨ 2 ≤ lo) :
    hubF (poolctlPort s v) 0x780 lo n = hubF s 0x780 lo n := by
  unfold poolctlPort
  split
  · rfl
  · exact hubF_setHubF_apart s _ _ _ (.inr h)

theorem hubF_poolctlPort_port (s : State) (v : Word) :
    hubF (poolctlPort s v) 0x780 1 1 = if hubF s 0x780 0 1 = 1 then hubF s 0x780 1 1 else fieldNat v 1 1 := by
  unfold poolctlPort
  split
  · rfl
  · exact hubF_setHubF_copied s _ v (by decide)

theorem poolctlWrite_frame (s : State) (v : Word) : { poolctlWrite s v with hub := s.hub } = s := by
  rw [poolctlWrite_eq]
  split
  · exact setHubF_rest (setHubF_rest (poolctlPort_frame s v) _ _ _ _) _ _ _ _
  · exact setHubF_rest (poolctlPort_frame s v) _ _ _ _

theorem hubR_poolctlWrite_ne (s : State) (v : Word) {o : Nat} (h : o ≠ 0x780) : (poolctlWrite s v).hubR o = s.hubR o := by
  rw [poolctlWrite_eq]
  split
  · rw [hubR_setHubF_ne _ _ _ _ h, hubR_setHubF_ne _ _ _ _ h, hubR_poolctlPort_ne s v h]
  · rw [hubR_setHubF_ne _ _ _ _ h, hubR_poolctlPort_ne s v h]

/-- A write does to POOLCTL's fields other than bits 0 and 2 what it does to PORT. -/
theorem hubF_poolctlWrite_apart (s : State) (v : Word) {lo n : Nat} (h1 : 1 ≤ lo) (h2 : lo + n ≤ 2 ∨ 3 ≤ lo) :
    hubF (poolctlWrite s v) 0x780 lo n = hubF (poolctlPort s v) 0x780 lo n := by
  rw [poolctlWrite_eq]
  split
  · rw [hubF_setHubF_apart _ _ _ _ (.inr (.inr h1)), hubF_setHubF_apart _ _ _ _ (.inr h2)]
  · rw [hubF_setHubF_apart _ _ _ _ (.inr (.inr h1))]

theorem poolctlWrite_enable (s : State) (v : Word) (hv : bitAt v 0 = true) :
    hubF (poolctlWrite s v) 0x780 0 1 = 1 ∧ hubF (poolctlWrite s v) 0x780 2 1 = 0 := by
  rw [poolctlWrite_eq, if_pos hv]
  exact ⟨hubF_setHubF_same _ _ _ (by decide), by
    rw [hubF_setHubF_apart _ _ _ _ (.inr (.inr (by decide))), hubF_setHubF_same _ _ _ (by decide), Nat.zero_mod]⟩

theorem poolctlWrite_disable (s : State) (v : Word) (hv : bitAt v 0 = false) :
    hubF (poolctlWrite s v) 0x780 0 1 = 0 ∧ hubF (poolctlWrite s v) 0x780 2 1 = hubF s 0x780 2 1 := by
  rw [poolctlWrite_eq, if_neg (Bool.eq_false_iff.mp hv)]
  exact ⟨hubF_setHubF_same _ _ _ (by decide), by
    rw [hubF_setHubF_apart _ _ _ _ (.inr (.inr (by decide))), hubF_poolctlPort_apart s v (.inr (by decide))]⟩

theorem poolEn_eq (s : State) (v : Word) {w : Writer} (hw : writerAccepted w = true) :
    exec (.poolEn v w) s = .next (poolctlWrite s v) := by
  rw [exec_poolEn, regWrite_hub s v hw (by decide)]
  rfl

/-! ### LEASECTL (R107, R108) -/

theorem lmaxWrite_eq (s : State) (v : Word) {w : Writer} (hw : writerAccepted w = true) :
    exec (.lmaxWrite v w) s = .next (leasectlWrite s v) := by
  rw [exec_lmaxWrite, regWrite_hub s v hw (by decide)]
  rfl

/-- R108: an admitted LMAX is taken at once, and the former one stands beside it for its own length. -/
theorem leasectlWrite_admitted (s : State) (v : Word) (hlo : 1000 ≤ fieldNat v 0 32) (hhi : fieldNat v 0 32 ≤ 1000000)
    (hp : s.mem.pendEnd ≤ s.hubTime) :
    leasectlWrite s v =
      (setHubF s 0x800 0 32 (fieldNat v 0 32)).setMem
        { s.mem with oldLmax := hubF s 0x800 0 32, pendEnd := s.hubTime + hubF s 0x800 0 32 } := by
  rw [leasectlWrite, if_neg (by simp [between, hlo, hhi, hp])]
  rfl

theorem lmaxWrite_admitted (s : State) (v : Word) {w : Writer} (hw : writerAccepted w = true) (hlo : 1000 ≤ fieldNat v 0 32)
    (hhi : fieldNat v 0 32 ≤ 1000000) (hp : s.mem.pendEnd ≤ s.hubTime) :
    ∃ t, exec (.lmaxWrite v w) s = .next t ∧ hubF t 0x800 0 32 = fieldNat v 0 32 ∧ t.mem.oldLmax = hubF s 0x800 0 32 ∧
      t.mem.pendEnd = s.hubTime + hubF s 0x800 0 32 := by
  refine ⟨_, lmaxWrite_eq s v hw, ?_⟩
  rw [leasectlWrite_admitted s v hlo hhi hp]
  exact ⟨hubF_setHubF_copied s _ v (by decide), rfl, rfl⟩

/-! ### L2SET (R148, R381, R387) -/

/-- R148, R381, R387: must a write of L2SET be ignored? The partition is enabled, or a slice is reserved or another's. -/
def L2setRefused (s : State) (site p : Nat) (v : Word) : Prop :=
  pEnabled s p = true ∨ reservedSlices s site p &&& v ≠ 0 ∨ ∃ q, q < 16 ∧ q ≠ p ∧ s.winR site (0x100000 + 8 * q) &&& v ≠ 0

theorem l2setOp_of_refused (s : State) {site p : Nat} {v : Word} (h : L2setRefused s site p v) : l2setOp s site p v = s := by
  refine if_pos ?_
  simpa [L2setRefused, mem_rangeFrom, or_assoc] using h

theorem l2setOp_of_taken (s : State) {site p : Nat} {v : Word} (h : ¬ L2setRefused s site p v) : l2setOp s site p v = setL2 s site p v := by
  refine if_neg ?_
  simpa [L2setRefused, mem_rangeFrom, or_assoc] using h

theorem winR_setWin_same (s : State) (site off : Nat) (v : Word) : (s.setWin site off v).winR site off = v := Sparse.get_put_self _ _ _ _

theorem winR_setDie (s : State) (n : Nat) (x : Die) (site off : Nat) : (s.setDie n x).winR site off = s.winR site off := rfl

theorem winR_setL2 (s : State) (site p : Nat) (v : Word) : (setL2 s site p v).winR site (0x100000 + 8 * p) = v := by
  unfold setL2
  dsimp only
  split
  · rw [winR_setWin_same]
  · rw [winR_setDie, winR_setWin_same]

/-- A SIMT or systolic chiplet's write of L2SET that reaches it. -/
theorem l2setWrite_eq (s : State) {site p : Nat} (v : Word) {w : Writer} (hw : writerAccepted w = true) (h1 : 1 ≤ site) (h6 : site ≤ 6)
    (hp : p < 16) (hstate : siteState s site = 3) (ho : 0x100000 + 8 * p < windowSize s site) :
    exec (.l2setWrite site p v w) s = .next (l2setOp s site p v) := by
  rw [exec_l2setWrite site p v w s hp (by omega), regWrite_win s v hw (by omega) hstate ho (by omega)]
  have hi : (0x100000 + 8 * p - 0x100000) / 8 = p := by omega
  simp (disch := omega) only [winWriteReg, if_neg, if_pos, hi]

end Sys2Proof.Machine
end

section
/-! PROOFS. What a write of the hub to memory leaves alone: it changes memory and the counter of lost pool lines, and nothing else. -/

namespace Sys2Proof.Machine

/-- From `s` to `t` nothing changed but memory and POOLSTAT (R94), the hub register at 0x790. -/
def OnlyHome (s t : State) : Prop := { t with mem := s.mem, hub := s.hub } = s ∧ ∀ off, off ≠ 0x790 → t.hubR off = s.hubR off

namespace OnlyHome

theorem refl (s : State) : OnlyHome s s := ⟨rfl, fun _ _ => rfl⟩

theorem trans {s t u : State} (h : OnlyHome s t) (k : OnlyHome t u) : OnlyHome s u := by
  refine ⟨?_, fun off ho => (k.2 off ho).trans (h.2 off ho)⟩
  calc ({ u with mem := s.mem, hub := s.hub } : State)
      = { ({ u with mem := t.mem, hub := t.hub } : State) with mem := s.mem, hub := s.hub } := rfl
    _ = { t with mem := s.mem, hub := s.hub } := by rw [k.1]
    _ = s := h.1

theorem setMem (s : State) (m : Mem) : OnlyHome s (s.setMem m) := ⟨rfl, fun _ _ => rfl⟩

/-- R94: a lost pool line is counted. -/
theorem countLost (s : State) (lo n k : Nat) : OnlyHome s (satAddHub s 0x790 lo n k) :=
  ⟨rfl, fun _ ho => hubR_setHubF_ne s _ _ _ ho⟩

/-- Both branches of a conditional answer keep to home. -/
theorem ite {β : Type} {c : Prop} [Decidable c] {s : State} {a b : State × β} (ha : OnlyHome s a.1) (hb : OnlyHome s b.1) :
    OnlyHome s (if c then a else b).1 := by
  by_cases h : c
  · rwa [if_pos h]
  · rwa [if_neg h]

theorem evbuf {s t : State} (h : OnlyHome s t) : t.evbuf = s.evbuf := (congrArg State.evbuf h.1 :)

theorem ringTail {s t : State} (h : OnlyHome s t) (ring : Nat) : ringTail t (ringBase ring) = ringTail s (ringBase ring) := by
  have hb : 0x6800 ≤ ringBase ring := by unfold ringBase; split <;> omega
  rw [Machine.ringTail, hubF, h.2 _ (by omega)]
  rfl

theorem foldl {α : Type} {f : State → α → State} (h : ∀ s a, OnlyHome s (f s a)) (l : List α) : ∀ s, OnlyHome s (l.foldl f s) := by
  induction l with
  | nil => exact refl
  | cons a r ih => exact fun s => (h s a).trans (ih _)

end OnlyHome

theorem tellSharers_onlyHome (s : State) (region : Nat) : OnlyHome s (tellSharers s region) := by
  unfold tellSharers
  dsimp only
  split
  · exact .refl s
  · exact .setMem s _

theorem invalidateSharers_onlyHome (s : State) (pa : Nat) : OnlyHome s (invalidateSharers s pa) := by
  unfold invalidateSharers
  split
  · exact .refl s
  · exact .foldl (fun t a => tellSharers_onlyHome t (a / 2048)) _ s

theorem homeApply_onlyHome (s : State) (pa : Nat) (mask : Word) (bytes : Rec512) (desc : Option (BitVec 16)) :
    OnlyHome s (homeApply s pa mask bytes desc).1 := by
  unfold homeApply
  cases homeKey s (64 * lineOf pa) with
  | none => exact .refl s
  | some key => exact .ite (.refl s) (.ite (.refl s) (.ite (.refl s) ((OnlyHome.setMem s _).trans (invalidateSharers_onlyHome _ pa))))

theorem homeDesc_onlyHome (s : State) (pa : Nat) (d : BitVec 16) : OnlyHome s (homeDesc s pa d).1 := by
  unfold homeDesc
  cases homeKey s pa with
  | none => exact .refl s
  | some k => exact .ite (.refl s) ((OnlyHome.setMem s _).trans (invalidateSharers_onlyHome _ pa))

theorem dirDrop_onlyHome (s : State) (line : Nat) : OnlyHome s (dirDrop s line) := .setMem s _

theorem ncfMerge_onlyHome (s : State) (x : NcfLine) : OnlyHome s (ncfMerge s x).1 := by
  have hs (m : Mem) : OnlyHome s (dirDrop (s.setMem m) x.line) := (OnlyHome.setMem s m).trans (dirDrop_onlyHome _ _)
  unfold ncfMerge
  dsimp only
  refine .ite (.refl s) (.ite (.setMem s _) (.ite ?lost (.ite ?whole (.ite ?poisoned (.ite ?descriptor ?bytes)))))
  case lost => exact (hs _).trans (.countLost _ _ _ _)
  case whole => exact (hs _).trans (homeApply_onlyHome _ _ _ _ _)
  case poisoned => exact hs _
  case descriptor => exact (hs _).trans (homeDesc_onlyHome _ _ _)
  case bytes => exact (hs _).trans (homeApply_onlyHome _ _ _ _ _)

theorem ncfMergeAll_onlyHome (l : List NcfLine) : ∀ s, OnlyHome s (ncfMergeAll s l) := by
  induction l with
  | nil => exact .refl
  | cons x r ih => exact fun s => (ncfMerge_onlyHome s x).trans (ih _)

theorem gatherLine_onlyHome (s : State) (line : Nat) : OnlyHome s (gatherLine s line) := by
  have hs := ncfMergeAll_onlyHome (s.mem.ncf.filter fun x => x.line == line && x.owes) s
  unfold gatherLine
  dsimp only
  split
  · split
    · exact hs.trans (.setMem _ _)
    · exact hs.trans (((OnlyHome.setMem _ _).trans (.setMem _ _)).trans (invalidateSharers_onlyHome _ _))
  · exact hs.trans (.setMem _ _)

theorem gatherIfLive_onlyHome (s : State) (pa : Nat) : OnlyHome s (gatherIfLive s pa) := by
  unfold gatherIfLive
  split
  · exact gatherLine_onlyHome s _
  · exact .refl s

theorem homeWrite_onlyHome (s : State) (pa : Nat) (bs : List Byte) (desc : Option (BitVec 16)) : OnlyHome s (homeWrite s pa bs desc).1 :=
  (gatherIfLive_onlyHome s pa).trans (homeApply_onlyHome _ _ _ _ _)

theorem hubWords_onlyHome (ws : List Word) : ∀ s pa, OnlyHome s (hubWords s pa ws) := by
  induction ws with
  | nil => exact fun s _ => .refl s
  | cons w r ih => exact fun s pa => ((dirDrop_onlyHome s _).trans (homeWrite_onlyHome _ _ _ _)).trans (ih _ _)

theorem poolMeter_onlyHome (s : State) (pa : Nat) : OnlyHome s (poolMeter s pa) := by
  unfold poolMeter
  dsimp only
  split
  · exact .refl s
  · split <;> exact .setMem s _

theorem hubWrite_onlyHome (s : State) (pa : Nat) (ws : List Word) : OnlyHome s (hubWrite s pa ws) :=
  (OnlyHome.foldl (fun t l => poolMeter_onlyHome t (64 * l)) _ s).trans (hubWords_onlyHome ws _ pa)

/-! ### Event flags and records (R34, R254) -/

theorem foldl_setCtx_frame {f : State → Nat → Ctx} {g : Nat → Nat} (l : List Nat) :
    ∀ s : State, { l.foldl (fun t c => t.setCtx (g c) (f t c)) s with ctxs := s.ctxs } = s := by
  induction l with
  | nil => exact fun _ => rfl
  | cons c r ih =>
    exact fun s => (congrArg (fun t : State => { t with ctxs := s.ctxs }) (ih (s.setCtx (g c) (f s c))) :)

/-- R254: setting event flags changes units alone: resident, held back or saved. -/
theorem setRingFlags_frame (s : State) (ring : Nat) :
    { setRingFlags s ring with ctxs := s.ctxs, former := s.former, saved := s.saved } = s := by
  unfold setRingFlags
  split
  · rfl
  · unfold setHostFlags
    generalize rangeFrom 0 64 = l
    exact (congrArg (fun t : State => { t with former := s.former, saved := s.saved })
      (foldl_setCtx_frame (f := fun t c => { t.ctx (unitId c 0) with evt := true }) (g := fun c => unitId c 0) l s) :)

theorem setRingFlags_evbuf (s : State) (ring : Nat) : (setRingFlags s ring).evbuf = s.evbuf := (congrArg State.evbuf (setRingFlags_frame s ring) :)

theorem setRingFlags_hubR (s : State) (ring off : Nat) : (setRingFlags s ring).hubR off = s.hubR off :=
  (congrArg (fun t => State.hubR t off) (setRingFlags_frame s ring) :)

theorem writeRecord_evbuf (s : State) (ring : Nat) (r : EventRec) : (writeRecord s ring r).evbuf = s.evbuf := by
  unfold writeRecord
  dsimp only
  rw [setRingFlags_evbuf, setHubF, State.setHub_evbuf]
  exact (hubWrite_onlyHome s _ _).evbuf

/-- R34: a record's write advances TAIL by one. -/
theorem writeRecord_tail (s : State) (ring : Nat) (r : EventRec) :
    ringTail (writeRecord s ring r) (ringBase ring) = (ringTail s (ringBase ring) + 1) % 2 ^ 32 := by
  unfold writeRecord
  dsimp only
  rw [ringTail, hubF, setRingFlags_hubR, hubR_setHubF, if_pos rfl, fieldNat_setField_same _ _ (by decide), (hubWrite_onlyHome s _ _).ringTail]

/-- R34: a ring with room takes the one record that waits for it. -/
theorem drainRing_one (s : State) {ring : Nat} {r : EventRec} (n : Nat) (hb : Sparse.get (fun _ => []) s.evbuf ring = [r])
    (hr : ringReady s ring = true) :
    drainRing s ring (n + 2) = writeRecord { s with evbuf := Sparse.set s.evbuf ring [] } ring r := by
  have he : Sparse.get (fun _ => []) (writeRecord { s with evbuf := Sparse.set s.evbuf ring [] } ring r).evbuf ring = [] := by
    rw [writeRecord_evbuf]
    exact Sparse.get_set_self _ _ _ _
  rw [drainRing, hb]
  simp only [hr, if_true]
  rw [drainRing, he]

theorem eventRingDrain_one (s : State) {ring : Nat} {r : EventRec} (hb : Sparse.get (fun _ => []) s.evbuf ring = [r])
    (hr : ringReady s ring = true) :
    ∃ t, exec (.eventRingDrain ring) s = .next t ∧ Sparse.get (fun _ => []) t.evbuf ring = [] ∧
      ringTail t (ringBase ring) = (ringTail s (ringBase ring) + 1) % 2 ^ 32 := by
  refine ⟨_, exec_eventRingDrain ring s, ?_⟩
  rw [drainRing_one s 62 hb hr, writeRecord_evbuf]
  exact ⟨Sparse.get_set_self _ _ _ _, writeRecord_tail _ ring r⟩

end Sys2Proof.Machine
end

section
open Sys2Proof Sys2Proof.Machine

/-- Settles O45, register by register: each accepted write is traced to the register's own operation, and that operation's equation gives
the clauses. -/
theorem registerWritesTakeEffect : Obligations.RegisterWritesTakeEffect := by
  intro v w s
  refine ⟨fun hw => ?_, fun hw => ⟨?_, ?_, ?_, ?_, ?_, ?_, ?_⟩, exec_lmaxPendEnd s, fun ring r hb hr => eventRingDrain_one s hb hr⟩
  · have refused (pa : Nat) : Host.Outcome.next (φ := Fault) (ρ := Refusal) (regWrite s pa v w).1 = .next s :=
      congrArg _ (regWrite_refused s pa v hw)
    exact ⟨fun pa => refused _, refused _, refused _, refused _⟩
  · exact fun p hp => registerWrite_plain s v hw hp
  · exact fun ring h he => evringBaseWrite_of_empty s v hw h he
  · exact fun ring h he => evringBaseWrite_of_filled s v hw h he
  · obtain ⟨hclear, hkept, hset⟩ := migctlWrite_en_clauses s v
    unfold counterBase at hset
    exact ⟨_, migctlEn_eq s v hw, migctlWrite_frame s v, fun o ho => hubR_migctlWrite_ne s v ho,
      hubF_migctlWrite_within s v (by decide) (by decide), hubF_migctlWrite_within s v (by decide) (by decide),
      hubF_migctlWrite_within s v (by decide) (by decide), hubF_migctlWrite_within s v (by decide) (by decide),
      hubF_migctlWrite_outside s v (by decide) (by decide), hclear, hkept, hset⟩
  · have hport : hubF (poolctlWrite s v) 0x780 1 1 = if hubF s 0x780 0 1 = 1 then hubF s 0x780 1 1 else fieldNat v 1 1 := by
      rw [hubF_poolctlWrite_apart s v (by decide) (.inl (by decide)), hubF_poolctlPort_port]
    refine ⟨_, poolEn_eq s v hw, poolctlWrite_frame s v, fun o ho => hubR_poolctlWrite_ne s v ho, ?_, fun he => ?_, fun he => ?_,
      poolctlWrite_enable s v, poolctlWrite_disable s v⟩
    · rw [hubF_poolctlWrite_apart s v (by decide) (.inr (by decide)), hubF_poolctlPort_apart s v (.inr (by decide))]
    · rw [hport, if_neg (by omega)]
    · rw [hport, if_pos he]
  · exact fun hlo hhi hp => lmaxWrite_admitted s v hw hlo hhi hp
  · intro site p h1 h6 hp hstate ho
    rw [l2setWrite_eq s v hw h1 h6 hp hstate ho]
    refine ⟨fun he hres hq => ⟨_, rfl, ?_⟩, fun h => congrArg _ (l2setOp_of_refused s h)⟩
    rw [l2setOp_of_taken s, winR_setL2]
    rintro (h | h | ⟨q, hlt, hne, h⟩)
    · exact Bool.false_ne_true (he.symm.trans h)
    · exact h hres
    · exact h (hq q hlt hne)

end

section
/-! PROOFS. TLBI and LWAIT (R110, R111) in a privileged mode: the gate lets them pass, TLBI drops held entries and goes on, LWAIT waits. -/

namespace Sys2Proof.Machine

/-- R57, R247: a gate that asks for a privileged mode, and perhaps for a context that is not narrow, lets such a context pass. -/
theorem gated_privileged (s : State) (body : State → State) {new6 : Bool} (hm : s.me.mode ≠ 0) (hn : (new6 && s.me.narrow) = false) :
    gated s { priv := true, new6 := new6 } body = body s := by
  have hkind : Gate.kindOk { priv := true, new6 := new6 } (kindOf s.cur) = true := by cases kindOf s.cur <;> rfl
  have hpass : gateCause s { priv := true, new6 := new6 } = none := by
    unfold gateCause
    simpa [hkind, hn, Gate.overAlloc] using hm
  unfold gated
  rw [hpass]

theorem acknowledged_of_nil {s : State} (hi : s.mem.invals = []) : acknowledged s = true := by
  rw [acknowledged, hi, List.isEmpty_nil]

/-! ### A change of PC and wait alone -/

theorem State.advance_me (s : State) : s.advance.me = { s.me with pc := s.me.pc + 8, wait := .none } := s.me_setMe _

theorem setMe_onlyMe (s : State) (c : Ctx) : OnlyMe s (s.setMe c) := ⟨rfl, fun _ h => s.ctx_setMe_ne c h⟩

theorem advance_wroteAt (s : State) : WroteAt s s.advance 0 0 (s.me.pc + 8) := by
  have hregs : ∀ m k, seenReg s.advance.me m k = seenReg s.me m k := fun m k => by rw [s.advance_me]; rfl
  refine ⟨⟨setMe_onlyMe s _, by rw [s.advance_me]⟩, fun m k => ?_, by rw [s.advance_me], by rw [s.advance_me]⟩
  have h0 : ¬ (k = (0 : SReg).toNat ∧ k ≠ 0 ∧ bankOf m k = bankOf s.me.mode k) := fun h => h.2.1 h.1
  rw [hregs, if_neg h0]

/-! ### TLBI (R110) -/

/-- R110: what `tlbi.page` drops; a non-canonical address names nothing. -/
def namedByPage (s : State) (a : Word) (h : TlbEntry) : Bool :=
  canonical a && coversFor (unitTrans s s.cur s.me.mode) (a.toNat % 2 ^ 57) h

theorem dropEntries_none (s : State) : dropEntries s (fun _ => false) = s := by
  have hkeep : s.mem.tlb.filter (fun _ => !false) = s.mem.tlb := List.filter_eq_self.mpr fun _ _ => rfl
  unfold dropEntries
  rw [hkeep]
  rfl

theorem dropPage_eq (s : State) (a : Word) : dropPage s a = dropEntries s (namedByPage s a) := by
  unfold dropPage namedByPage
  cases canonical a with
  | false => simp [dropEntries_none]
  | true => simp

/-- R102, R110: an entry of the current tags whose own page holds the address is named; of a stage-2 entry the VMID is its tag. -/
theorem namedByPage_of_covers (s : State) {a : Word} {h : TlbEntry} (ha : canonical a = true) (hcore : h.core = coreOf s.cur)
    (hvmid : h.vmid = s.me.vmid) (htag : h.stage2 = true ∨ h.glob = true ∨ h.ctxid = s.me.ctxid)
    (hvpn : h.vpn = a.toNat % 2 ^ 57 / 2 ^ levelShift h.level) : namedByPage s a h = true := by
  have hreach : reaches (a.toNat % 2 ^ 57) h = true := by simp [reaches, hvpn]
  have hctx : s.ctx s.cur = s.me := rfl
  simp only [namedByPage, coversFor, unitTrans, hctx, ha, hreach, hcore, hvmid, beq_self_eq_true, Bool.true_and, Bool.and_true,
    Bool.or_eq_true, beq_iff_eq]
  exact htag

/-- R110: with no invalidation outstanding, TLBI drops the entries it names and goes on. -/
theorem tlbi_eq (s : State) {drop : State → State} {f : TlbEntry → Bool} (hm : s.me.mode ≠ 0) (hi : s.mem.invals = [])
    (hd : drop s = dropEntries s f) : tlbi s drop = (dropEntries s f).advance := by
  unfold tlbi
  rw [gated_privileged s _ hm rfl, if_pos (acknowledged_of_nil hi), hd]

theorem dropEntries_advance_me (s : State) (f : TlbEntry → Bool) :
    (dropEntries s f).advance.me = { s.me with pc := s.me.pc + 8, wait := .none } := State.advance_me _

theorem dropEntries_advance_mem (s : State) (f : TlbEntry → Bool) :
    (dropEntries s f).advance.mem = { s.mem with tlb := s.mem.tlb.filter fun h => !f h } := rfl

theorem exec_tlbiPage (s : State) (sa : SReg) (hm : s.me.mode ≠ 0) (hi : s.mem.invals = []) :
    exec (.tlbiPage sa) s = .next (dropEntries s (namedByPage s (s.rs sa))).advance :=
  congrArg Host.Outcome.next (tlbi_eq s hm hi (dropPage_eq s (s.rs sa)))

theorem exec_tlbiCtx (s : State) (hm : s.me.mode ≠ 0) (hi : s.mem.invals = []) :
    exec .tlbiCtx s = .next (dropEntries s fun h =>
      h.core == coreOf s.cur && (h.vmid == s.me.vmid && (h.stage2 || h.glob || h.ctxid == s.me.ctxid))).advance :=
  congrArg Host.Outcome.next (tlbi_eq s hm hi rfl)

theorem exec_tlbiAll (s : State) (hm : s.me.mode ≠ 0) (hi : s.mem.invals = []) :
    exec .tlbiAll s = .next (dropEntries s fun h => h.core == coreOf s.cur && (s.me.mode == 2 || h.vmid == s.me.vmid)).advance :=
  congrArg Host.Outcome.next (tlbi_eq s hm hi rfl)

/-! ### LWAIT (R111) -/

/-- R111: LWAIT that has not begun its wait begins it, to the lease in force and the skew after now. -/
theorem exec_lwait_begins (s : State) (hm : s.me.mode ≠ 0) (hn : s.me.narrow = false) (hi : s.mem.invals = [])
    (hw : ∀ d, s.me.wait ≠ .lwait d) :
    exec .lwait s = .next (s.stall (.lwait (s.hubTime + lmaxInForce s + Config.lskew))) := by
  refine congrArg Host.Outcome.next ((gated_privileged s _ hm (by rw [hn]; rfl)).trans ?_)
  split
  next d hd => exact absurd hd (hw d)
  next => rw [if_pos (acknowledged_of_nil hi)]

/-- R111: LWAIT whose time has come goes on. -/
theorem exec_lwait_ends (s : State) {d : Nat} (hm : s.me.mode ≠ 0) (hn : s.me.narrow = false) (hw : s.me.wait = .lwait d)
    (hd : d ≤ s.hubTime) : exec .lwait s = .next s.advance := by
  refine congrArg Host.Outcome.next ((gated_privileged s _ hm (by rw [hn]; rfl)).trans ?_)
  simp only [hw, if_pos hd]

/-- R111: the end of a wait lets HUBTIME reach the deadline, and moves the waiting unit on. -/
theorem exec_lwaitExpiry (s : State) {u d : Nat} (hw : (s.ctx u).wait = .lwait d) :
    exec (.lwaitExpiry u) s =
      .next (State.setCtx { s with cycles := max s.cycles (2 * d) } u { s.ctx u with wait := .none, pc := (s.ctx u).pc + 8 }) := by
  refine congrArg Host.Outcome.next ?_
  simp only [hw]
  rfl

theorem le_hubTime_max (s : State) (d : Nat) : d ≤ State.hubTime { s with cycles := max s.cycles (2 * d) } := by
  simp only [State.hubTime]
  omega

end Sys2Proof.Machine
end

section
open Sys2Proof Sys2Proof.Machine

/-- Settles O12: each TLBI is a drop of the entries it names followed by an advance; LWAIT is a stall, then an advance. -/
theorem invalidationsAndLeaseWaits : Obligations.InvalidationsAndLeaseWaits := by
  intro s hm hi
  refine ⟨?_, ?_, fun sa => ?_, fun hn hw => ?_, fun hn d hw hd => ?_, fun u d hw => ?_⟩
  · exact ⟨_, exec_tlbiAll s hm hi, dropEntries_advance_me s _, dropEntries_advance_mem s _⟩
  · exact ⟨_, exec_tlbiCtx s hm hi, dropEntries_advance_me s _, dropEntries_advance_mem s _⟩
  · refine ⟨_, exec_tlbiPage s sa hm hi, dropEntries_advance_me s _, ?_⟩
    rw [dropEntries_advance_mem]
    refine ⟨fun h hh => (List.mem_filter.mp hh).1, rfl, fun ha h hh hcore hvmid htag hvpn => ?_⟩
    have hkept : (!namedByPage s (s.rs sa) h) = true := (List.mem_filter.mp hh).2
    rw [namedByPage_of_covers s ha hcore hvmid htag hvpn] at hkept
    exact Bool.false_ne_true hkept
  · exact ⟨_, exec_lwait_begins s hm hn hi hw, setMe_onlyMe s _, s.me_setMe _⟩
  · exact ⟨_, exec_lwait_ends s hm hn hw hd, advance_wroteAt s⟩
  · exact ⟨_, exec_lwaitExpiry s hw, State.ctx_setCtx_self _ u _, le_hubTime_max s d⟩

end
